-- ==== Sys2Proof/Word.lean ====
section
/-! DEFINITION. The word types of the module. Byte order is little-endian everywhere (R5), and bit 0 is the least
significant bit of a word. -/

namespace Sys2Proof

/-- A byte of memory. -/
abbrev Byte := BitVec 8

/-- A general register of a thread (R75). -/
abbrev Word := BitVec 32

/-- A register pair, a pointer or a 64-bit register. -/
abbrev DWord := BitVec 64

/-- A 32-byte sector (R212). -/
abbrev Sector := BitVec 256

/-- A 128-byte line (R237). -/
abbrev Line := BitVec 1024

end Sys2Proof
end

