-- ==== Sys2Proof/Syntax.lean ====
section
/-! DEFINITION. The commands of the block: one constructor of Instr for each row of opcode_table.json, with its operands.
Fields of an instruction word, a message, a frame or a packet are kept as the spec lays them out, reserved fields
included, so that a malformed one can be presented and meets the rejection the spec gives it. -/

namespace Sys2Proof

/-- The group that issues an instruction: its core's global index (R19), its block position (R75) and its index in the
block. The instruction is executed by the group's current subset (R85). -/
structure GroupAt where
  core  : Fin 1536
  block : Fin 16
  group : Fin 32
deriving DecidableEq, Repr

/-- Bits [63:10] of an instruction word (Table 4.1), by the names of format A. Format I keeps IMM16 in src3 ++ src2;
format W keeps IMM32, and format B keeps TGT, in mod ++ src3 ++ src2; format M keeps ADDR in src1, DATA in src2, AUX in
src3, OFFSET in mod[11:0], ORDER in mod[13:12] and SCOPE in mod[15:14]. -/
structure Fields where
  pred : BitVec 3
  neg  : BitVec 1
  rsv  : BitVec 2
  dst  : BitVec 8
  src1 : BitVec 8
  src2 : BitVec 8
  src3 : BitVec 8
  mod  : BitVec 16
deriving DecidableEq, Repr

/-- A floor message: the header of Table 7.2 without its OP, which the row gives, and its payload. A payload shorter than a
line lies in the low bits of data. Snoops carry the requester's tile, agent and TAG (R244). -/
structure FloorMsg where
  vc       : BitVec 2
  srcTile  : BitVec 4
  dstTile  : BitVec 4
  srcAgent : BitVec 9
  dstAgent : BitVec 9
  tag      : BitVec 10
  cls      : BitVec 3
  part     : BitVec 4
  sector   : BitVec 2
  status   : BitVec 3
  poison   : BitVec 4
  length   : BitVec 4
  addr     : BitVec 52
  stream   : BitVec 1
  rsv      : BitVec 11
  data     : Line
  mask     : BitVec 128
  reqTile  : BitVec 4
  reqAgent : BitVec 9
  reqTag   : BitVec 10
  /-- R248; of a snoop: the requester asks for a sector. -/
  reqSector : Bool := false
  /-- R190; a reserved OP that stands in the header in place of the row's. -/
  odd      : Option (BitVec 6) := none
  /-- R205; of a cache's line on its way home: the context whose command last wrote it. -/
  writer   : Option Nat := none
deriving DecidableEq, Repr

/-- The opcodes of floor messages (Tables 7.4 and 8.3). -/
inductive FloorOp where
  | rdLineNc | rdSector | wrLine | wrMasked | wrSector | regRd | regWr
  | rdS | rdX | upg | wb | atomH | purgeWb
  | snpS | snpX | snpNc | snpInv | snpInvWb | purge
  | compS | compE | compM | cack | wbAck | snpMiss | snpAckS | snpAckI | snpFwdO | snpFwdI | snpFwdKeep
  | purgeDone | dataClean | dataDirty | atomOld | snpAckKeep | ack
deriving DecidableEq, Repr

/-- A frame on a link: the header of Table 9.7 and its payload bytes. -/
structure Frame where
  typ    : BitVec 8
  vc     : BitVec 2
  plen   : BitVec 6
  hops   : BitVec 3
  status : BitVec 3
  slow   : BitVec 2
  poison : BitVec 8
  pid    : BitVec 32
  dst    : BitVec 32
  src    : BitVec 32
  tag    : BitVec 16
  reason : BitVec 8
  size   : BitVec 3
  aop    : BitVec 3
  atype  : BitVec 4
  ret    : BitVec 1
  rsvA   : BitVec 13
  chan   : BitVec 16
  addr   : BitVec 52
  rsvB   : BitVec 12
  payload : List Byte
deriving DecidableEq, Repr

/-- An identity block (Table 9.5). restZero says that the reserved bytes and the rest of the area are zero. -/
structure IdBlock where
  magic    : BitVec 32
  version  : BitVec 16
  link     : BitVec 8
  lanes    : BitVec 8
  self     : BitVec 32
  pid      : BitVec 32
  slot     : BitVec 8
  flags    : BitVec 8
  rxNext   : BitVec 16
  revision : BitVec 16
  restZero : Bool
deriving DecidableEq, Repr

/-- A received codeword and its block: whether the codeword decodes and the symbols corrected on each lane (R264), the
marker of Table 9.1, the control of Table 9.2, the 632 bytes of the frame area, and the lanes that have lost lock (R271). -/
structure LinkBlock where
  decodes : Bool
  corr0   : Nat
  corr1   : Nat
  seq     : BitVec 12
  first   : BitVec 7
  rsvM    : BitVec 1
  crc     : BitVec 32
  ackSeq  : BitVec 12
  nak     : BitVec 1
  crVc    : BitVec 2
  rsvA    : BitVec 1
  crCount : BitVec 12
  slow    : BitVec 2
  stopped : BitVec 1
  rsvB    : BitVec 1
  area    : List Byte
  lost    : BitVec 2 := 0
deriving DecidableEq, Repr

/-- Who makes a register access (Table 14.2, R480, R482). -/
inductive Agent where
  | trayHost
  | hostCore (h : Fin 96)
  | warden (w : Fin 2)
  | commandProcessor
deriving DecidableEq, Repr

/-- A configuration window (R437): the hub, a floor tile or a compute die. -/
inductive Window where
  | hub
  | tile (t : Fin 12)
  | die (d : Fin 12)
deriving DecidableEq, Repr

/-- The DRAM devices of a tile: its HBM stack and its two LPDDR5X packages. -/
inductive Device where
  | hbm
  | lp (m : Fin 2)
deriving DecidableEq, Repr

/-- What the error-correcting code reports for a read (R212, R219). -/
inductive Ecc where
  | clean
  | corrected
  | uncorrectable
deriving DecidableEq, Repr

/-- The sensors of R375 and R377 that DIE_TEMP_SAMPLE takes. -/
inductive HotUnit where
  | die (d : Fin 12) (sensor : Fin 16)
  | tile (t : Fin 12) (sensor : Fin 4)
  | hub (sensor : Fin 4)
deriving DecidableEq, Repr

/-- What a telemetry frame brings (R363): whether it came, whether its CRC holds, its voltage and its current. -/
structure Telemetry where
  present   : Bool
  crcOk     : Bool
  milliVolt : Nat
  milliAmp  : Nat
  temp      : Nat := 0
  status    : BitVec 16 := 0
deriving DecidableEq, Repr

/-- The activity counts of one die and its tile in the last 10 µs (R364): instructions issued by unit class, steps of the matrix
engine by operand row of Table 6.1, and the others; and by region the same counts of its cores. -/
structure Activity where
  die     : Fin 12
  issued  : List Nat
  matrix  : List Nat
  slices  : Nat
  lookups : Nat
  bursts  : Nat
  flits   : Nat
  blocks  : Nat
  collBytes : Nat
  regions : List (List Nat × List Nat) := []
deriving DecidableEq, Repr

/-- What the hardware reports to the warden when a boot stage ends (R402 to R404): whether flash and the device root are good, the
capability words, the dies that fail, the UCIe modules of a tile that fail training (0 to 31 and 32 to 63 of its two ring links, 64 to
71 of its hub link), and the links that fail it at 32 GT/s (R12). -/
structure BootReport where
  flashOk : Bool
  rootOk  : Bool
  hubCaps : BitVec 32
  dieCaps : List (Nat × BitVec 32)
  failed  : List (Fin 12)
  ucieBad : List (Fin 12 × Fin 72)
  ucieSlow : List (Fin 12 × Fin 3)
  badTags : List (Fin 4 × Fin 2) := []
deriving DecidableEq, Repr

/-- A translation that a page walk makes (R234): for whom, of what address, for what access. -/
inductive Access where
  | load
  | store
  | atomic
  | fetch
deriving DecidableEq, Repr

/-- What a host core does to device memory through its L2 (R252, R57, R58). -/
inductive HostOp where
  | load
  | store
  | amo (op : Fin 9)
  | lr
  | sc
  | fence
  | wrsNto
deriving DecidableEq, Repr

/-- What the JTAG group is asked for (R482, Table 13.12). -/
inductive JtagOp where
  | bypass
  | idcode
  | readReg (off : BitVec 26)
  | readMem (addr : BitVec 52)
  | writeMem (addr : BitVec 52) (v : Byte)
  | halt (core : Fin 1536)
  | resume (core : Fin 1536)
  | readCore (g : GroupAt) (lane : Fin 32) (reg : Fin 256)
  | writeCore (g : GroupAt) (lane : Fin 32) (reg : Fin 256) (v : BitVec 32)
  | readPred (g : GroupAt) (lane : Fin 32) (p : Fin 8)
  | writePred (g : GroupAt) (lane : Fin 32) (p : Fin 8) (v : Bool)
  | readLocal (core : Fin 1536) (off : Fin 327680)
  | writeLocal (core : Fin 1536) (off : Fin 327680) (v : Byte)
  | haltHost (host : Fin 96)
  | resumeHost (host : Fin 96)
deriving DecidableEq, Repr

/-- A region that is power-gated, and whether it is because its supply is lost (Table 1.4, log 97). -/
structure RegionGate where
  region : Fin 4
  lost : Bool
deriving DecidableEq, Repr

/-- A host write as it stands on the link: its byte offset, its bytes, and the EP bit (Table 10.9). -/
structure HostWrite where
  offset : Nat
  bytes  : List Byte
  ep     : Bool
deriving DecidableEq, Repr

/-- The translation that a host core applies to an access: its virtual address, the core's satp, whether it is in user mode, SUM
and MXR of its status, and whether it sets A and D itself, as Svadu has it, or faults, as Svade has it (R35, R41). -/
structure HostVirt where
  va   : BitVec 64
  satp : BitVec 64
  user : Bool
  sum  : Bool
  mxr  : Bool
  adHw : Bool
deriving DecidableEq, Repr

/-- Where a host core accesses: the physical address, in place of which a virtual one counts where it is given. -/
structure HostAddr where
  pa   : BitVec 52
  virt : Option HostVirt := none
deriving DecidableEq, Repr

/-- A word of the NOP row: its bits [63:10], and its bits [9:0], which are 0 for NOP and hold the class and opcode of a word that assigns
none (R114). -/
structure NopWord where
  fields : Fields
  head   : BitVec 10 := 0
deriving DecidableEq, Repr

/-- Step 4 of a die reset (R12, R392): whether the die's repairs and UCIe links train, the UCIe modules that fail, and the links that fail
at 32 GT/s. -/
structure DieTraining where
  ok   : Bool
  bad  : List (Fin 72) := []
  slow : List (Fin 3) := []
deriving DecidableEq, Repr

/-- The kinds of host requests that no row of their own carries (Table 10.9, rows counted from 1): the first 32 bytes of the
request's header, and, for a read, its offset in its BAR and its length. -/
structure Violation where
  row    : Fin 11
  read   : Bool
  header : BitVec 256
  offset : Nat
  len    : Nat
deriving DecidableEq, Repr

/-- The commands, in the order of opcode_table.json. -/
inductive Instr where
  -- compute-core instructions (04)
  | nop (g : GroupAt) (f : NopWord)
  | bra (g : GroupAt) (f : Fields)
  | call (g : GroupAt) (f : Fields)
  | jmp (g : GroupAt) (f : Fields)
  | callr (g : GroupAt) (f : Fields)
  | exit (g : GroupAt) (f : Fields)
  | yield (g : GroupAt) (f : Fields)
  | trap (g : GroupAt) (f : Fields)
  | iadd (g : GroupAt) (f : Fields)
  | isub (g : GroupAt) (f : Fields)
  | imul (g : GroupAt) (f : Fields)
  | imulhi (g : GroupAt) (f : Fields)
  | imad (g : GroupAt) (f : Fields)
  | imin (g : GroupAt) (f : Fields)
  | imax (g : GroupAt) (f : Fields)
  | iabs (g : GroupAt) (f : Fields)
  | and (g : GroupAt) (f : Fields)
  | or (g : GroupAt) (f : Fields)
  | xor (g : GroupAt) (f : Fields)
  | not (g : GroupAt) (f : Fields)
  | shl (g : GroupAt) (f : Fields)
  | shr (g : GroupAt) (f : Fields)
  | popc (g : GroupAt) (f : Fields)
  | clz (g : GroupAt) (f : Fields)
  | brev (g : GroupAt) (f : Fields)
  | bfe (g : GroupAt) (f : Fields)
  | bfi (g : GroupAt) (f : Fields)
  | icmp (g : GroupAt) (f : Fields)
  | sel (g : GroupAt) (f : Fields)
  | mov (g : GroupAt) (f : Fields)
  | plop (g : GroupAt) (f : Fields)
  | psave (g : GroupAt) (f : Fields)
  | pload (g : GroupAt) (f : Fields)
  | inti (g : GroupAt) (op : BitVec 6) (f : Fields)
  | fadd (g : GroupAt) (f : Fields)
  | fsub (g : GroupAt) (f : Fields)
  | fmul (g : GroupAt) (f : Fields)
  | ffma (g : GroupAt) (f : Fields)
  | fmin (g : GroupAt) (f : Fields)
  | fmax (g : GroupAt) (f : Fields)
  | fminnum (g : GroupAt) (f : Fields)
  | fmaxnum (g : GroupAt) (f : Fields)
  | fcmp (g : GroupAt) (f : Fields)
  | fclass (g : GroupAt) (f : Fields)
  | rcp (g : GroupAt) (f : Fields)
  | sqrt (g : GroupAt) (f : Fields)
  | rsq (g : GroupAt) (f : Fields)
  | ex2 (g : GroupAt) (f : Fields)
  | lg2 (g : GroupAt) (f : Fields)
  | sin (g : GroupAt) (f : Fields)
  | cos (g : GroupAt) (f : Fields)
  | cvtFf (g : GroupAt) (f : Fields)
  | cvtFi (g : GroupAt) (f : Fields)
  | cvtIf (g : GroupAt) (f : Fields)
  | ld (g : GroupAt) (op : BitVec 6) (f : Fields)
  | st (g : GroupAt) (op : BitVec 6) (f : Fields)
  | atomAdd (g : GroupAt) (f : Fields)
  | atomMin (g : GroupAt) (f : Fields)
  | atomMax (g : GroupAt) (f : Fields)
  | atomAnd (g : GroupAt) (f : Fields)
  | atomOr (g : GroupAt) (f : Fields)
  | atomXor (g : GroupAt) (f : Fields)
  | atomExch (g : GroupAt) (f : Fields)
  | atomCas (g : GroupAt) (f : Fields)
  | rrd (g : GroupAt) (size : BitVec 3) (f : Fields)
  | rwr (g : GroupAt) (size : BitVec 3) (f : Fields)
  | ratom (g : GroupAt) (size : BitVec 3) (f : Fields)
  | rmsg (g : GroupAt) (size : BitVec 3) (f : Fields)
  | voteAll (g : GroupAt) (f : Fields)
  | voteAny (g : GroupAt) (f : Fields)
  | ballot (g : GroupAt) (f : Fields)
  | shflIdx (g : GroupAt) (f : Fields)
  | shflUp (g : GroupAt) (f : Fields)
  | shflDown (g : GroupAt) (f : Fields)
  | shflXor (g : GroupAt) (f : Fields)
  | gred (g : GroupAt) (f : Fields)
  | barBlock (g : GroupAt) (f : Fields)
  | barTeam (g : GroupAt) (f : Fields)
  | fence (g : GroupAt) (f : Fields)
  | twait (g : GroupAt) (f : Fields)
  | tpoll (g : GroupAt) (f : Fields)
  | mma (g : GroupAt) (f : Fields)
  | tile (g : GroupAt) (f : Fields)
  | srd (g : GroupAt) (f : Fields)
  | movi (g : GroupAt) (f : Fields)
  | iaddw (g : GroupAt) (f : Fields)
  | adrpc (g : GroupAt) (f : Fields)
  -- events of the compute core (03)
  | blockTerminate (core : Fin 1536) (block : Fin 16)
  | blockTerminationTimeout (core : Fin 1536) (block : Fin 16)
  | blockEnd (core : Fin 1536) (block : Fin 16)
  | barrierTimeout (core : Fin 1536)
  | groupOpTimeout (core : Fin 1536)
  | teamLocalAccess (id : Nat)
  | teamLocalResponse (id : Nat)
  | remoteLocalTimeout (id : Nat)
  | teamPlace (queue : Fin 256) (launch : Nat) (cell : Fin 192) (cores : List (Fin 8))
  | cooperativeStart (queue : Fin 256) (launch : Nat) (places : List (Fin 192 × List (Fin 8)))
  | localSectionConvert (core : Fin 1536) (way : Fin 12)
  | localSectionReturn (core : Fin 1536) (way : Fin 12)
  | icacheMiss (core : Fin 1536) (quarter : Fin 4) (context : Fin 32) (pa : BitVec 52)
  | quarterClockGate (core : Fin 1536) (quarter : Fin 4)
  | regionClockGate (d : Fin 12) (r : Fin 4)
  | regionPowerGate (d : Fin 12) (r : RegionGate)
  | diePllOff (d : Fin 12)
  | regionWakeComplete (d : Fin 12) (r : Fin 4)
  | regionWakeTimeout (d : Fin 12) (r : Fin 4)
  -- engine steps (06)
  | matrixDescriptorRead (core : Fin 1536) (token : BitVec 32)
  | matrixStart (core : Fin 1536)
  | matrixComplete (core : Fin 1536)
  | tileCvt (core : Fin 1536) (quarter : Fin 4)
  | tileAdd (core : Fin 1536) (quarter : Fin 4)
  | tileSub (core : Fin 1536) (quarter : Fin 4)
  | tileMul (core : Fin 1536) (quarter : Fin 4)
  | tileFma (core : Fin 1536) (quarter : Fin 4)
  | tileMin (core : Fin 1536) (quarter : Fin 4)
  | tileMax (core : Fin 1536) (quarter : Fin 4)
  | tileMinnum (core : Fin 1536) (quarter : Fin 4)
  | tileMaxnum (core : Fin 1536) (quarter : Fin 4)
  | rsum (core : Fin 1536) (quarter : Fin 4)
  | rmin (core : Fin 1536) (quarter : Fin 4)
  | rmax (core : Fin 1536) (quarter : Fin 4)
  | transpose (core : Fin 1536) (quarter : Fin 4)
  | fill (core : Fin 1536) (quarter : Fin 4)
  | tileComplete (core : Fin 1536) (quarter : Fin 4)
  -- floor memory operations (07)
  | rdLineNc (m : FloorMsg)
  | rdSector (m : FloorMsg)
  | wrLine (m : FloorMsg)
  | wrMasked (m : FloorMsg)
  | wrSector (m : FloorMsg)
  | regRd (m : FloorMsg)
  | regWr (m : FloorMsg)
  | floorRequestTimeout (srcTile : Fin 13) (srcAgent : BitVec 9) (tag : BitVec 10)
  | lineFillComplete (t : Fin 12) (j : Fin 128) (set : Fin 1024)
  | victimWriteback (t : Fin 12) (j : Fin 128)
  | streamEntryReset (t : Fin 12) (e : Fin 16)
  -- coherence (08)
  | rdS (m : FloorMsg)
  | rdX (m : FloorMsg)
  | upg (m : FloorMsg)
  | wb (m : FloorMsg)
  | atomH (m : FloorMsg)
  | purgeWb (m : FloorMsg)
  | snpS (m : FloorMsg)
  | snpX (m : FloorMsg)
  | snpNc (m : FloorMsg)
  | snpInv (m : FloorMsg)
  | snpInvWb (m : FloorMsg)
  | purge (m : FloorMsg)
  | compS (m : FloorMsg)
  | compE (m : FloorMsg)
  | compM (m : FloorMsg)
  | cack (m : FloorMsg)
  | wbAck (m : FloorMsg)
  | snpMiss (m : FloorMsg)
  | snpAckS (m : FloorMsg)
  | snpAckI (m : FloorMsg)
  | snpFwdO (m : FloorMsg)
  | snpFwdI (m : FloorMsg)
  | snpFwdKeep (m : FloorMsg)
  | snpAckKeep (m : FloorMsg)
  | purgeDone (m : FloorMsg)
  | dataClean (m : FloorMsg)
  | dataDirty (m : FloorMsg)
  | atomOld (m : FloorMsg)
  | directoryRecall (t : Fin 12) (line : Nat)
  | snoopTimeout (t : Fin 12) (line : Nat)
  | directoryFenceScan (t : Fin 12) (d : Fin 12)
  -- last-level memory, DRAM and translation (07)
  | flrLlmSliceCfg (a : Agent) (t : Fin 12) (j : Fin 128) (v : BitVec 32)
  | wayToScratch (t : Fin 12) (j : Fin 128)
  | scratchToCache (t : Fin 12) (j : Fin 128)
  | flrLlmCtl (a : Agent) (t : Fin 12) (v : BitVec 32)
  | flrStreamCtl (a : Agent) (t : Fin 12) (v : BitVec 32)
  | dramTempSample (t : Fin 12) (dev : Device) (temp : Nat)
  | memStopped (srcTile : Fin 13) (srcAgent : BitVec 9) (tag : BitVec 10)
  | refresh (t : Fin 12) (dev : Device) (bank : Nat)
  | scrub (t : Fin 12) (dev : Device) (sector : Nat) (ecc : Ecc) (mirror : Ecc)
  | dramRepair (t : Fin 12) (dev : Device) (bank : Fin 256) (row : BitVec 32)
  | pageWalk (d : Fin 12) (context : Fin 32) (atp : BitVec 64) (adHw : Bool) (va : BitVec 64) (acc : Access)
  | hubXlatInvCtl (a : Agent) (wide : Bool) (v : BitVec 64)
  | xlatInvalidationComplete
  -- links, remote transactions and collectives (09)
  | lnkCtlEnable (a : Agent) (l : Fin 96) (v : BitVec 1)
  | retrain (a : Agent) (l : Fin 96)
  | laneEn (a : Agent) (l : Fin 96) (v : BitVec 2)
  | laneReenable (a : Agent) (l : Fin 96)
  | equalisationComplete (l : Fin 96) (good : BitVec 2)
  | codewordLock (l : Fin 96)
  | identityBlock (l : Fin 96) (b : IdBlock)
  | identityBlockSend (l : Fin 96)
  | trainingAttemptTimeout (l : Fin 96)
  | linkDownRetry (l : Fin 96)
  | linkBlockReceived (l : Fin 96) (b : LinkBlock)
  | retrainTimeout (l : Fin 96)
  | rrdFrame (l : Fin 96) (fr : Frame)
  | rwrFrame (l : Fin 96) (fr : Frame)
  | ratomFrame (l : Fin 96) (fr : Frame)
  | rmsgFrame (l : Fin 96) (fr : Frame)
  | rrdData (l : Fin 96) (fr : Frame)
  | rwrAck (l : Fin 96) (fr : Frame)
  | ratomOld (l : Fin 96) (fr : Frame)
  | rmsgAck (l : Fin 96) (fr : Frame)
  | linkNak (l : Fin 96) (fr : Frame)
  | remoteTimeout (t : Fin 12) (tag : BitVec 16)
  | rmsgRetry (t : Fin 12) (tag : BitVec 16)
  | slowLevelFall (firstDie : Fin 12)
  | collData (l : Fin 96) (fr : Frame)
  | collAbort (l : Fin 96) (fr : Frame)
  | collectiveStart (queue : Fin 256)
  | collectiveComplete (queue : Fin 256)
  | collectiveTimeout (queue : Fin 256) (die : Fin 12)
  -- host interface (10)
  | bar2Write (w : HostWrite)
  | bar2Read (off : Nat) (len : Nat)
  | bar2Atomicop (off : Nat) (op : Fin 3) (size : Nat) (operand : BitVec 128) (compare : BitVec 128)
  | bar4Doorbell (w : HostWrite)
  | hostProtocolViolation (v : Violation)
  | hubWinCtl (a : Agent) (half : Fin 3) (v : BitVec 64)
  | hubHcrCtl (a : Agent) (ring : Fin 33) (v : BitVec 32)
  | recordPost (ring : Fin 33)
  | msixMessage (vec : Fin 33)
  | dlDown
  | linkEpoch
  | pcieConfigWrite (bme : Bool) (mse : Bool) (d3hot : Bool)
  | hostLinkDownTimeout
  | functionLevelReset
  | hotReset
  | perstNAssert
  | hostResetComplete
  -- command processor (11)
  | doorbellWrite (a : Agent) (queue : Fin 256) (off : Nat) (size : Nat) (v : BitVec 64)
  | commandFetch (queue : Fin 256)
  | emptySlotRetry (queue : Fin 256)
  | commandComplete (queue : Fin 256)
  | nopCommand (queue : Fin 256)
  | kernel (queue : Fin 256)
  | layer (queue : Fin 256)
  | layerKernelAdvance (queue : Fin 256)
  | stepEntryStart (queue : Fin 256) (entry : Nat)
  | wait (queue : Fin 256)
  | waitPoll (queue : Fin 256)
  | collective (queue : Fin 256)
  | contextCreate (queue : Fin 256)
  | contextDestroy (queue : Fin 256)
  | queueCreate (queue : Fin 256)
  | queueDestroy (queue : Fin 256)
  | countsRead (queue : Fin 256)
  | counterRead (queue : Fin 256)
  | kvPoolCreate (queue : Fin 256)
  | kvStep (queue : Fin 256)
  | kvPoolDestroy (queue : Fin 256)
  | powerLimit (queue : Fin 256)
  | partitionSet (queue : Fin 256)
  | systemAddress (queue : Fin 256)
  | reset (queue : Fin 256)
  | firmwareUpdate (queue : Fin 256)
  | keyRotate (queue : Fin 256)
  | debugUnlock (queue : Fin 256)
  | authLockoutEnd (context : Fin 32)
  | commandLimitExpiry (queue : Fin 256)
  | sliceEnd (firstDie : Fin 12)
  | contextSwitch (firstDie : Fin 12)
  -- power, thermal and sideband (12, 16)
  | telemetryFrame (rail : Fin 74) (t : Telemetry)
  | activityModelUpdate (acts : List Activity)
  | controlLoopUpdate
  | fastPath (watts : Nat)
  | lendUpdate
  | dieTempSample (u : HotUnit) (temp : Nat)
  | thermTripClear
  | coolantSample (inlet : Nat) (flow : Nat)
  | brake (level : Bool)
  | coolStop (level : Bool)
  | coolResume
  | standby (a : Agent)
  | wake (a : Agent)
  | regPhase (rail : Fin 74) (working : Nat)
  -- reset, boot and trust (13)
  | powerOn
  | inputPowerValid
  | brownOut
  | bootStage (r : BootReport)
  | bootWatchdog
  | hubPowerFail
  | dieResetStep (d : Fin 12) (caps : BitVec 32) (ok : DieTraining)
  | leaseRenew (w : Fin 2) (epoch : BitVec 32)
  | leaseClaim (w : Fin 2) (epoch : BitVec 32)
  | leaseLost
  | go (a : Agent) (v : BitVec 32)
  | attestationDone
  | cpHeartbeatMissed
  -- registers (14)
  | registerWrite (a : Agent) (off : BitVec 26) (wide : Bool) (v : BitVec 64)
  | registerAccessTimeout (a : Agent) (w : Window)
  | bitAliasWrite (a : Agent) (off : BitVec 24) (size : Nat) (v : BitVec 64)
  | sqAcknowledge (a : Agent) (off : BitVec 26) (v : BitVec 16)
  | commit (a : Agent) (w : Window)
  | ref (a : Agent) (w : Window) (v : BitVec 32)
  | crcSweep (w : Window)
  -- errors and fences (15)
  | handlingWindowTimeout (unit : BitVec 32)
  | heartbeatTimeout (d : Fin 12)
  | fenceTakesEffect (d : Fin 12)
  | coreRetired (core : Fin 1536)
  -- sideband, management and JTAG (16)
  | sidebandChatter (sig : Fin 3)
  | chatterEnd (sig : Fin 3)
  | slotIdChange (v : BitVec 6)
  | regRead (req : List Byte)
  | attestWrite (req : List Byte)
  | boardCounterRead (req : List Byte)
  | wardenSelect (req : List Byte)
  | packageReset (req : List Byte)
  | boardKeyRotate (req : List Byte)
  | i3cReplyRead
  | jtagAccess (op : JtagOp)
  -- link and host events
  | dlUp
  | perstNDeassert
  | postedWriteDelivered
  | linkBlockSend (l : Fin 96)
  | trainingPatternReceived (l : Fin 96)
  | inputPowerAbsent
  | diePllFailure (d : Fin 12)
  | hostCoreMemoryAccess (h : Fin 96) (op : HostOp) (stream : Bool) (pa : HostAddr) (size : Fin 5) (v : BitVec 128)
deriving DecidableEq, Repr

end Sys2Proof
end

