-- ==== Sys2Proof/Decode.lean ====
section
/-! DEFINITION. Instruction words of the compute core (R113, R118): the command that the class, the opcode and the fields of
a 64-bit word name. No other row of opcode_table.json has words. -/

namespace Sys2Proof

/-- Bits [63:10] of an instruction word (Table 4.1). -/
def fieldsOf (w : BitVec 64) : Fields :=
  { pred := w.extractLsb' 10 3, neg := w.extractLsb' 13 1, rsv := w.extractLsb' 14 2, dst := w.extractLsb' 16 8
    src1 := w.extractLsb' 24 8, src2 := w.extractLsb' 32 8, src3 := w.extractLsb' 40 8, mod := w.extractLsb' 48 16 }

/-- The rows of a class in the order of their opcodes (Tables 4.5 to 4.15); classes 2, 6, 7 and 9 keep more in OP. -/
def classRows : Nat → List (GroupAt → Fields → Instr)
  | 0x0 => [fun g f => .nop g ⟨f, 0⟩, .bra, .call, .jmp, .callr, .exit, .yield, .trap]
  | 0x1 => [.iadd, .isub, .imul, .imulhi, .imad, .imin, .imax, .iabs, .and, .or, .xor, .not, .shl, .shr, .popc, .clz, .brev, .bfe, .bfi,
            .icmp, .sel, .mov, .plop, .psave, .pload]
  | 0x3 => [.fadd, .fsub, .fmul, .ffma, .fmin, .fmax, .fminnum, .fmaxnum, .fcmp, .fclass]
  | 0x4 => [.rcp, .sqrt, .rsq, .ex2, .lg2, .sin, .cos]
  | 0x5 => [.cvtFf, .cvtFi, .cvtIf]
  | 0x8 => [.atomAdd, .atomMin, .atomMax, .atomAnd, .atomOr, .atomXor, .atomExch, .atomCas]
  | 0xA => [.voteAll, .voteAny, .ballot, .shflIdx, .shflUp, .shflDown, .shflXor, .gred]
  | 0xB => [.barBlock, .barTeam, .fence, .twait, .tpoll]
  | 0xC => [.mma, .tile]
  | 0xD => [.srd]
  | 0xE => [.movi, .iaddw, .adrpc]
  | _ => []

/-- R118, R121, R124, R127: the row that a class and an opcode name; none where they are unassigned (R114). INTI, LD and ST keep their
opcode, which they check themselves; RMT keeps its size. -/
def rowOf (cls op : Nat) : Option (GroupAt → Fields → Instr) :=
  match cls with
  | 0x2 => some fun g => .inti g (BitVec.ofNat 6 op)
  | 0x6 => some fun g => .ld g (BitVec.ofNat 6 op)
  | 0x7 => some fun g => .st g (BitVec.ofNat 6 op)
  | 0x9 => match op / 8 with
    | 0 => some fun g => .rrd g (BitVec.ofNat 3 op)
    | 1 => some fun g => .rwr g (BitVec.ofNat 3 op)
    | 2 => some fun g => .ratom g (BitVec.ofNat 3 op)
    | 3 => some fun g => .rmsg g (BitVec.ofNat 3 op)
    | _ => none
  | c => (classRows c)[op]?

/-- R113: the command of a word that a group issues. A word whose class and opcode are unassigned comes as the NOP row with its bits
[9:0] kept. -/
def decodeWord (g : GroupAt) (w : BitVec 64) : Instr :=
  match rowOf (w.extractLsb' 0 4).toNat (w.extractLsb' 4 6).toNat with
  | some row => row g (fieldsOf w)
  | none => .nop g ⟨fieldsOf w, w.extractLsb' 0 10⟩

/-- The command of a word of nbits bits, issued by group 0 of the block at position 0 of core 0: instruction words have 64 bits. -/
def decodeTableWord (nbits w : Nat) : Option Instr :=
  if nbits = 64 then some (decodeWord { core := 0, block := 0, group := 0 } (BitVec.ofNat 64 w)) else none

end Sys2Proof
end

