-- ==== Sys2Proof/Machine/Bits.lean ====
section
/-! DEFINITION. Bit fields, sign extension, byte order (R5) and the packing of records and packets. -/

namespace Sys2Proof.Machine

/-- Bits [lo + len - 1 : lo] of x. -/
def fldN (x lo len : Nat) : Nat := (x >>> lo) % 2 ^ len

/-- Bits [lo + len - 1 : lo] of v, as a number. -/
def fld {n : Nat} (v : BitVec n) (lo len : Nat) : Nat := fldN v.toNat lo len

/-- Bit i of v. -/
def bit {n : Nat} (v : BitVec n) (i : Nat) : Bool := v.getLsbD i

/-- v with bits [lo + len - 1 : lo] at x. -/
def setFld {n : Nat} (v : BitVec n) (lo len x : Nat) : BitVec n :=
  BitVec.ofNat n (v.toNat - fld v lo len * 2 ^ lo + (x % 2 ^ len) * 2 ^ lo)

/-- v with bit i at b. -/
def setBit {n : Nat} (v : BitVec n) (i : Nat) (b : Bool) : BitVec n := setFld v i 1 (if b then 1 else 0)

/-- The signed value of the low len bits of x. -/
def sgn (x len : Nat) : Int :=
  let y := x % 2 ^ len
  if y < 2 ^ (len - 1) then (y : Int) else (y : Int) - (2 ^ len : Nat)

/-- The low len bits of a signed number. -/
def wrap (x : Int) (len : Nat) : Nat := (x % ((2 ^ len : Nat) : Int)).toNat

/-- Little-endian value of bytes (R5). -/
def leNat : List Byte → Nat
  | [] => 0
  | b :: bs => b.toNat + 256 * leNat bs

/-- The n bytes of x, little-endian (R5). -/
def leBytes : Nat → Nat → List Byte
  | 0, _ => []
  | n + 1, x => BitVec.ofNat 8 x :: leBytes n (x / 256)

/-- Fields (byte offset, width in bytes, value) packed into one number. -/
def pack : List (Nat × Nat × Nat) → Nat
  | [] => 0
  | (o, w, v) :: l => (v % 256 ^ w) * 256 ^ o + pack l

/-- The fields (byte offset, width) of a packet, as a number. -/
def byteFld {n : Nat} (v : BitVec n) (off w : Nat) : Nat := fld v (8 * off) (8 * w)

/-- The numbers 0 to n - 1 whose bit of v is set. -/
def setBits {n : Nat} (v : BitVec n) : List Nat := (List.range n).filter (fun i => v.getLsbD i)

/-- The mask with the bits of l set. -/
def maskOf (n : Nat) (l : List Nat) : BitVec n := l.foldl (fun m i => m ||| BitVec.ofNat n (2 ^ i)) 0

/-- Population count. -/
def popc {n : Nat} (v : BitVec n) : Nat := (setBits v).length

/-- R427, R303: a 64-bit counter that saturates. -/
def satAdd (x : BitVec 64) (n : Nat) : BitVec 64 := BitVec.ofNat 64 (Nat.min (2 ^ 64 - 1) (x.toNat + n))

end Sys2Proof.Machine
end

