-- ==== Sys2Proof/Machine/Float.lean ====
section
/-! DEFINITION. Number formats and vector arithmetic: decoding (R135, R136), rounding and overflow (R138 to R142), the
vector operations (R143), comparison and minimum (R140), and conversion (R146 to R148). Operands are read as exact values,
computed exactly, and rounded once. -/

namespace Sys2Proof.Machine

/-- What a format has beside finite numbers (Table 5.1). -/
inductive Extra where
  | ieee
  | nanOnly
  | none
deriving DecidableEq, Repr

/-- A floating-point format (Table 5.1). -/
structure Fmt where
  ebits : Nat
  mbits : Nat
  bias : Nat
  extra : Extra
deriving DecidableEq, Repr

def fp64 : Fmt := ⟨11, 52, 1023, .ieee⟩
def fp32 : Fmt := ⟨8, 23, 127, .ieee⟩
def fp16 : Fmt := ⟨5, 10, 15, .ieee⟩
def bf16 : Fmt := ⟨8, 7, 127, .ieee⟩
def e5m2 : Fmt := ⟨5, 2, 15, .ieee⟩
def e4m3 : Fmt := ⟨4, 3, 7, .nanOnly⟩
def e3m2 : Fmt := ⟨3, 2, 3, .none⟩
def e2m3 : Fmt := ⟨2, 3, 1, .none⟩
def e2m1 : Fmt := ⟨2, 1, 1, .none⟩

/-- Bits of an element. -/
def Fmt.bits (f : Fmt) : Nat := 1 + f.ebits + f.mbits

/-- The format of a type code (Table 4.2): elements of block-scaled formats have the format of their elements. -/
def fmtOf (code : Nat) : Option Fmt :=
  match code with
  | 0 => some fp64 | 1 => some fp32 | 2 => some fp16 | 3 => some bf16 | 4 => some e4m3 | 5 => some e5m2
  | 6 => some e4m3 | 7 => some e5m2 | 8 => some e3m2 | 9 => some e2m3 | 10 => some e2m1 | 11 => some e2m1
  | _ => Option.none

/-- A decoded element: NaN, an infinity, or (-1)^neg x m x 2^q (R136). -/
inductive FVal where
  | nan
  | inf (neg : Bool)
  | fin (neg : Bool) (m : Nat) (q : Int)
deriving DecidableEq, Repr

/-- R136: the value of an element. -/
def Fmt.decode (f : Fmt) (x : Nat) : FVal :=
  let neg := fldN x (f.ebits + f.mbits) 1 = 1
  let e := fldN x f.mbits f.ebits
  let m := fldN x 0 f.mbits
  let top := 2 ^ f.ebits - 1
  let isNan := match f.extra with
    | .ieee => e = top && m ≠ 0
    | .nanOnly => e = top && m = 2 ^ f.mbits - 1
    | .none => false
  if isNan then .nan
  else if decide (f.extra = .ieee) && decide (e = top) then .inf neg
  else .fin neg (if e = 0 then m else 2 ^ f.mbits + m) ((if e = 0 then 1 else (e : Int)) - f.bias - f.mbits)

/-- The sign bit in place. -/
def Fmt.sign (f : Fmt) (neg : Bool) : Nat := if neg then 2 ^ (f.ebits + f.mbits) else 0

/-- Table 5.1: largest finite magnitude. -/
def Fmt.maxFinite (f : Fmt) : Nat :=
  match f.extra with
  | .ieee => (2 ^ f.ebits - 1) * 2 ^ f.mbits - 1
  | .nanOnly => 2 ^ (f.ebits + f.mbits) - 2
  | .none => 2 ^ (f.ebits + f.mbits) - 1

/-- R139, R142: the NaN written. -/
def Fmt.nan (f : Fmt) : Nat :=
  match f.extra with
  | .ieee => (2 ^ f.ebits - 1) * 2 ^ f.mbits + 2 ^ (f.mbits - 1)
  | .nanOnly => 2 ^ (f.ebits + f.mbits) - 1
  | .none => 0

/-- R141, R142: an infinite operand or result written, in saturate mode or not. -/
def Fmt.inf (f : Fmt) (sat : Bool) (neg : Bool) : Nat :=
  match f.extra with
  | .ieee => (2 ^ f.ebits - 1) * 2 ^ f.mbits + f.sign neg
  | .nanOnly => if sat then f.maxFinite + f.sign neg else f.nan
  | .none => f.maxFinite + f.sign neg

/-- Rounding modes: 0 nearest even, 1 toward zero, 2 toward minus infinity, 3 toward plus infinity, 4 nearest away (R122). -/
def roundsUp (rnd : Nat) (neg : Bool) (odd : Bool) (rem half : Nat) : Bool :=
  if rem = 0 then false else
  match rnd with
  | 0 => decide (half < 2 * rem) || (decide (half = 2 * rem) && odd)
  | 1 => false
  | 2 => neg
  | 3 => !neg
  | _ => decide (half ≤ 2 * rem)

/-- n x 2^q rounded to a multiple of 2^k: the multiplier. -/
def roundShift (rnd : Nat) (neg : Bool) (m : Nat) (q k : Int) : Nat :=
  if k ≤ q then m <<< (q - k).toNat
  else
    let sh := (k - q).toNat
    let n := m >>> sh
    let rem := m % 2 ^ sh
    if roundsUp rnd neg (n % 2 = 1) rem (2 ^ sh) then n + 1 else n

/-- R141: a finite result that overflows. -/
def Fmt.overflow (f : Fmt) (rnd : Nat) (sat neg : Bool) : Nat :=
  let toMax := match rnd with
    | 1 => true
    | 2 => !neg
    | 3 => neg
    | _ => false
  if sat || toMax then f.maxFinite + f.sign neg else f.inf false neg

/-- The exact value (-1)^neg x m x 2^q rounded once (R138, R141, R142). A zero keeps the sign given. -/
def Fmt.round (f : Fmt) (rnd : Nat) (sat neg : Bool) (m : Nat) (q : Int) : Nat :=
  if m = 0 then f.sign neg else
  let e := (Nat.log2 m : Int) + q
  let emin : Int := 1 - f.bias
  let k := (if e < emin then emin else e) - f.mbits
  let n0 := roundShift rnd neg m q k
  let big := n0 = 2 ^ (f.mbits + 1)
  let n := if big then 2 ^ f.mbits else n0
  let k := if big then k + 1 else k
  if n < 2 ^ f.mbits then n + f.sign neg
  else
    let field := (k + f.mbits + f.bias).toNat
    let mag := field * 2 ^ f.mbits + (n - 2 ^ f.mbits)
    if f.maxFinite < mag then f.overflow rnd sat neg else mag + f.sign neg

/-- A decoded value written to a format (R146). -/
def Fmt.encode (f : Fmt) (rnd : Nat) (sat : Bool) : FVal → Nat
  | .nan => f.nan
  | .inf neg => f.inf sat neg
  | .fin neg m q => f.round rnd sat neg m q

/-! ## Exact arithmetic on decoded values -/

/-- The signed multiplier of a value at the exponent k ≤ q. -/
def scaled (neg : Bool) (m : Nat) (q k : Int) : Int :=
  let x : Int := (m <<< (q - k).toNat : Nat)
  if neg then -x else x

/-- The exact sum, with the sign that R143 gives a zero. -/
def FVal.add (rnd : Nat) : FVal → FVal → FVal
  | .nan, _ => .nan
  | _, .nan => .nan
  | .inf a, .inf b => if a = b then .inf a else .nan
  | .inf a, .fin _ _ _ => .inf a
  | .fin _ _ _, .inf b => .inf b
  | .fin a m q, .fin b n r =>
    let k := if q < r then q else r
    let x := scaled a m q k + scaled b n r k
    if x = 0 then
      let both := decide (m = 0) && decide (n = 0)
      let z := if both && a = b then a else rnd = 2
      .fin z 0 0
    else .fin (x < 0) x.natAbs k

/-- The exact product (R143). -/
def FVal.mul : FVal → FVal → FVal
  | .nan, _ => .nan
  | _, .nan => .nan
  | .inf a, .inf b => .inf (a != b)
  | .inf a, .fin b n _ => if n = 0 then .nan else .inf (a != b)
  | .fin a m _, .inf b => if m = 0 then .nan else .inf (a != b)
  | .fin a m q, .fin b n r => .fin (a != b) (m * n) (q + r)

/-- NEG and ABS of R122 on the bits of an operand. -/
def Fmt.modify (f : Fmt) (abs neg : Bool) (x : Nat) : Nat :=
  let y := fldN x 0 f.bits
  let a := if abs then fldN y 0 (f.ebits + f.mbits) else y
  if neg then a ^^^ 2 ^ (f.ebits + f.mbits) else a

def Fmt.add (f : Fmt) (rnd : Nat) (sat : Bool) (a b : Nat) : Nat :=
  f.encode rnd sat ((f.decode a).add rnd (f.decode b))
def Fmt.sub (f : Fmt) (rnd : Nat) (sat : Bool) (a b : Nat) : Nat := f.add rnd sat a (f.modify false true b)
def Fmt.mul (f : Fmt) (rnd : Nat) (sat : Bool) (a b : Nat) : Nat := f.encode rnd sat ((f.decode a).mul (f.decode b))
/-- R143: one rounding after the exact product and sum. -/
def Fmt.fma (f : Fmt) (rnd : Nat) (sat : Bool) (a b c : Nat) : Nat :=
  f.encode rnd sat (((f.decode a).mul (f.decode b)).add rnd (f.decode c))

/-! ## Comparison (R140) -/

def Fmt.isNan (f : Fmt) (x : Nat) : Bool := decide (f.decode x = .nan)

/-- The order of a number: its magnitude bits with its sign, so that both zeros are 0. -/
def Fmt.key (f : Fmt) (x : Nat) : Int :=
  let m := fldN x 0 (f.ebits + f.mbits)
  if fldN x (f.ebits + f.mbits) 1 = 1 then -(m : Int) else m

/-- The order in which -0 lies below +0. -/
def Fmt.totalKey (f : Fmt) (x : Nat) : Int :=
  let m := fldN x 0 (f.ebits + f.mbits)
  if fldN x (f.ebits + f.mbits) 1 = 1 then -(m : Int) - 1 else m

/-- R122: FCMP. -/
def Fmt.cmp (f : Fmt) (cond : Nat) (a b : Nat) : Bool :=
  let un := f.isNan a || f.isNan b
  let x := f.key a
  let y := f.key b
  match cond with
  | 0 => !un && decide (x = y)
  | 1 => un || decide (x ≠ y)
  | 2 => !un && decide (x < y)
  | 3 => !un && decide (x ≤ y)
  | 4 => !un && decide (y < x)
  | 5 => !un && decide (y ≤ x)
  | 6 => un
  | _ => !un

def Fmt.least (f : Fmt) (a b : Nat) : Nat := if f.totalKey a ≤ f.totalKey b then fldN a 0 f.bits else fldN b 0 f.bits
def Fmt.greatest (f : Fmt) (a b : Nat) : Nat := if f.totalKey b ≤ f.totalKey a then fldN a 0 f.bits else fldN b 0 f.bits
/-- IEEE 754-2019 minimum, maximum, minimumNumber and maximumNumber (R140). -/
def Fmt.minimum (f : Fmt) (a b : Nat) : Nat := if f.isNan a || f.isNan b then f.nan else f.least a b
def Fmt.maximum (f : Fmt) (a b : Nat) : Nat := if f.isNan a || f.isNan b then f.nan else f.greatest a b
def Fmt.minNum (f : Fmt) (a b : Nat) : Nat :=
  if f.isNan a then (if f.isNan b then f.nan else fldN b 0 f.bits) else if f.isNan b then fldN a 0 f.bits else f.least a b
def Fmt.maxNum (f : Fmt) (a b : Nat) : Nat :=
  if f.isNan a then (if f.isNan b then f.nan else fldN b 0 f.bits) else if f.isNan b then fldN a 0 f.bits else f.greatest a b

/-- R122: FCLASS of an IEEE format; a quiet NaN has the top mantissa bit set. -/
def Fmt.classMask (f : Fmt) (x : Nat) : Nat :=
  let neg := fldN x (f.ebits + f.mbits) 1 = 1
  let e := fldN x f.mbits f.ebits
  match f.decode x with
  | .nan => if fldN x (f.mbits - 1) 1 = 1 then 2 ^ 9 else 2 ^ 8
  | .inf s => if s then 1 else 2 ^ 7
  | .fin _ m _ =>
    if m = 0 then (if neg then 2 ^ 3 else 2 ^ 4)
    else if e = 0 then (if neg then 2 ^ 2 else 2 ^ 5)
    else (if neg then 2 ^ 1 else 2 ^ 6)

/-! ## Conversion (R146 to R148) -/

/-- R146: CVT.FF. -/
def convert (dst src : Fmt) (rnd : Nat) (sat : Bool) (x : Nat) : Nat := dst.encode rnd sat (src.decode x)

/-- Width and signedness of an integer code (Table 4.3). -/
def intWidth (code : Nat) : Nat := match code with
  | 0 => 32 | 1 => 32 | 2 => 64 | 3 => 64 | 4 => 16 | 5 => 16 | 6 => 8 | _ => 8
def intSigned (code : Nat) : Bool := code % 2 = 1
def intMin (code : Nat) : Int := if intSigned code then -(2 ^ (intWidth code - 1) : Nat) else 0
def intMax (code : Nat) : Int := if intSigned code then (2 ^ (intWidth code - 1) : Nat) - 1 else (2 ^ intWidth code : Nat) - 1
/-- The value of an operand of an integer code. -/
def intVal (code x : Nat) : Int := if intSigned code then sgn x (intWidth code) else ((x % 2 ^ intWidth code : Nat) : Int)
def clampInt (code : Nat) (x : Int) : Int := if x < intMin code then intMin code else if intMax code < x then intMax code else x

/-- R147: CVT.FI, as a number of the integer code's width. -/
def toInt (src : Fmt) (code rnd x : Nat) : Nat :=
  match src.decode x with
  | .nan => 0
  | .inf neg => wrap (if neg then intMin code else intMax code) (intWidth code)
  | .fin neg m q =>
    let n : Int := (roundShift rnd neg m q 0 : Nat)
    wrap (clampInt code (if neg then -n else n)) (intWidth code)

/-- R148: CVT.IF. -/
def ofInt (dst : Fmt) (code rnd : Nat) (sat : Bool) (x : Nat) : Nat :=
  let v := intVal code x
  dst.round rnd sat (v < 0) v.natAbs 0

end Sys2Proof.Machine
end

