-- ==== Sys2Proof/Machine/Flags.lean ====
section
/-! DEFINITION. Conditions, predicate functions, saturation, and the operations of atomics and group reductions. The compute
cores keep no floating-point status flags (R122); their flags are the predicates. -/

namespace Sys2Proof.Machine

/-- R120: the condition of ICMP. -/
def icmpHolds (cond : Nat) (a b : Int) : Bool :=
  match cond with
  | 0 => decide (a = b)
  | 1 => decide (a ≠ b)
  | 2 => decide (a < b)
  | 3 => decide (a ≤ b)
  | 4 => decide (b < a)
  | _ => decide (b ≤ a)

/-- R119: PLOP: bit 4 a + 2 b + c of the table. -/
def plopBit (lut : Nat) (a b c : Bool) : Bool :=
  fldN lut ((if a then 4 else 0) + (if b then 2 else 0) + (if c then 1 else 0)) 1 = 1

/-- R145: an exact result wrapped, or clamped with SAT. -/
def narrow (code : Nat) (sat : Bool) (x : Int) : Nat := wrap (if sat then clampInt code x else x) (intWidth code)

/-- R126: the bytes of an ATYPE. -/
def atypeBytes (t : Nat) : Nat := match t with
  | 0 => 4 | 1 => 4 | 2 => 8 | 3 => 8 | 4 => 4 | 5 => 8 | 6 => 2 | _ => 2

/-- R126: the integer code of an ATYPE below 4, which numbers them as Table 4.3 does. -/
def atypeFmt (t : Nat) : Option Fmt := match t with
  | 4 => some fp32 | 5 => some fp64 | 6 => some fp16 | 7 => some bf16 | _ => none

/-- Table 4.11: whether an operation accepts an ATYPE. -/
def atomAllowed (op t : Nat) : Bool :=
  decide (t < 8) && (match op with
  | 0 => true | 1 => true | 2 => true | 6 => true
  | 3 => t = 0 || t = 2 | 4 => t = 0 || t = 2 | 5 => t = 0 || t = 2 | 7 => t = 0 || t = 2
  | _ => false)

/-- Table 4.11, R160, R145: the new value of an atomic; for CAS, data is the compare value and data2 the new value. -/
def atomNew (op t old data data2 : Nat) : Nat :=
  match atypeFmt t with
  | some f =>
    match op with
    | 0 => f.add 0 false old data
    | 1 => f.minimum old data
    | 2 => f.maximum old data
    | _ => fldN data 0 f.bits
  | none =>
    let w := intWidth t
    match op with
    | 0 => (old + data) % 2 ^ w
    | 1 => if intVal t data < intVal t old then data % 2 ^ w else old % 2 ^ w
    | 2 => if intVal t old < intVal t data then data % 2 ^ w else old % 2 ^ w
    | 3 => (old &&& data) % 2 ^ w
    | 4 => (old ||| data) % 2 ^ w
    | 5 => (old ^^^ data) % 2 ^ w
    | 6 => data % 2 ^ w
    | _ => if old % 2 ^ w = data % 2 ^ w then data2 % 2 ^ w else old % 2 ^ w

/-- R158: the identity of a reduction. -/
def redIdentity (op t : Nat) : Nat :=
  match atypeFmt t with
  | some f =>
    match op with
    | 0 => f.sign true
    | 1 => f.inf false false
    | _ => f.inf false true
  | none =>
    match op with
    | 1 => wrap (intMax t) (intWidth t)
    | 2 => wrap (intMin t) (intWidth t)
    | 3 => 2 ^ intWidth t - 1
    | _ => 0

/-- R158: one level of the tree over a list in lane order: neighbours combined, left operand first. -/
def redLevel (f : Nat → Nat → Nat) : List Nat → List Nat
  | a :: b :: l => f a b :: redLevel f l
  | l => l

/-- R158, R159: the tree over 2^n values. -/
def redTree (f : Nat → Nat → Nat) : Nat → List Nat → Nat
  | 0, l => l.headD 0
  | n + 1, l => redTree f n (redLevel f l)

end Sys2Proof.Machine
end

