-- ==== Sys2Proof/Machine/Dot.lean ====
section
/-! DEFINITION. The defined dot product of the matrix engine (R150 to R156), the digest's CRC-32C (R182, R436) and the tree
of tile reductions (R159). -/

namespace Sys2Proof.Machine

/-- The rows of Table 5.4, with INT4 x INT4 apart as in Table 6.1. -/
inductive DotRow where
  | fp64 | fp32 | half | fp8 | mx | mxfp4 | fp4 | int8 | int4
deriving DecidableEq, Repr

/-- R150: the row of two type codes. -/
def dotRow (a b : Nat) : Option DotRow :=
  let both := fun (l : List Nat) => l.contains a && l.contains b
  if both [0x0] then some .fp64 else if both [0x1] then some .fp32 else if both [0x2, 0x3] then some .half
  else if both [0x4, 0x5] then some .fp8 else if both [0x6, 0x7, 0x8, 0x9] then some .mx else if both [0xA] then some .mxfp4
  else if both [0xB] then some .fp4 else if both [0xD] then some .int4 else if both [0xC, 0xD] then some .int8 else none

def DotRow.isInt (r : DotRow) : Bool := r = .int8 || r = .int4

/-- ACC_TYPE of a row (Tables 5.4 and 6.2). -/
def DotRow.acc (r : DotRow) : Nat := match r with
  | .fp64 => 0x0 | .fp32 => 0x1 | .half => 0x1 | .fp8 => 0x1 | .mx => 0x1 | .mxfp4 => 0x1 | .fp4 => 0x1 | .int8 => 0xE | .int4 => 0xE

/-- KC of Table 5.5. -/
def DotRow.kc (r : DotRow) : Nat := match r with
  | .fp64 => 4 | .fp32 => 8 | .half => 32 | .fp8 => 64 | .mx => 64 | .mxfp4 => 64 | .fp4 => 64 | .int8 => 64 | .int4 => 64

/-- W of Table 5.5. -/
def DotRow.w (r : DotRow) : Nat := match r with
  | .fp64 => 128 | .fp32 => 64 | .half => 48 | .fp8 => 40 | .mx => 40 | .mxfp4 => 24 | .fp4 => 24 | .int8 => 0 | .int4 => 0

/-- k per step, cycles per step and slab of Table 6.1. -/
def DotRow.kstep (r : DotRow) : Nat := match r with
  | .fp64 => 1 | .fp32 => 2 | .half => 8 | .fp8 => 16 | .mx => 16 | .mxfp4 => 32 | .fp4 => 32 | .int8 => 16 | .int4 => 16
def DotRow.cstep (r : DotRow) : Nat := if r = .fp64 then 2 else 1
def DotRow.slab (r : DotRow) : Nat := match r with
  | .fp64 => 8 | .fp32 => 16 | .half => 32 | .fp8 => 64 | .mx => 64 | .mxfp4 => 128 | .fp4 => 128 | .int8 => 64 | .int4 => 128

/-- Type codes with block scales. -/
def codeScaled (c : Nat) : Bool := 0x6 ≤ c && c ≤ 0xA

/-- Bits that an element takes in a line (R165): 6-bit elements take a byte. -/
def codeBits (c : Nat) : Nat := match c with
  | 0x0 => 64 | 0x1 => 32 | 0x2 => 16 | 0x3 => 16 | 0x4 => 8 | 0x5 => 8 | 0x6 => 8 | 0x7 => 8 | 0x8 => 8 | 0x9 => 8
  | 0xA => 4 | 0xB => 4 | 0xC => 8 | 0xD => 4 | _ => 32

/-- R165: bytes of a line of n elements. -/
def lineBytes (c n : Nat) : Nat := (n * codeBits c + 7) / 8

/-- The format of an element code; none for integers. -/
def codeFloat (c : Nat) : Option Fmt := if c < 12 then fmtOf c else none

/-- Significand width p of a code (R136). -/
def codeSig (c : Nat) : Nat := match codeFloat c with
  | some f => f.mbits + 1
  | none => 0

/-- R136, R137: an element with its block scale; X = 255 is NaN. -/
def scaledValue (c e : Nat) (x : Option Nat) : FVal :=
  match codeFloat c with
  | none => .nan
  | some f =>
    match x with
    | none => f.decode e
    | some x => if x = 255 then .nan else
      match f.decode e with
      | .fin n m q => .fin n m (q + (x : Int) - 127)
      | .nan => .nan
      | .inf n => .inf n

/-! ## One chunk (R152, R153, R156) -/

/-- The specials met in a chunk. -/
structure Specials where
  nan : Bool := false
  pinf : Bool := false
  ninf : Bool := false
deriving DecidableEq, Repr

def Specials.addInf (s : Specials) (neg : Bool) : Specials := if neg then { s with ninf := true } else { s with pinf := true }

/-- An accumulator's part in the specials. -/
def Specials.acc (s : Specials) : FVal → Specials
  | .nan => { s with nan := true }
  | .inf n => s.addInf n
  | .fin _ _ _ => s

/-- The products' part. -/
def specialsOf (s : Specials) : List (FVal × FVal) → Specials
  | [] => s
  | p :: ps => specialsOf (match FVal.mul p.1 p.2 with
    | .nan => { s with nan := true }
    | .inf n => s.addInf n
    | .fin _ _ _ => s) ps

/-- The finite non-zero products: sign, magnitude, x (R152). -/
def productsOf (ps : List (FVal × FVal)) : List (Bool × Nat × Int) :=
  ps.filterMap fun p => match p.1, p.2 with
    | .fin a m q, .fin b n r => if m = 0 || n = 0 then none else some (a != b, m * n, q + r)
    | _, _ => none

/-- H - pa - pb: the largest x. -/
def headOf : List (Bool × Nat × Int) → Option Int
  | [] => none
  | p :: ps => match headOf ps with
    | none => some p.2.2
    | some h => some (if h < p.2.2 then p.2.2 else h)

/-- A product aligned at G, truncated toward zero. -/
def alignProduct (g : Int) (p : Bool × Nat × Int) : Int :=
  let d := p.2.2 - g
  let t : Nat := if 0 ≤ d then p.2.1 <<< d.toNat else p.2.1 >>> (-d).toNat
  if p.1 then -(t : Int) else (t : Int)

/-- S and G of a chunk; pp is pa + pb. -/
def chunkSum (w pp : Nat) (ps : List (FVal × FVal)) : Int × Int :=
  let l := productsOf ps
  match headOf l with
  | none => (0, 0)
  | some h =>
    let g := h + pp - w
    (l.foldl (fun s p => s + alignProduct g p) 0, g)

/-- R153: every product of the chunk is a zero of sign 1. -/
def allMinusZero (ps : List (FVal × FVal)) : Bool :=
  ps.all fun p => match FVal.mul p.1 p.2 with
    | .fin n m _ => n && decide (m = 0)
    | .nan => false
    | .inf _ => false

/-- An exact signed value m x 2^q. -/
abbrev Exact := Int × Int

def exactOf : FVal → Exact
  | .fin n m q => (if n then -(m : Int) else (m : Int), q)
  | .nan => (0, 0)
  | .inf _ => (0, 0)

/-- The exact sum. -/
def Exact.add (a b : Exact) : Exact :=
  let k := if a.2 < b.2 then a.2 else b.2
  (a.1 * (2 ^ (a.2 - k).toNat : Nat) + b.1 * (2 ^ (b.2 - k).toNat : Nat), k)

/-- An exact value rounded to nearest even; zero takes the sign given (R152, R153). -/
def Exact.round (x : Exact) (f : Fmt) (sat zeroNeg : Bool) : Nat :=
  if x.1 = 0 then f.sign zeroNeg else f.round 0 sat (x.1 < 0) x.1.natAbs x.2

/-- R152, R153: one chunk; the accumulator's bits in and out. -/
def dotChunk (f : Fmt) (sat : Bool) (w pp : Nat) (acc : Nat) (ps : List (FVal × FVal)) : Nat :=
  let a := f.decode acc
  let sp := specialsOf (({} : Specials).acc a) ps
  if sp.nan || (sp.pinf && sp.ninf) then f.nan
  else if sp.pinf then f.inf false false
  else if sp.ninf then f.inf false true
  else (Exact.add (exactOf a) (chunkSum w pp ps)).round f sat (decide (acc = f.sign true) && allMinusZero ps)

/-- R156: one chunk of a pair accumulator. -/
def pairChunk (f : Fmt) (sat : Bool) (w pp : Nat) (hi lo : Nat) (ps : List (FVal × FVal)) : Nat × Nat :=
  let a := f.decode hi
  let b := f.decode lo
  let sp := specialsOf ((({} : Specials).acc a).acc b) ps
  if sp.nan || (sp.pinf && sp.ninf) then (f.nan, 0)
  else if sp.pinf then (f.inf false false, 0)
  else if sp.ninf then (f.inf false true, 0)
  else
    let v := Exact.add (Exact.add (exactOf a) (exactOf b)) (chunkSum w pp ps)
    let h := v.round f sat (decide (hi = f.sign true) && decide (lo = f.sign true) && allMinusZero ps)
    match f.decode h with
    | .fin n m q =>
      let r := Exact.add v (if n then (m : Int) else -(m : Int), q)
      (h, r.round f false false)
    | .inf _ => (h, 0)
    | .nan => (h, 0)

/-- The chunks of a reduction; fuel is the length. -/
def dotLoop (kc : Nat) (step : Nat × Nat → List (FVal × FVal) → Nat × Nat) :
    Nat → Nat × Nat → List (FVal × FVal) → Nat × Nat
  | 0, acc, _ => acc
  | n + 1, acc, ps => if ps.isEmpty then acc else dotLoop kc step n (step acc (ps.take kc)) (ps.drop kc)

/-- R152, R156: an output element in floating point: its high and low part. -/
def definedDot (row : DotRow) (pp : Nat) (sat pair : Bool) (acc : Nat × Nat) (ps : List (FVal × FVal)) : Nat × Nat :=
  let f := if row = .fp64 then fp64 else fp32
  dotLoop row.kc (fun a c => if pair then pairChunk f sat row.w pp a.1 a.2 c else (dotChunk f sat row.w pp a.1 c, 0)) ps.length acc ps

/-- R155: chunks of an integer reduction. -/
def intLoop (sat : Bool) : Nat → Nat → List (Int × Int) → Nat
  | 0, acc, _ => acc
  | n + 1, acc, ps =>
    if ps.isEmpty then acc else
    let s := (ps.take 64).foldl (fun t p => t + p.1 * p.2) (sgn acc 32)
    intLoop sat n (wrap (if sat then clampInt 1 s else s) 32) (ps.drop 64)

/-- R155: an output element in integers. -/
def intDot (sat : Bool) (acc : Nat) (ps : List (Int × Int)) : Nat := intLoop sat ps.length acc ps

/-! ## CRC-32C (R182) -/

/-- One bit of the reflected polynomial 0x1EDC_6F41. -/
def crcBit (c : Nat) : Nat := if c % 2 = 1 then (c / 2) ^^^ 0x82F63B78 else c / 2

def crcByte (c : Nat) (b : Byte) : Nat :=
  (List.range 8).foldl (fun c _ => crcBit c) (c ^^^ b.toNat)

/-- CRC-32C of bytes: initial value and final XOR 0xFFFF_FFFF. -/
def crc32c (l : List Byte) : Nat := (l.foldl crcByte 0xFFFFFFFF) ^^^ 0xFFFFFFFF

/-! ## Tile reductions (R159) -/

/-- The least n with 2^n at least the number. -/
def ceilLog2 (n : Nat) : Nat := if n ≤ 1 then 0 else Nat.log2 (n - 1) + 1

/-- R159: RSUM (0), RMIN (1) and RMAX (2) of elements in order; a NaN is canonical, that of a single element too (R139). -/
def tileReduce (f : Fmt) (op rnd : Nat) (sat : Bool) (l : List Nat) : Nat :=
  let id := match op with
    | 0 => f.sign (decide (rnd ≠ 2))
    | 1 => f.inf false false
    | _ => f.inf false true
  let n := ceilLog2 l.length
  let comb := match op with
    | 0 => f.add rnd sat
    | 1 => f.minimum
    | _ => f.maximum
  let r := redTree comb n (l ++ List.replicate (2 ^ n - l.length) id)
  if f.isNan r then f.nan else r

end Sys2Proof.Machine
end

