-- ==== Sys2Proof/Config.lean ====
section
/-! DEFINITION. What the spec leaves open: constants without a body, so that no proof can see a value of them. Each is named
in a log entry. Free values are applied to the state's counter of draws (log 7). -/

namespace Sys2Proof.Machine

/-- What a configuration image's sections say (Table 13.4). -/
structure ConfigImage where
  /-- R397, IDENTITY; module serial. -/
  serial : BitVec 128 := 0
  /-- R397, R410, IDENTITY; the device root's helper data. -/
  helper : List (BitVec 8) := []
  /-- R397, R410, IDENTITY; identity public key. -/
  identityKey : BitVec 10496 := 0
  /-- R397, IDENTITY; Parerardo's certificate of that key. -/
  certificate : List (BitVec 8) := []
  /-- R397, DIES; (position, identity of the die there). -/
  dieIds : List (Nat × Nat) := []
  /-- R404, DIES; pairs (hub revision, die revision). -/
  pairs : List (Nat × Nat) := []
  /-- R404, DIES. -/
  floorMin : Nat := 1
  /-- R404, DIES; mandatory mask over the capability word. -/
  mandatory : BitVec 32 := 0
  /-- R20, REPAIR; (die, logical core, position), 0xFF for absent. -/
  repairs : List (Nat × Nat × Nat) := []
  /-- R12, R220, REPAIR; the DRAM repairs from manufacture and the UCIe modules disabled, as entries of the repair record have them. -/
  repairsMore : List (Nat × Nat) := []
  /-- R11, REPAIR; UCIe lane repair: (tile, module x 64 + lane), the lane that a redundant lane of the module replaces. -/
  ucieLanes : List (Nat × Nat) := []
  /-- R213, MEMORY; (n, CFG, TILES, base GiB by list position). -/
  sets : List (Nat × BitVec 64 × BitVec 64 × List Nat) := []
  /-- R210, MEMORY; ALLOC_WAYS by class. -/
  classMasks : List (Nat × BitVec 16) := []
  /-- R210, MEMORY. -/
  llmEnable : Bool := false
  /-- R210, MEMORY. -/
  streamEnable : Bool := false
  /-- R397, MEMORY; DRAM timing and training limits, by number. -/
  dramTiming : List (Nat × Nat) := []
  /-- R364, R397, POWER; the activity model's coefficients: (unit, kind of event), mW. -/
  coefficients : List ((Nat × Nat) × Nat) := []
  /-- R397, POWER; (rail, address of its regulator). -/
  regulators : List (Nat × Nat) := []
  /-- R365, R397, POWER; (rail, rated maximum in mW). -/
  ratedMaxima : List (Nat × Nat) := []
  /-- R397, PARTITIONS; (first die, dies). -/
  partitions : List (Nat × Nat) := []
  /-- R414, BOOT_QUEUE; RING_LOG2, RING_BASE, STATUS_BASE, READ_INDEX_ADDR, LIMIT_MS. -/
  bootQueue : List Nat := []
  /-- R436; CHECK. -/
  check : Bool := false
  /-- R436; ACTION. -/
  action : BitVec 3 := 0
  /-- R397, REGISTERS; (window: 0 hub, 1 + t tile, 13 + d die; offset; value). -/
  registers : List (Nat × Nat × BitVec 32) := []
deriving DecidableEq, Repr, Inhabited

/-- R34, R210, R397, R404, R405, R414: the configuration image that Parerardo ships, as far as the spec gives it (log 31): the pairings
of Table 13.8, the sets of R34, the class masks of R210, one partition of twelve dies and the boot queue of R414. -/
def shippedConfig : ConfigImage :=
  let set := fun (tier size base : Nat) => BitVec.ofNat 64 (1 + tier * 2 + 0xFFF * 16 + size * 2 ^ 16 + base * 2 ^ 30)
  let all : BitVec 64 := BitVec.ofNat 64 (12 + ((List.range 12).map fun i => i * 2 ^ (4 + 4 * i)).sum)
  let local_ := fun (tier base : Nat) (first at_ : Nat) => (List.range 12).map fun t =>
    (first + t, set tier 64 (base + t * 0x40), BitVec.ofNat 64 (1 + t * 16), [at_])
  { pairs := [(0xA1, 0xB0), (0xA1, 0xB1), (0xB0, 0xB0), (0xB0, 0xB1), (0xB0, 0xC0)]
    floorMin := 1
    mandatory := BitVec.ofNat 32 (2 ^ 17)
    sets := (0, set 0 768 0, all, List.replicate 12 0) :: local_ 0 0x300 1 64 ++
      (13, set 1 768 0x800, all, List.replicate 12 0) :: local_ 1 0xB00 14 32
    classMasks := [(0, 0xFFFF), (1, 0xFFFF), (3, 0xFFFF), (6, 0xFFFF), (2, 0), (4, 0), (5, 0)]
    llmEnable := true
    streamEnable := true
    partitions := [(0, 12)]
    bootQueue := [6, 0x0400C0000000, 0x0400C0001000, 0x0400C0001800, 120000]
    check := true
    action := 2 }

end Sys2Proof.Machine

namespace Sys2Proof.Config

/-- A 64-bit value that the spec leaves open, by draw (log 7). -/
opaque freeWord : Nat → BitVec 64

/-- A line of bytes that the spec leaves open, by draw (log 7). -/
opaque freeLine : Nat → BitVec 1024

/-- R220: spare rows that a DRAM device offers in a bank, by (tile x 4 + device) x 256 + bank (log 20). -/
opaque spareRows : Nat → Nat

/-- FIPS 204, ML-DSA-44: whether a signature of 2,420 bytes by a public key of 1,312 bytes verifies for a message under a context
string; byte strings as little-endian numbers (log 8). -/
opaque mldsaVerify (key message context signature : Nat) : Bool

/-- FIPS 204: the public key of the pair generated from a seed (log 8). -/
opaque mldsaPublic (seed : BitVec 256) : BitVec 10496

/-- FIPS 204: a signature under the key pair of a seed, of a message under a context string (log 8). -/
opaque mldsaSign (seed : BitVec 256) (message context : Nat) : BitVec 19360

/-- R410: the device root, which the security engine rebuilds from the hub's physically unclonable function (log 8). -/
opaque deviceRoot : BitVec 256

/-- R396: the boot ROM's four key digests (log 8). -/
opaque romDigest : Nat → BitVec 256

/-- R413: SHA3-256 of the boot ROM (log 8). -/
opaque romMeasure : BitVec 256

/-- R397: type, length of the contents and version of a section, from its 16-byte header as a little-endian number; where they stand in it
the spec leaves open (log 8). -/
opaque sectionHeader (header : Nat) : Nat × Nat × Nat

/-- R397: what the contents of a configuration image's sections say, each with its type; their layout the spec leaves open (log 8). -/
opaque sectionFields (sections : List (Nat × List (BitVec 8))) : Sys2Proof.Machine.ConfigImage

/-- R413: SHA3-256 of the repair record with these entries, whose layout the spec leaves open (log 8). -/
opaque repairDigest (entries : List (Nat × Nat)) : BitVec 256

/-- R482: Parerardo's JEDEC manufacturer identity (log 8). -/
opaque jedecId : BitVec 11

/-- R482: bits [3:0] of the hub's revision, before step 4 has read its word (log 8). -/
opaque hubRevision : BitVec 4

/-- R364: the activity model's coefficient of a rail or category for a kind of event, in mW for each event in 10 µs (log 9). -/
opaque coefficient (unit kind : Nat) : Nat

/-- R364: the static power of a rail or category at a temperature and step, in mW (log 9). -/
opaque staticPower (unit temp step : Nat) : Nat

/-- R364: the compute power that the model predicts for a die, or for a region (200 + 4 × die + region), at a step, for the activity
observed, in mW (log 9). -/
opaque predict (die : Nat) (counts : List (Nat × Nat)) (temp step : Nat) : Nat

/-- R365, R466: the rated maximum of a rail, in mW (log 9). -/
opaque ratedMax (rail : Nat) : Nat

/-- R305; the identifier that PCI-SIG assigned to Parerardo Computing: Vendor ID and Subsystem Vendor ID (log 85). -/
opaque pciVendor : BitVec 16

end Sys2Proof.Config

namespace Sys2Proof.Machine

/-- R364: the coefficient of a rail or category for a kind of event: the POWER section's, or, where the image has none, a free value
(log 9). -/
def ConfigImage.coefficient (c : ConfigImage) (unit kind : Nat) : Nat :=
  ((c.coefficients.find? fun x => x.1 = (unit, kind)).map (·.2)).getD (Config.coefficient unit kind)

/-- R365: the rated maximum of a rail: the POWER section's, or, where the image has none, a free value (log 9). -/
def ConfigImage.ratedMax (c : ConfigImage) (rail : Nat) : Nat :=
  ((c.ratedMaxima.find? fun x => x.1 = rail).map (·.2)).getD (Config.ratedMax rail)

end Sys2Proof.Machine
end

