-- ==== Sys2Proof/Machine/Crypto.lean ====
section
/-! DEFINITION. SHA3-256 (FIPS 202), KMAC256 and KMACXOF256 (NIST SP 800-185), which R348, R351, R394, R395 and R410 to R413 name,
over lists of bytes. The signatures of FIPS 204 have no body (log 8). -/

namespace Sys2Proof.Machine

/-- The 25 lanes of the state, lane x + 5 y. -/
abbrev Lanes := List (BitVec 64)

def Lanes.at (a : Lanes) (i : Nat) : BitVec 64 := (a[i]?).getD 0

/-- rho: step n of 24 of the walk (x, y) to (y, 2x + 3y) from (1, 0); the t-th lane it meets turns by the t-th triangular number. -/
def rhoWalk : Nat → Nat → Nat → List Nat → List Nat
  | 0, _, _, turns => turns
  | n + 1, x, y, turns => rhoWalk n y ((2 * x + 3 * y) % 5) (turns.set (x + 5 * y) ((24 - n) * (25 - n) / 2 % 64))

/-- How far rho turns each lane. -/
def rhoTurns : List Nat := rhoWalk 24 1 0 (List.replicate 25 0)

/-- iota: the register of the polynomial x^8 + x^6 + x^5 + x^4 + 1 after t shifts. -/
def iotaRegister : Nat → BitVec 8
  | 0 => 1
  | t + 1 => let r := iotaRegister t; if r.getLsbD 7 then r <<< 1 ^^^ 0x71 else r <<< 1

/-- iota: bit 2^j - 1 of round i's constant is the register's low bit after 7 i + j shifts. -/
def iotaOf (i : Nat) : BitVec 64 :=
  (List.range 7).foldl (fun v j => if (iotaRegister (7 * i + j)).getLsbD 0 then v ||| BitVec.twoPow 64 (2 ^ j - 1) else v) 0

/-- The constants of the 24 rounds. -/
def iotaConstants : List (BitVec 64) := (List.range 24).map iotaOf

def theta (a : Lanes) : Lanes :=
  let c := (List.range 5).map fun x => a.at x ^^^ a.at (x + 5) ^^^ a.at (x + 10) ^^^ a.at (x + 15) ^^^ a.at (x + 20)
  let d := (List.range 5).map fun x => Lanes.at c ((x + 4) % 5) ^^^ (Lanes.at c ((x + 1) % 5)).rotateLeft 1
  (List.range 25).map fun i => a.at i ^^^ Lanes.at d (i % 5)

/-- rho and pi: lane (x, y) goes, rotated, to (y, 2x + 3y). -/
def rhoPi (a : Lanes) : Lanes :=
  (List.range 25).map fun i =>
    let j := (i % 5 + 3 * (i / 5)) % 5 + 5 * (i % 5)
    (a.at j).rotateLeft ((rhoTurns[j]?).getD 0)

def chi (a : Lanes) : Lanes :=
  (List.range 25).map fun i => a.at i ^^^ (~~~ a.at ((i + 1) % 5 + i / 5 * 5) &&& a.at ((i + 2) % 5 + i / 5 * 5))

def keccakRound (a : Lanes) (rc : BitVec 64) : Lanes :=
  match chi (rhoPi (theta a)) with
  | [] => []
  | x :: l => (x ^^^ rc) :: l

def keccakF (a : Lanes) : Lanes := iotaConstants.foldl keccakRound a

/-- Bytes in a block: the rate of every function here. -/
def rate : Nat := 136

/-- One block put into the state. -/
def absorbBlock (a : Lanes) (b : List Byte) : Lanes :=
  keccakF ((List.range 25).map fun i => a.at i ^^^ BitVec.ofNat 64 (leNat ((b.drop (8 * i)).take 8)))

/-- The first n of the blocks of a padded message. -/
def absorb (a : Lanes) : Nat → List Byte → Lanes
  | 0, _ => a
  | n + 1, bs => absorb (absorbBlock a (bs.take rate)) n (bs.drop rate)

/-- A message with its domain suffix and the padding. -/
def padded (bs : List Byte) (suffix : Byte) : List Byte :=
  let n := rate - 1 - bs.length % rate
  let l := bs ++ suffix :: List.replicate n 0
  l.take (l.length - 1) ++ ((l.drop (l.length - 1)).map (· ||| 0x80))

/-- The sponge: the first n bytes of its output, at most one block. -/
def sponge (bs : List Byte) (suffix : Byte) (n : Nat) : List Byte :=
  let p := padded bs suffix
  let a := absorb (List.replicate 25 0) (p.length / rate) p
  (a.flatMap fun (x : BitVec 64) => leBytes 8 x.toNat).take n

def sha3 (bs : List Byte) : List Byte := sponge bs 0x06 32

/-- ASCII bytes of a string. -/
def ascii (s : String) : List Byte := s.toList.map fun c => BitVec.ofNat 8 c.toNat

/-- The fewest bytes, at least one, that hold n, most significant first; k bounds them. -/
def beBytes : Nat → Nat → List Byte
  | 0, _ => []
  | k + 1, n => if n < 256 then [BitVec.ofNat 8 n] else beBytes k (n / 256) ++ [BitVec.ofNat 8 n]

def leftEncode (n : Nat) : List Byte := let b := beBytes 8 n; BitVec.ofNat 8 b.length :: b
def rightEncode (n : Nat) : List Byte := let b := beBytes 8 n; b ++ [BitVec.ofNat 8 b.length]
def encodeString (s : List Byte) : List Byte := leftEncode (8 * s.length) ++ s

/-- bytepad with the rate. -/
def bytepad (x : List Byte) : List Byte :=
  let y := leftEncode rate ++ x
  y ++ List.replicate ((rate - y.length % rate) % rate) 0

def kmacBytes (key x : List Byte) (len : Nat) (s : List Byte) (n : Nat) : List Byte :=
  sponge (bytepad (encodeString (ascii "KMAC") ++ encodeString s) ++ bytepad (encodeString key) ++ x ++ rightEncode len) 0x04 n

/-- KMAC256 with an output of n bytes. -/
def kmac256 (key x s : List Byte) (n : Nat) : List Byte := kmacBytes key x (8 * n) s n

/-- KMACXOF256 with an output of n bytes. -/
def kmacXof256 (key x s : List Byte) (n : Nat) : List Byte := kmacBytes key x 0 s n

/-- A 256-bit digest as a number, byte 0 lowest. -/
def digest (bs : List Byte) : BitVec 256 := BitVec.ofNat 256 (leNat bs)

/-- R394: the tag of a record's copy, for its kind, its sequence number and its contents; the order of these and the tag's 256 bits are the
model's (log 86). -/
def recTag (kind : String) (seq : Nat) (bytes : List Byte) : BitVec 256 :=
  digest (kmac256 (leBytes 32 Config.deviceRoot.toNat) (leBytes 8 seq ++ bytes) (ascii kind) 32)

/-- R412: the seed of the identity key of a serial. -/
def identitySeedOf (serial : BitVec 128) : BitVec 256 :=
  digest (kmac256 (leBytes 32 Config.deviceRoot.toNat) (leBytes 16 serial.toNat) (ascii "FT2-ID") 32)

end Sys2Proof.Machine
end

