-- ==== Sys2Proof/Machine/KMap.lean ====
section
/-! DEFINITION. Tables keyed by number: lists of (key, value) pairs with the keys strictly rising. Reading an unlisted key
gives the default the reader names, which is the reset value of what the table holds. -/

namespace Sys2Proof.Machine

/-- A table: (key, value) pairs, keys strictly rising. -/
abbrev KMap (α : Type) := List (Nat × α)

/-- The value at key k, or d where k is not listed. -/
def kget {α : Type} (d : α) : KMap α → Nat → α
  | [], _ => d
  | (j, v) :: m, k => if k = j then v else kget d m k

/-- The value at key k, if it is listed. -/
def kfind {α : Type} : KMap α → Nat → Option α
  | [], _ => none
  | (j, v) :: m, k => if k = j then some v else kfind m k

/-- The table with key k at v. -/
def kset {α : Type} : KMap α → Nat → α → KMap α
  | [], k, v => [(k, v)]
  | (j, w) :: m, k, v =>
    if k < j then (k, v) :: (j, w) :: m
    else if k = j then (k, v) :: m
    else (j, w) :: kset m k v

/-- The table without key k. -/
def kdel {α : Type} : KMap α → Nat → KMap α
  | [], _ => []
  | (j, v) :: m, k => if k = j then m else (j, v) :: kdel m k

/-- The table with f applied to the value at k (to the default where k is not listed). -/
def kmod {α : Type} (d : α) (m : KMap α) (k : Nat) (f : α → α) : KMap α :=
  kset m k (f (kget d m k))

/-- The keys of a table. -/
def kkeys {α : Type} (m : KMap α) : List Nat := m.map (·.1)

/-- Every key is greater than b, and the keys strictly rise. -/
def kabove {α : Type} : Nat → KMap α → Bool
  | _, [] => true
  | b, (j, _) :: m => decide (b < j) && kabove j m

/-- The canonical form: the keys strictly rise. -/
def kwf {α : Type} : KMap α → Bool
  | [] => true
  | (j, _) :: m => kabove j m

end Sys2Proof.Machine
end

