-- ==== Sys2Proof/Machine/State.lean ====
section
/-! DEFINITION. The state of the module, as plain data. Every unit's fields stand at their reset values as defaults, so
that an unlisted unit of a table is at reset, and State.reset is the module at power-on (R389). Each field's docstring names
the rule that gives it; "log n" names the assumption log's entry where the spec gives no reset value or the field is the
model's own. -/

namespace Sys2Proof.Machine

/-! ## Compute cores -/

/-- What a thread waits for (R49, R85, R90, R91, R109). -/
inductive WaitFor where
  | none
  | blockBarrier (slot : Nat)
  | teamBarrier (slot : Nat)
  | groupOp
  | token (tok : BitVec 32)
deriving DecidableEq, Repr

/-- One thread (R44, R75). -/
structure Thread where
  /-- R112; the start value is the launch's entry (R132), log 2. -/
  pc : BitVec 64 := 0
  /-- R118, R49. -/
  exited : Bool := false
  /-- R75, R76; p0 to p6. -/
  preds : BitVec 7 := 0
  /-- R85. -/
  wait : WaitFor := .none
  /-- R88; the group's issue count at the thread's last issue. -/
  lastIssue : Nat := 0
deriving DecidableEq, Repr

/-- One issue of a group operation or group-combined atomic that gathers its threads (R49, R126, R128). -/
structure Gather where
  /-- R118; class of the instruction: 8 ATOM, 10 GRP. -/
  cls : Nat := 10
  /-- R118; its opcode. -/
  op : Nat := 0
  /-- R113; its fields. -/
  fields : Fields
  /-- R128; mask of the first subset. -/
  mask : BitVec 32 := 0
  /-- R94; threads arrived. -/
  arrived : BitVec 32 := 0
  /-- R115; arrived threads whose guard is true. -/
  active : BitVec 32 := 0
  /-- R49; the instruction the threads have reached. -/
  pc : BitVec 64 := 0
  /-- R94; core cycle of the first arrival. -/
  start : Nat := 0
deriving DecidableEq, Repr

/-- One group of a block (R44, R75 to R88). -/
structure Group where
  /-- R78. -/
  quarter : Nat := 0
  /-- R78. -/
  slot : Nat := 0
  /-- R75; by lane. -/
  threads : KMap Thread := []
  /-- R75, R76; key lane x 256 + register, unlisted registers read 0. -/
  regs : KMap (BitVec 32) := []
  /-- R131; ISSUED of Table 4.16. -/
  issued : BitVec 64 := 0
  /-- R86; held subsets: the lanes that executed YIELD, and the program counters of the subsets still to issue. -/
  held : List (BitVec 32 × List (BitVec 64)) := []
  /-- R80; registers an outstanding access will still write. -/
  pending : List Nat := []
  /-- R94; the group operations that gather their threads. -/
  gathers : List Gather := []
  /-- R94; core cycle at which the group's token wait began. -/
  waitStart : Option Nat := none
deriving DecidableEq, Repr

/-- One of a block's four barrier slots (R90, R93, R94). -/
structure BarSlot where
  /-- R93; participation mask of the phase's first arrival. -/
  mask : BitVec 32 := 0
  /-- R90; whether a phase is running. -/
  open_ : Bool := false
  /-- R94; core cycle of the phase's first arrival, of a team barrier the die's. -/
  start : Nat := 0
  /-- R96; where the first arrival stands. -/
  pc : BitVec 64 := 0
deriving DecidableEq, Repr

/-- How a block is ending (R97, R488). -/
inductive BlockPhase where
  | running
  | terminating (cause : BitVec 8) (since : Nat)
deriving DecidableEq, Repr

/-- A resident block (R44, R78, R132). -/
structure Block where
  /-- R332; client context. -/
  context : Nat := 0
  /-- R64; queue of its command. -/
  queue : Nat := 0
  /-- R66; index of its command. -/
  index : BitVec 64 := 0
  /-- R343, R344; which launch of the command. -/
  launch : Nat := 0
  /-- R183; PHASE of its step-table entry, 0xFF without a table. -/
  stepPhase : BitVec 8 := 0xFF
  /-- R45; its team. -/
  team : Nat := 0
  /-- R45. -/
  member : Nat := 0
  /-- R44. -/
  teamBlocks : Nat := 1
  /-- R131; TEAM_X, TEAM_Y, TEAM_Z. -/
  teamX : BitVec 32 := 0
  /-- R131. -/
  teamY : BitVec 32 := 0
  /-- R131. -/
  teamZ : BitVec 32 := 0
  /-- R131; GRID_X, GRID_Y, GRID_Z. -/
  gridX : BitVec 32 := 0
  /-- R131. -/
  gridY : BitVec 32 := 0
  /-- R131. -/
  gridZ : BitVec 32 := 0
  /-- R71; code-object FLAGS. -/
  flags : BitVec 32 := 0
  /-- R77; allocation A. -/
  alloc : Nat := 0
  /-- R71; TIMEOUT_EXP. -/
  timeoutExp : Nat := 0
  /-- R132; groups in the block. -/
  groupCount : Nat := 0
  /-- R132; LOCAL_BYTES. -/
  localBytes : Nat := 0
  /-- R99; first byte of its range in the core's local-memory space. -/
  localBase : Nat := 0
  /-- R131; ARGS. -/
  args : BitVec 64 := 0
  /-- R43; local aperture base. -/
  aperture : BitVec 64 := 0
  /-- R35; satp value of its queue. -/
  atp : BitVec 64 := 0
  /-- R41. -/
  adHw : Bool := false
  /-- R75; by group index. -/
  groups : KMap Group := []
  /-- R75, R90; by slot. -/
  bars : KMap BarSlot := []
  /-- R97. -/
  phase : BlockPhase := .running
  /-- R96, R97; the payload of the record still to be written for it. -/
  fault : Option (BitVec 320) := none
  /-- R452; ring and SEQ of its record, once written. -/
  recorded : Option (Nat × Nat) := none
  /-- R488; remote transactions not yet answered. -/
  remote : Nat := 0
  /-- R488; crossbar requests not yet answered. -/
  xbarOut : Nat := 0
deriving DecidableEq, Repr

/-- A completion token slot (R108). -/
structure TokenSlot where
  /-- R108; starts at 1 at core reset. -/
  gen : BitVec 26 := 1
  /-- R108; its instruction has not completed. -/
  busy : Bool := false
  /-- R108; whether the slot has ever been allocated. -/
  used : Bool := false
  /-- R108; tag: block position. -/
  block : Nat := 0
deriving DecidableEq, Repr

/-- Where a queued engine instruction stands (R163, R173). -/
inductive EngineStage where
  | queued
  | checked
  | started (at_ : Nat) (done : Nat)
  | written (done : Nat)
deriving DecidableEq, Repr

/-- A matrix or tile instruction in its queue (R106, R107, R163). -/
structure EngineOp where
  /-- R108. -/
  token : BitVec 32 := 0
  /-- R130; block position of the issuer. -/
  block : Nat := 0
  /-- R96; the issuing group, its lane mask and its program counter. -/
  group : Nat := 0
  /-- R96. -/
  lanes : BitVec 32 := 0
  /-- R96. -/
  pc : BitVec 64 := 0
  /-- R130; descriptor offset. -/
  desc : BitVec 32 := 0
  /-- R130; side-descriptor offset, with SIDE. -/
  side : Option (BitVec 32) := none
  /-- R163; the engine's copy of the descriptor. -/
  copy : BitVec 512 := 0
  /-- R163; the engine's copy of the side descriptor. -/
  sideCopy : BitVec 512 := 0
  /-- R173; core cycle at which the engine accepted it. -/
  accepted : Nat := 0
  /-- R163, R173. -/
  stage : EngineStage := .queued
  /-- R61; a thread wrote an operand tile before the token completed. -/
  tainted : Bool := false
  /-- R61; bytes of the block's local memory written while the descriptor was not yet read: (offset, length). -/
  early : List (Nat × Nat) := []
  /-- R175; local offset of the first poisoned word that a tile instruction read. -/
  met : Option Nat := none
deriving DecidableEq, Repr

/-- The use of a local-store section (R98 to R100). -/
inductive SectionUse where
  | way
  | toLocal (line : Nat)
  | localMem
deriving DecidableEq, Repr

/-- A section of the local store (R98, R100). -/
structure Section where
  /-- R98; at core reset all twelve are L1 ways. -/
  use : SectionUse := .way
  /-- R100; core cycle since which no granule of it has been allocated. -/
  idleSince : Nat := 0
deriving DecidableEq, Repr

/-- A cached translation (R233). -/
structure TlbEntry where
  /-- R233; client context. -/
  context : Nat := 0
  /-- R233. -/
  asid : BitVec 16 := 0
  /-- R233; G of the leaf. -/
  global_ : Bool := false
  /-- R37; log2 of the page's size. -/
  pageLog2 : Nat := 12
  /-- R233; virtual page: the address shifted right by pageLog2. -/
  vpage : Nat := 0
  /-- R37; physical base address of the page. -/
  base : Nat := 0
  /-- R37; R, W, X of the leaf, in bits 0 to 2. -/
  perms : BitVec 3 := 0
  /-- R38; PBMT of the leaf. -/
  pbmt : BitVec 2 := 0
  /-- R41; D has been seen set. -/
  dirty : Bool := false
deriving DecidableEq, Repr

/-- A cached non-leaf page-table entry (R233). -/
structure WalkEntry where
  /-- R233. -/
  context : Nat := 0
  /-- R233. -/
  asid : BitVec 16 := 0
  /-- R35; level of the entry, 4 the root's. -/
  level : Nat := 4
  /-- R35; virtual address bits that selected it. -/
  vpage : Nat := 0
  /-- R37; the entry. -/
  pte : BitVec 64 := 0
deriving DecidableEq, Repr

/-- A compute core, by its logical (global) index (R19, R75). -/
structure Core where
  /-- R440; CORE_POSITION, 0xFF when absent. -/
  position : BitVec 8 := 0xFF
  /-- R22; bit of DIE_CORE_PRESENT. -/
  present : Bool := false
  /-- R111. -/
  barrierExp : BitVec 6 := 26
  /-- R111. -/
  remoteExp : BitVec 5 := 16
  /-- R462; reason of the retirement under way. -/
  retiring : Option Nat := none
  /-- R131; the die's arithmetic cycle count at the core's last reset. -/
  resetAt : Nat := 0
  /-- R78; resident blocks by block position. -/
  blocks : KMap Block := []
  /-- R108; by slot. -/
  tokens : KMap TokenSlot := []
  /-- R106; oldest first. -/
  matrixQ : List EngineOp := []
  /-- R107; by quarter, oldest first. -/
  tileQ : KMap (List EngineOp) := []
  /-- R173; core cycle at which the engine is free for the next start. -/
  engineFree : Nat := 0
  /-- R98; by section. -/
  sections : KMap Section := []
  /-- R43, R99; the core's local-memory space, canonical, unlisted bytes read 0 (log 3). -/
  lmem : List Host.Cell := []
  /-- R175; poisoned 4-byte words of the local-memory space, by word number. -/
  lpoison : List Nat := []
  /-- R51; by granule, the context that last occupied it. -/
  lastOwner : KMap Nat := []
  /-- R233; the core's TLB, oldest first. -/
  tlb : List TlbEntry := []
  /-- R110; core instruction cache: (line number, contents), oldest first. -/
  icache : List (Nat × BitVec 1024) := []
  /-- R110; by quarter. -/
  qcache : KMap (List (Nat × BitVec 1024)) := []
  /-- R26; quarters that are clock-gated. -/
  gated : BitVec 4 := 0
  /-- R26; by quarter, core cycle of its last issue. -/
  lastActive : KMap Nat := []
  /-- R461; hub counts of the corrected errors of its register file and local store in the last 24 h. -/
  corrected : List Nat := []
deriving DecidableEq, Repr

/-- A team (R45, R91, R92). -/
structure Team where
  /-- R45; its cell. -/
  cell : Nat := 0
  /-- R45; by member index: (global core index, block position). -/
  members : List (Nat × Nat) := []
  /-- R92; whether it holds an entry of the cell's team barrier unit. -/
  entry : Bool := false
  /-- R91; its two barrier slots. -/
  bars : KMap BarSlot := []
  /-- R97; the member that faulted first, while its record is still to be written. -/
  unrecorded : Option Nat := none
deriving DecidableEq, Repr

/-- What a crossbar request does at the target (R104). -/
inductive XbarKind where
  | load
  | store
  | atomic (op : Nat) (atype : Nat)
deriving DecidableEq, Repr

/-- A part of a thread's access within one line (R58): value byte from_, line, PBMT, line offset and bytes. -/
structure Piece where
  /-- R58; the thread. -/
  lane : Nat
  /-- R124; which byte of the thread's value comes first. -/
  from_ : Nat
  /-- R57; physical line number. -/
  line : Nat
  /-- R38. -/
  pbmt : Nat
  /-- R57; offset in the line. -/
  o : Nat
  /-- R124; bytes. -/
  n : Nat
deriving DecidableEq, Repr

/-- The bytes that one thread accesses in the sector of a crossbar request (R104). -/
structure XbarPart where
  /-- R104; the thread. -/
  lane : Nat := 0
  /-- R104; offset in the target's local memory. -/
  off : Nat := 0
  /-- R104; bytes. -/
  size : Nat := 4
  /-- R104; which byte of the thread's value comes first. -/
  from_ : Nat := 0
  /-- R126; the thread's DATA, and the new value of CAS. -/
  data : Nat × Nat := (0, 0)
deriving DecidableEq, Repr

/-- A request over the cell crossbar to another member's local memory: one for each member and sector that a group access
touches (R104, R105). The parts of an atomic on higher addresses that its own core performs wait among them (R254). -/
structure XbarReq where
  /-- R104; the requesting core. -/
  core : Nat := 0
  /-- R104; its block position. -/
  block : Nat := 0
  /-- R104; its group. -/
  group : Nat := 0
  /-- R45; its team, which the target shares. -/
  team : Nat := 0
  /-- R96; program counter and active mask of the instruction. -/
  pc : BitVec 64 := 0
  /-- R96. -/
  lanes : BitVec 32 := 0
  /-- R104; the instruction that sent it: the number of the instruction's first request. -/
  instr : Nat := 0
  /-- R104; target member. -/
  member : Nat := 0
  /-- R104; its core and block position. -/
  tcore : Nat := 0
  /-- R104. -/
  tblock : Nat := 0
  /-- R104; the 32-byte sector of the target's local memory. -/
  sector : Nat := 0
  /-- R104; what each thread accesses, in ascending lane order. -/
  parts : List XbarPart := []
  /-- R104. -/
  kind : XbarKind := .load
  /-- R124; bytes of a thread's whole access. -/
  size : Nat := 4
  /-- R104; destination register of a load or of an atomic that returns a value. -/
  dst : Option Nat := none
  /-- R124; sign-extend. -/
  sext : Bool := false
  /-- R55; the instruction is an acquire. -/
  acq : Bool := false
  /-- R254; an update of an atomic on the core's own local memory or, with pieces, on a line, that waits for those on lower addresses. -/
  here : Bool := false
  /-- R254; what the update touches of its line. -/
  pieces : List Piece := []
  /-- R105; core cycle at which it was sent. -/
  sent : Nat := 0
  /-- R104; served at the target; the values read, by part. -/
  done : Option (List Nat) := none
  /-- R105; its response has returned. -/
  back : Bool := false
  /-- R105; REMOTE_LOCAL_TIMEOUT has been raised for it. -/
  late : Bool := false
deriving DecidableEq, Repr

/-- The memories whose words carry a code, but for DRAM (R162, R194, R414, R488), by the structure codes of MEM_CORRECTED where it has one
(R444). -/
inductive Coded where
  | regFile | localStore | slice | accumulator | icache | reserve
deriving DecidableEq, Repr

/-- A bit error that stands in a stored word until the word is read or overwritten (R175, R194, R414, R488). The unit is a core, or a slice as
tile x 128 + j, or 0. The word is: of a register file, ((block x 32 + group) x 32 + lane) x 256 + register; of a local store, the 4-byte word
of the local-memory space; of a slice, (set x 16 + way) x 16 + 8-byte word; of an accumulator buffer, row x 256 + column of the result being
accumulated, and 2^16 + row x 256 + column of the intermediate product of the side path; of an instruction cache, the line number; of the management reserve, the 8-byte word. -/
structure Upset where
  /-- R444. -/
  mem : Coded
  /-- R444. -/
  unit : Nat := 0
  /-- R488. -/
  word : Nat := 0
  /-- R488; two bits of the word are wrong. -/
  double : Bool := false
deriving DecidableEq, Repr

/-! ## Coherent caches -/

/-- States of a held line (Table 8.1); I is a line that is not held. -/
inductive LineState where
  | m | o | e | s
deriving DecidableEq, Repr

/-- A line in a coherent cache (R238). -/
structure CacheLine where
  /-- R238; physical line number (address div 128). -/
  line : Nat := 0
  /-- R238. -/
  st : LineState := .s
  /-- R238; tile that sent its data. -/
  home : Nat := 0
  /-- R238. -/
  data : BitVec 1024 := 0
  /-- R194; poisoned sectors. -/
  poison : BitVec 4 := 0
  /-- R98; used bit of an L1 way. -/
  used : Bool := false
  /-- R205; the context whose command last wrote it. -/
  writer : Option Nat := none
deriving DecidableEq, Repr

/-- A request that a cache has outstanding (R247). -/
structure CacheReq where
  /-- R247; line requested. -/
  line : Nat := 0
  /-- R247; granted state, once COMP has come. -/
  grant : Option LineState := none
  /-- R247; whether DAT is still awaited. -/
  needData : Bool := true
  /-- R247; data received. -/
  data : Option (BitVec 1024 × BitVec 4) := none
  /-- R247; DATA_DIRTY received. -/
  dirty : Bool := false
  /-- R238; tile of the home. -/
  home : Nat := 0
  /-- R244; its tag. -/
  tag : BitVec 10 := 0
  /-- R244; agent number of the home slice. -/
  agent : BitVec 9 := 0
deriving DecidableEq, Repr

/-- A coherent cache, by cache number (R237). -/
structure Cache where
  /-- R237, R98; key set x 16 + way. -/
  lines : KMap CacheLine := []
  /-- R239; lines whose write-back is unacknowledged. -/
  wbuf : List CacheLine := []
  /-- R247. -/
  reqs : List CacheReq := []
  /-- R252; reserved line of a host core. -/
  reserved : Option Nat := none
deriving DecidableEq, Repr

/-! ## Floor tiles -/

/-- Directory states (Table 8.2); I is a free entry. -/
inductive DirState where
  | s | x | o
deriving DecidableEq, Repr

/-- A directory entry (R241). -/
structure DirEntry where
  /-- R240; directory line number. -/
  line : Nat := 0
  /-- R241. -/
  st : DirState := .s
  /-- R241. -/
  owner : Nat := 0
  /-- R241; FMT. -/
  coarse : Bool := false
  /-- R241; pointer format. -/
  ptrs : List Nat := []
  /-- R241; coarse format. -/
  bits : BitVec 60 := 0
deriving DecidableEq, Repr

/-- A message in flight on the floor, or a request at its home (R187, R214, R244). -/
structure Flight where
  /-- R189. -/
  op : FloorOp
  /-- R189. -/
  msg : FloorMsg
  /-- R214; of a request at its home: the tile memory address that it was decoded to. -/
  home : Option Nat := none
  /-- R200; the stream detector bypasses it. -/
  bypass : Bool := false
deriving DecidableEq, Repr

/-- A transaction at a home (R245). -/
structure Txn where
  /-- R240; directory line number. -/
  line : Nat := 0
  /-- R246; the request. -/
  req : Flight
  /-- R246; caches whose answer is awaited. -/
  waiting : List Nat := []
  /-- R246; the owner that was snooped. -/
  owner : Option Nat := none
  /-- R246; data the owner returned to the home. -/
  ret : Option (BitVec 1024 × BitVec 4) := none
  /-- R205; the context whose command last wrote the returned data. -/
  retWriter : Option Nat := none
  /-- R246; whether the owner's data goes to the requester. -/
  fwd : Bool := false
  /-- R246; the grant sent, awaiting CACK. -/
  granted : Bool := false
  /-- R246; caches whose WB was accepted during the transaction. -/
  wbFrom : List Nat := []
  /-- R245; hub count at which its snoops were sent. -/
  start : Nat := 0
  /-- R243; the request waits for a recall of this line. -/
  recallOf : Option Nat := none
deriving DecidableEq, Repr

/-- A line of a cache way (R195, R199). -/
structure LlmLine where
  /-- R186; tag. -/
  tag : Nat := 0
  /-- R195. -/
  dirty : Bool := false
  /-- R195. -/
  data : BitVec 1024 := 0
  /-- R194. -/
  poison : BitVec 4 := 0
deriving DecidableEq, Repr

/-- A conversion of a way (R203, R204). -/
structure Conversion where
  /-- R204. -/
  way : Nat := 0
  /-- R203, R204; true: to scratch. -/
  toScratch : Bool := true
  /-- R203, R204; die arithmetic cycle at which it began. -/
  start : Nat := 0
  /-- R204; hub count at which it began. -/
  at_ : Nat := 0
deriving DecidableEq, Repr

/-- A last-level memory slice (R194 to R208). -/
structure Slice where
  /-- R208; ways that are scratch ways now. -/
  scratch : BitVec 16 := 0
  /-- R208; SCRATCH_WAYS as written. -/
  target : BitVec 16 := 0
  /-- R204; the conversion running. -/
  conv : Option Conversion := none
  /-- R194; key set x 16 + way. -/
  lines : KMap LlmLine := []
  /-- R198; by set. -/
  plru : KMap (BitVec 16) := []
  /-- R199; dirty victims: (tile memory line, contents, poison), oldest first. -/
  victims : List (Nat × BitVec 1024 × BitVec 4) := []
  /-- R201; by set: the request whose miss is outstanding. -/
  misses : KMap Flight := []
  /-- R201; the park buffer, oldest first. -/
  parked : List Flight := []
  /-- R205; by way, the context whose command last wrote it. -/
  writer : KMap Nat := []
  /-- R450; fenced by Table 15.6. -/
  fenced : Bool := false
deriving DecidableEq, Repr

/-- An entry of the stream detector (R200). -/
structure StreamEntry where
  /-- R200; expected line number. -/
  expect : Nat := 0
  /-- R200. -/
  count : Nat := 0
  /-- R200; floor cycle of its last match. -/
  last : Nat := 0
deriving DecidableEq, Repr

/-- An interleave-set descriptor of a tile (R213). -/
structure ISet where
  /-- R213; FLR_ISET_CFG. -/
  cfg : BitVec 64 := 0
  /-- R213; FLR_ISET_TILES. -/
  tiles : BitVec 64 := 0
  /-- R213; FLR_ISET_LOCAL. -/
  local_ : BitVec 64 := 0
deriving DecidableEq, Repr

/-- The CRC registers of a window and its REG_REJECT (R437). -/
structure CrcRegs where
  /-- R437. -/
  check : Bool := false
  /-- R437. -/
  action : BitVec 3 := 0
  /-- R437. -/
  ref : BitVec 32 := 0
  /-- R437. -/
  value : BitVec 32 := 0
  /-- R434. -/
  dirty : Bool := false
  /-- R434. -/
  pending : Bool := false
  /-- R434; the hub count at which the pending commit was written. -/
  commitAt : Nat := 0
  /-- R435. -/
  mismatch : Bool := false
  /-- R431. -/
  seq : BitVec 16 := 0
  /-- R431. -/
  acked : BitVec 16 := 0
  /-- R436; CHECK and ACTION of the selected image, set once the boot commit has completed. -/
  arm : Option (Bool × BitVec 3) := none
  /-- R437; X_REG_REJECT. -/
  reject : BitVec 64 := 0
  /-- R425; by register offset, the hub count of its last logged out-of-range write. -/
  logged : KMap Nat := []
deriving DecidableEq, Repr

/-- An error ring and its registers (R441, R445). -/
structure ErrRing where
  /-- R442; by slot, the 64 bytes of a record. -/
  recs : KMap (BitVec 512) := []
  /-- R445. -/
  write : BitVec 64 := 0
  /-- R445. -/
  read : BitVec 64 := 0
  /-- R445. -/
  overflow : BitVec 64 := 0
  /-- R445. -/
  seq : BitVec 16 := 0
  /-- R431. -/
  acked : BitVec 16 := 0
  /-- R445. -/
  lastType : BitVec 8 := 0
  /-- R445. -/
  ce : BitVec 64 := 0
  /-- R448; a pending event is of CLASS 3 or above. -/
  grave : Bool := false
deriving DecidableEq, Repr

/-- A DRAM device of a tile (R216 to R220). -/
structure Dram where
  /-- R220; banks held for a repair. -/
  heldBanks : List Nat := []
  /-- R217, R218. -/
  stage : BitVec 3 := 0
  /-- R218; last sample in °C. -/
  temp : Nat := 0
  /-- R218; hub count at which the critical stage was entered; log 23. -/
  criticalAt : Nat := 0
  /-- R220; by bank x 2^20 + row: hub counts of the corrected reads in the last 24 h. -/
  corrected : KMap (List Nat) := []
  /-- R221; by bank: hub count of its last repair candidate. -/
  lastCandidate : KMap Nat := []
  /-- R220, R221; rows that wait for repair: bank x 2^20 + row, and whether its frames are to be retired whatever spares there
  are. -/
  candidates : List (Nat × Bool) := []
  /-- R220; by bank: spare rows left; unlisted banks have the device's own number (log 20). -/
  spares : KMap Nat := []
  /-- R220; rows already repaired. -/
  repaired : List Nat := []
  /-- R216; by bank: refreshes performed. -/
  refreshes : KMap Nat := []
deriving DecidableEq, Repr

/-- The hotness registers of a tile (R232). -/
structure Hot where
  /-- R232. -/
  base : BitVec 64 := 0
  /-- R232. -/
  enable : Bool := false
  /-- R232. -/
  sizeLog2 : BitVec 5 := 8
  /-- R232. -/
  rate : BitVec 5 := 10
  /-- R232. -/
  write : BitVec 64 := 0
  /-- R232. -/
  read : BitVec 64 := 0
  /-- R232. -/
  drops : BitVec 64 := 0
  /-- R231; counted accesses. -/
  count : Nat := 0
  /-- R231; samples taken and not yet written, oldest first; log 1. -/
  queue : List (BitVec 128) := []
deriving DecidableEq, Repr

/-- A remote transaction that a tile's cores have outstanding (R285, R286). -/
structure Remote where
  /-- R276; the frame sent. -/
  frame : Frame
  /-- R285; issuing core, block, group, lane and instruction. -/
  core : Nat := 0
  /-- R285. -/
  block : Nat := 0
  /-- R285. -/
  group : Nat := 0
  /-- R285. -/
  lane : Nat := 0
  /-- R96. -/
  pc : BitVec 64 := 0
  /-- R96. -/
  lanes : BitVec 32 := 0
  /-- R127; destination register. -/
  dst : Option Nat := none
  /-- R70; queue of the command that issued it. -/
  queue : Nat := 0
  /-- R70; index of that command. -/
  index : BitVec 64 := 0
  /-- R285; first-hop link. -/
  link : Option Nat := none
  /-- R286; hub count when it left the tile, none while it waits there. -/
  sent : Option Nat := none
  /-- R286; largest slowness seen. -/
  slow : Nat := 0
  /-- R287; answered FULL, and the hub count of the last sending. -/
  retryAt : Option Nat := none
  /-- R97; its block was terminated, and its answer is discarded. -/
  dead : Bool := false
deriving DecidableEq, Repr

/-- A floor tile (07, 08, 09, 14, 15). -/
structure Tile where
  /-- R403; admitted and out of reset. -/
  up : Bool := false
  /-- R456; fence under way: its cause, and the hub count at which it began. -/
  fence : Option (Nat × Nat) := none
  /-- R456; the fence has taken effect. -/
  fenced : Bool := false
  /-- R392; step of the die reset under way, 0 none. -/
  resetStep : Nat := 0
  /-- R392; queue whose RESET command waits for this die's reset. -/
  resetBy : Option Nat := none
  /-- R206. -/
  llmEnable : Bool := false
  /-- R206; the slices write back their dirty lines after LLM_ENABLE was cleared. -/
  draining : Bool := false
  /-- R207; ALLOC_WAYS by class. -/
  classMask : KMap (BitVec 16) := []
  /-- R194; by j. -/
  slices : KMap Slice := []
  /-- R209. -/
  streamEnable : Bool := false
  /-- R209. -/
  threshold : BitVec 10 := 64
  /-- R209. -/
  gapExp : BitVec 5 := 12
  /-- R200; by entry. -/
  streamEntries : KMap StreamEntry := []
  /-- R213; by n. -/
  isets : KMap ISet := []
  /-- R217; 0 the HBM stack, 1 and 2 the LPDDR5X packages. -/
  drams : KMap Dram := []
  /-- R231, R232. -/
  hot : Hot := {}
  /-- R223; write-sequence counter. -/
  writeSeq : BitVec 32 := 0
  /-- R223; write-sequence tags by sector key. -/
  tags : KMap (BitVec 8) := []
  /-- R241; key set x 16 + way. -/
  dir : KMap DirEntry := []
  /-- R243; by set. -/
  dirPlru : KMap (BitVec 16) := []
  /-- R245; transactions running. -/
  txns : List Txn := []
  /-- R245, R218, R261; requests held at the home, in arrival order, with the hub count of arrival and the reason (0 line in a transaction or its directory set in use, 1 critical device, 2 home being taken over, 3 bank under repair or way being converted). -/
  held : List (Flight × Nat × Nat) := []
  /-- R259; fenced dies whose directory scan has not ended. -/
  scans : List Nat := []
  /-- R261; the tile holds requests to units it took over from these tiles. -/
  taking : List Nat := []
  /-- R233; floor translation unit: entries for pages of 4 and 64 KiB. -/
  tlbSmall : List TlbEntry := []
  /-- R233; entries for 2 MiB and 1 GiB pages. -/
  tlbMid : List TlbEntry := []
  /-- R233; entries for 512 GiB and 256 TiB pages. -/
  tlbBig : List TlbEntry := []
  /-- R233; cached non-leaf entries. -/
  walkCache : List WalkEntry := []
  /-- R190. -/
  protoErr : BitVec 64 := 0
  /-- R258; messages from fenced tiles discarded after the notice. -/
  discarded : Nat := 0
  /-- R438; FLR_SAT. -/
  sat : BitVec 64 := 0
  /-- R437. -/
  crc : CrcRegs := {}
  /-- R445. -/
  errs : ErrRing := {}
  /-- R304; LNK_MSG_TABLE. -/
  msgTable : BitVec 64 := 0
  /-- R304; module route entries by module. -/
  modRoutes : KMap (BitVec 32) := []
  /-- R304; pod route entries by pod. -/
  podRoutes : KMap (BitVec 32) := []
  /-- R285; by tag. -/
  remotes : KMap Remote := []
  /-- R276; next transaction tag to use, log 4. -/
  nextTag : Nat := 0
  /-- R12; the links to the ring neighbours and the hub run at 32 GT/s. -/
  ucie32 : Bool := false
  /-- R12; the ring links that run at 16 GT/s. -/
  ucieSlow : BitVec 2 := 0
  /-- R12; the disabled UCIe modules: 0 to 31 and 32 to 63 of its ring links, 64 to 71 of its hub link. -/
  ucieDisabled : BitVec 72 := 0
  /-- R11; lanes that redundant lanes replace, as module x 64 + lane. -/
  ucieLanes : List Nat := []
deriving DecidableEq, Repr

/-- The low-power state of a region (R26). -/
inductive RegionPower where
  | on
  | clockGated
  | powerGated
  | waking (since : Nat) (retried : Bool)
deriving DecidableEq, Repr

/-- A compute die (01, 14). -/
structure Die where
  /-- R25; DIE_TIMESTAMP, loaded or not. -/
  time : BitVec 64 := 0
  /-- R25. -/
  timeLoaded : Bool := false
  /-- R23, R26; the die's PLLs run. -/
  pll : Bool := false
  /-- R455; the PLLs have failed by a fault. -/
  pllFailed : Bool := false
  /-- R360; arithmetic cycles since power-on, in 64ths of a cycle. -/
  arith64 : Nat := 0
  /-- R26; by region. -/
  regions : KMap RegionPower := []
  /-- R438; DIE_SAT_CELL by cell. -/
  satCell : KMap (BitVec 64) := []
  /-- R438; DIE_SAT_REGION by region. -/
  satRegion : KMap (BitVec 64) := []
  /-- R437. -/
  crc : CrcRegs := {}
  /-- R21; spares used, by physical position. -/
  used : List Nat := []
  /-- R20; failed or retired positions. -/
  failed : List Nat := []
deriving DecidableEq, Repr

/-! ## Links and collectives -/

/-- Link states (Table 9.4). -/
inductive LinkState where
  | off | wait | train | active | isolated | retrain | down
deriving DecidableEq, Repr

/-- A Ramric link, by number (R263 to R303). -/
structure Link where
  /-- R267. -/
  state : LinkState := .off
  /-- R301. -/
  enable : Bool := false
  /-- R392; ENABLE was 1 when its tile was reset, and is set again at the readmission. -/
  again : Bool := false
  /-- R301. -/
  laneEn : BitVec 2 := 0b11
  /-- R302; lanes in use. -/
  lanes : BitVec 2 := 0
  /-- R466; its tile's SerDes rail limits it to one lane. -/
  oneLane : Bool := false
  /-- R271, R302; decommissioned lanes. -/
  decom : BitVec 2 := 0
  /-- R270; lanes that passed equalisation in this attempt. -/
  good : BitVec 2 := 0
  /-- R302. -/
  mismatch : BitVec 3 := 0
  /-- R302. -/
  peerSlow : BitVec 2 := 0
  /-- R302. -/
  peerStopped : Bool := false
  /-- R302. -/
  peerSelf : BitVec 32 := 0
  /-- R302; LNK_EVENT SEQ. -/
  seq : BitVec 16 := 0
  /-- R431. -/
  acked : BitVec 16 := 0
  /-- R302. -/
  lastState : BitVec 3 := 0
  /-- R268; training step, 0 none, 1 equalisation, 2 lock, 3 identity. -/
  step : Nat := 0
  /-- R268; failed attempts so far. -/
  attempts : Nat := 0
  /-- R268; floor cycle at which the attempt began. -/
  attemptAt : Nat := 0
  /-- R271; by lane: equalisation failures in a row. -/
  eqFails : KMap Nat := []
  /-- R271; by lane: corrected symbols in the present 1 s window. -/
  corrWin : KMap Nat := []
  /-- R271; floor cycle at which the window began. -/
  winStart : Nat := 0
  /-- R264; uncorrectable codewords in a row. -/
  badRun : Nat := 0
  /-- R264; good codewords in a row. -/
  goodRun : Nat := 0
  /-- R268; last identity block received and how often in a row it came. -/
  ident : Option IdBlock := none
  /-- R268. -/
  identRun : Nat := 0
  /-- R270; the two sides' identities have been exchanged since training began. -/
  wasActive : Bool := false
  /-- R272; PID unchanged since the link was ACTIVE. -/
  resume : Bool := false
  /-- R272; floor cycle at which RETRAIN began. -/
  retrainAt : Nat := 0
  /-- R272, Table 15.12; the link went DOWN in RETRAIN, and what it carried is kept until the retrain's 100 ms are over. -/
  kept : Bool := false
  /-- R268; floor cycle at which the link went DOWN. -/
  downAt : Nat := 0
  /-- Table 15.6; DOWN by its fence action. -/
  fenced : Bool := false
  /-- R273; next sequence number to send. -/
  txSeq : BitVec 12 := 0
  /-- R274; next sequence number expected. -/
  rxSeq : BitVec 12 := 0
  /-- R273; blocks kept: (sequence number, FIRST, frame area), oldest first. -/
  replay : List (BitVec 12 × BitVec 7 × List Byte) := []
  /-- R274; blocks still to be resent. -/
  resend : List (BitVec 12 × BitVec 7 × List Byte) := []
  /-- R274; NAK is set in the controls sent. -/
  nak : Bool := false
  /-- R272; replays from one sequence number without ACK_SEQ advancing. -/
  replays : Nat := 0
  /-- R275; by VC: credits held for sending. -/
  credits : KMap Nat := []
  /-- R275; by VC: CR_COUNT last seen. -/
  crSeen : KMap (BitVec 12) := []
  /-- R275; by VC: cumulative credits freed here. -/
  crFreed : KMap (BitVec 12) := []
  /-- R275; by VC: count last reported. -/
  crSent : KMap (BitVec 12) := []
  /-- R275; VC reported last. -/
  crVc : Nat := 0
  /-- R281; by VC: credits the sender has used of those this side gave. -/
  rxUsed : KMap Nat := []
  /-- R265; frames queued to be sent, oldest first. -/
  txq : List Frame := []
  /-- R265; the block sent last. MODEL, log 1. -/
  lastSent : Option LinkBlock := none
  /-- R269; the identity block sent last. MODEL, log 1. -/
  lastIdent : Option IdBlock := none
  /-- R265; bytes of a frame begun and not yet sent. -/
  txPart : List Byte := []
  /-- R265; bytes of a frame received in part. -/
  rxPart : List Byte := []
  /-- R281; parsing waits for the FIRST of a later block. -/
  rxSync : Bool := false
  /-- R281; frames received whole and not yet handled, oldest first. -/
  rxq : List Frame := []
  /-- R282; LINK_NAKs: hub count of the last one sent. -/
  nakAt : Option Nat := none
  /-- R282; by reason: hub count of the last rejection logged. -/
  rejLogged : KMap Nat := []
  /-- R268; floor cycle at which the last identity block was sent, none before the first of an exchange. -/
  identAt : Option Nat := none
  /-- R303. -/
  corr0 : BitVec 64 := 0
  /-- R303. -/
  corr1 : BitVec 64 := 0
  /-- R303. -/
  uncorr : BitVec 64 := 0
  /-- R303. -/
  replayCnt : BitVec 64 := 0
  /-- R303. -/
  retrains : BitVec 64 := 0
  /-- R303. -/
  foreign : BitVec 64 := 0
  /-- R303. -/
  rejects : BitVec 64 := 0
  /-- R303. -/
  nakRx : BitVec 64 := 0
  /-- R303. -/
  stale : BitVec 64 := 0
  /-- R303. -/
  creditWait : BitVec 64 := 0
deriving DecidableEq, Repr

/-- A collective engine's work on one collective (R294 to R299), of one die. -/
structure CollEngine where
  /-- R295; by role kind x 2^20 + block: the partial or the final elements of that block. -/
  parts : KMap (List (BitVec 64 × Bool)) := []
  /-- R295; received elements by ((phase x 32 + level) x 2 + virtual) x 2^20 + block, by element offset within the block. -/
  recv : KMap (KMap (BitVec 64 × Bool)) := []
  /-- R295; by role kind x 2^20 + block: reduce levels done. -/
  level : KMap Nat := []
  /-- R295; exchanges already sent, as recv's keys. -/
  sent : List Nat := []
  /-- R295; final blocks already written to the receive buffer. -/
  written : List Nat := []
  /-- R299; status code it ended with, 0xFF while running. -/
  status : Nat := 0xFF
  /-- R299; hub count of the last COLL frame, or of the start. -/
  lastFrame : Nat := 0
  /-- R299; largest S seen. -/
  slow : Nat := 0
deriving DecidableEq, Repr

/-- A running or waiting collective of a partition (R291, R297). -/
structure Coll where
  /-- R345; queue of its command. -/
  queue : Nat := 0
  /-- R294; first die of its partition. -/
  first : Nat := 0
  /-- R294; dies of its partition. -/
  dies : Nat := 1
  /-- R291; the descriptor. -/
  desc : BitVec 512 := 0
  /-- R291; link addresses of the participants. -/
  peers : List (BitVec 32) := []
  /-- R297. -/
  running : Bool := false
  /-- R299; the first status other than OK and POISON that arose. -/
  code : Option Nat := none
  /-- R294; by die index. -/
  engines : KMap CollEngine := []
deriving DecidableEq, Repr

/-! ## The command processor -/

/-- A client context (R332 to R342, R347). -/
structure Context where
  /-- R332. -/
  live : Bool := false
  /-- R334; being destroyed, by the command of this queue. -/
  ending : Option Nat := none
  /-- R333; first die of its partition; none for context 0. -/
  first : Option Nat := none
  /-- R333; bound to host cores (1) or to the host function (0). -/
  hostCores : Bool := false
  /-- R333. -/
  priv : BitVec 16 := 0
  /-- R333. -/
  sliceUs : Nat := 0
  /-- R347. -/
  key : Option (BitVec 256) := none
  /-- R347, R350. -/
  counter : BitVec 64 := 0
  /-- R352; AUTH_FAIL results in a row. -/
  fails : Nat := 0
  /-- R352; hub count at which the lockout began. -/
  lockedAt : Option Nat := none
  /-- R342. -/
  jobsDone : BitVec 64 := 0
  /-- R342. -/
  jobsFailed : BitVec 64 := 0
deriving DecidableEq, Repr

/-- One launch of a kernel (R343, R344). -/
structure Launch where
  /-- R344; index in the kernel list. -/
  kidx : Nat := 0
  /-- R184; step-table entry, if there is a table. -/
  entry : Option Nat := none
  /-- R183. -/
  stepPhase : BitVec 8 := 0xFF
  /-- R132; virtual address of the code object. -/
  code : BitVec 64 := 0
  /-- R132; the header as read. -/
  header : BitVec 512 := 0
  /-- R343. -/
  args : BitVec 64 := 0
  /-- R343. -/
  gridX : Nat := 1
  /-- R343. -/
  gridY : Nat := 1
  /-- R343. -/
  gridZ : Nat := 1
  /-- R184. -/
  cellFirst : Nat := 0
  /-- R184. -/
  cellCount : Nat := 0
  /-- R339; order in which launches started. -/
  order : Nat := 0
  /-- R343; teams placed so far. -/
  placed : Nat := 0
  /-- R343; blocks placed and not ended. -/
  live : Nat := 0
  /-- R70; every team placed and every block ended, or ended by its command. -/
  done : Bool := false
  /-- R110; cores on which the command has invalidated the instruction caches. -/
  cores : List Nat := []
deriving DecidableEq, Repr

/-- Where the command of a queue stands (R68, R337, R340, R70). -/
inductive RunStage where
  | fetched
  | waitSlice
  | running
  | ending
  | done
deriving DecidableEq, Repr

/-- The command that a queue runs (R69). -/
structure Run where
  /-- R66. -/
  index : BitVec 64 := 0
  /-- R327; packet bytes. -/
  packet : BitVec 512 := 0
  /-- R337. -/
  stage : RunStage := .fetched
  /-- R331. -/
  status : BitVec 16 := 0
  /-- R331. -/
  detail : BitVec 32 := 0
  /-- R328. -/
  result : BitVec 64 := 0
  /-- R340; hub count from which the limit counts. -/
  start : Option Nat := none
  /-- R339; place of its command in the order of starts. -/
  order : Nat := 0
  /-- R352; place of its packet in the order of reads. -/
  readAt : Nat := 0
  /-- R346; hub count of the last read of a WAIT. -/
  polled : Nat := 0
  /-- R343, R344. -/
  launches : List Launch := []
  /-- R344; the kernel list's entries, checked: (entry bytes, header). -/
  kernels : List (BitVec 256 × BitVec 512) := []
  /-- R183; the step table's entries, 16 bytes each. -/
  steps : List (BitVec 128) := []
  /-- R341; dies that were fenced. -/
  fencedDies : BitVec 12 := 0
  /-- R391; a RESET waits for these dies. -/
  resetDies : List Nat := []
  /-- R334; context it destroys. -/
  destroys : Option Nat := none
  /-- R335; queue whose command it waits for. -/
  destroysQueue : Option Nat := none
  /-- R391; the reset that takes effect once its completion is written: its scope. -/
  resetScope : Nat := 0
deriving DecidableEq, Repr

/-- A queue (R64 to R68). -/
structure Queue where
  /-- R335. -/
  live : Bool := false
  /-- R64. -/
  context : Nat := 0
  /-- R64. -/
  ringBase : Nat := 0
  /-- R64. -/
  ringLog2 : Nat := 6
  /-- R64. -/
  statusBase : Nat := 0
  /-- R64. -/
  readIndexAddr : Nat := 0
  /-- R64. -/
  atp : BitVec 64 := 0
  /-- R41, R64. -/
  adHw : Bool := false
  /-- R43, R64. -/
  aperture : BitVec 64 := 0
  /-- R335, R340. -/
  limitMs : Nat := 0
  /-- R66, R68. -/
  read : BitVec 64 := 0
  /-- R68. -/
  doorbell : BitVec 64 := 0
  /-- R68; the error state. -/
  error : Bool := false
  /-- R335; reads no further packets. -/
  stopping : Bool := false
  /-- R68; hub count at which an empty slot was read, and the doorbell has not been written since. -/
  emptyAt : Option Nat := none
  /-- R69. -/
  run : Option Run := none
  /-- R65; hub count of the last malformed doorbell write recorded. -/
  badDoorbell : Option Nat := none
  /-- R65; last doorbell value accepted, as a read returns it; kept when the queue is freed. -/
  lastAccepted : BitVec 64 := 0
deriving DecidableEq, Repr

/-- A partition, by its first die (R18, R278, R337). -/
structure Partition where
  /-- R18; number of dies. -/
  dies : Nat := 0
  /-- R278. -/
  pid : BitVec 32 := 0
  /-- R337; current context. -/
  current : Option Nat := none
  /-- R337; hub count at which its slice began. -/
  sliceAt : Nat := 0
  /-- R337; its slice has ended and another context is ready. -/
  sliceOver : Bool := false
  /-- R288; advertised level. -/
  slow : Nat := 0
  /-- R288; hub count since which a lower level has held. -/
  lowerSince : Option Nat := none
  /-- R297; by channel: SEQ of the last completed collective. -/
  lastSeq : KMap (BitVec 9) := []
  /-- R297; collective frames held for a collective to come, each with where it came from: 0 the module itself, link + 1 with its
  credits not yet returned, link + 97 with them returned. -/
  heldColl : List (Nat × Frame) := []
deriving DecidableEq, Repr

/-- A KV pool (R355). -/
structure KvPool where
  /-- R355. -/
  owner : Nat := 0
  /-- R355. -/
  first : Nat := 0
  /-- R355. -/
  blockLog2 : Nat := 12
  /-- R355. -/
  maxBlocks : Nat := 1
  /-- R355. -/
  maxSeqs : Nat := 1
  /-- R355. -/
  blocks : Nat := 1
  /-- R355. -/
  blockBase : Nat := 0
  /-- R355. -/
  tableBase : Nat := 0
  /-- R355. -/
  bitmapBase : Nat := 0
  /-- R358. -/
  nextPark : BitVec 64 := 1
deriving DecidableEq, Repr

/-! ## The host function -/

/-- A ring in host memory (R315): ring c < 32 is completion ring c, ring 32 the outbox. -/
structure HostRing where
  /-- R315. -/
  base : BitVec 64 := 0
  /-- R315. -/
  enable : Bool := false
  /-- R315. -/
  log2 : BitVec 5 := 6
  /-- R315. -/
  intEn : Bool := false
  /-- R315. -/
  modUs : BitVec 8 := 0
  /-- R315. -/
  read : BitVec 64 := 0
  /-- R315. -/
  write : BitVec 64 := 0
  /-- R315. -/
  epochSeq : BitVec 64 := 0
  /-- R318, R319; records not yet posted, oldest first; their SEQ and EPOCH are filled in at posting. -/
  backlog : List (BitVec 256) := []
  /-- R319; HUB_OUTBOX_DROPS. -/
  drops : BitVec 64 := 0
  /-- R319; messages lost since the last RING_LOSS message. -/
  lost : Nat := 0
  /-- R322; owes a LINK_EPOCH. -/
  owes : Bool := false
  /-- R322; highest SEQ known delivered since the ring was enabled. -/
  delivered : Option (BitVec 64) := none
  /-- R322; SEQ of the first record after the latest enable. -/
  firstSeq : BitVec 64 := 0
  /-- R320; a message is due. -/
  msiDue : Bool := false
  /-- R320; hub count of its last MSI-X message. -/
  msiAt : Option Nat := none
deriving DecidableEq, Repr

/-- A posted write of the module (R316, R320, R321). -/
inductive Posted where
  | record (ring : Nat) (seq : BitVec 64) (addr : BitVec 64) (data : BitVec 256)
  | msix (vec : Nat) (addr : BitVec 64) (data : BitVec 32)
deriving DecidableEq, Repr

/-- A request of BAR2 or BAR4 that has arrived and is not yet performed (R63, R310): the first die of the partition it acts for, none
for the management reserve, and its address; of a request with a completion, the EPOCH in which it arrived (R322). -/
inductive WindowOp where
  | write (part : Option Nat) (pa : Nat) (bytes : List Byte) (ep : Bool)
  | read (part : Option Nat) (pa len : Nat) (epoch : BitVec 16)
  | atomic (part : Option Nat) (pa aop atype x y : Nat) (epoch : BitVec 16)
  | bell (queue : Nat) (v : BitVec 64)
deriving DecidableEq, Repr

/-- A completion the module returns to the tray host (R312, R313, R326). -/
inductive Completion where
  | data (bytes : List Byte) (poisoned : Bool)
  | abort
  | unsupported
deriving DecidableEq, Repr

/-- The PCI Express function (R305 to R326). -/
structure HostFn where
  /-- R308. -/
  epoch : BitVec 16 := 0
  /-- R308. -/
  linkUp : Bool := false
  /-- R323; Bus Master Enable. -/
  bme : Bool := false
  /-- R323; Memory Space Enable. -/
  mse : Bool := false
  /-- R323; D3hot. -/
  d3hot : Bool := false
  /-- R308. -/
  lastReset : BitVec 4 := 0
  /-- R325; the controller is held in reset. -/
  inReset : Bool := true
  /-- R325; a host-function reset waits for its terminated commands. -/
  resetting : Bool := false
  /-- R324; the cause of the reset under way. -/
  resetCause : BitVec 4 := 0
  /-- R324; hub count of the DL_Down. -/
  downAt : Option Nat := none
  /-- R310; HUB_WIN_CTL. -/
  win : BitVec 64 := 0
  /-- R315; by ring. -/
  rings : KMap HostRing := []
  /-- R320; MSI-X table by 32-bit word; reset DESIGN CHOICE 0, log 5. -/
  msixTable : KMap (BitVec 32) := []
  /-- R321; posted writes not yet delivered, oldest first. -/
  posted : List Posted := []
  /-- R321; posted writes delivered to host memory, oldest first. -/
  delivered : List Posted := []
  /-- R63, R312; requests of BAR2 and BAR4 not yet performed, oldest first. -/
  held : List WindowOp := []
  /-- R312; completions sent, oldest first. -/
  completions : List Completion := []
  /-- R317; hub timestamp of the latest link-up. -/
  upAt : BitVec 64 := 0
  /-- R305, R326; the AER uncorrectable error status; its bits' places PRESUMED, log 85. -/
  aer : BitVec 32 := 0
  /-- R440; HUB_HOST_VIOL. -/
  violations : BitVec 64 := 0
  /-- R326; by row of Table 10.9: hub count of the last one logged. -/
  violLogged : KMap Nat := []
deriving DecidableEq, Repr

/-! ## Power, boot, trust -/

/-- Power control of one die (R372, R376, R388). -/
structure PwrDie where
  /-- R388; ARITH_N. -/
  n : Nat := 0
  /-- R388; HOST_M. -/
  m : Nat := 0
  /-- R376, R388. -/
  stage : Nat := 0
  /-- R375; by sensor, 0 to 15 the die's and 16 to 19 the tile's: latest sample. -/
  sensors : KMap Nat := []
  /-- R388. -/
  temp : Nat := 0
  /-- R388. -/
  cause : Nat := 0
  /-- R369; step cap that the fast path holds. -/
  fastCap : Nat := 64
  /-- R372; step that the die's share allows. -/
  shareN : Nat := 8
  /-- R372; share in mW, loans apart. -/
  share : Nat := 0
  /-- R14, R372; share of each awake region in mW, by region. -/
  regionShare : KMap Nat := []
  /-- R373; borrowed from dies of its partition, or lent (negative), in mW. -/
  loan : Int := 0
  /-- R373; borrowed from other partitions, or lent (negative), in mW. -/
  cross : Int := 0
  /-- R373; borrowed from other regions of the die, or lent (negative), in mW, by region. -/
  regionLoan : KMap Int := []
  /-- R373; attributed compute power of each region in the last 100 intervals of 10 µs, newest first, in mW. -/
  regionRecent : KMap (List Nat) := []
  /-- R373; hub count since which n has been held below 64 by the share. -/
  satSince : Option Nat := none
  /-- R364, R388; modelled power by category, in mW: 0 compute, 1 memory, 2 links. -/
  model : KMap Nat := []
  /-- R364; modelled compute power by region, in mW. -/
  regionModel : KMap Nat := []
  /-- R364; counts of the last interval by region x 64 + kind of event. -/
  regionActs : KMap Nat := []
  /-- R373; attributed compute power of the last 100 intervals of 10 µs, newest first, in mW. -/
  recent : List Nat := []
  /-- R364; counts of the last interval, by kind of event. -/
  acts : KMap Nat := []
  /-- R388; energy by category, in nJ. -/
  energy : KMap Nat := []
deriving DecidableEq, Repr

/-- Measurement of one rail (R363, R365). -/
structure Rail where
  /-- R363; power of the last sample in mW, after replacement. -/
  milliWatt : Nat := 0
  /-- R363; temperature of the last frame taken. -/
  temp : Nat := 0
  /-- R363; status of the last frame taken. -/
  status : BitVec 16 := 0
  /-- R365; the sample as measured. -/
  last : Nat := 0
  /-- R365; samples in a row without change. -/
  same : Nat := 0
  /-- R365; the model's value when the run of equal samples began, in mW. -/
  modelAt : Nat := 0
  /-- R365; its measurement is being replaced. -/
  replaced : Bool := false
  /-- R365; MEAS_IMPLAUSIBLE was raised. -/
  raised : Bool := false
  /-- R466; phases working; none: all. -/
  phases : Option Nat := none
deriving DecidableEq, Repr

/-- Power control (12). -/
structure Power where
  /-- R388. -/
  lendAcross : Bool := false
  /-- R388. -/
  ramp : BitVec 11 := 250
  /-- R387. -/
  seq : BitVec 16 := 0
  /-- R431. -/
  acked : BitVec 16 := 0
  /-- R387. -/
  lastCode : BitVec 16 := 0
  /-- R388; by die. -/
  dies : KMap PwrDie := []
  /-- R363; by rail in the order of Table 12.1, VIN as 0. -/
  rails : KMap Rail := []
  /-- R388; MEAS_W. -/
  meas : Nat := 0
  /-- R388; MODEL_W. -/
  model : Nat := 0
  /-- R388; TARGET_W. -/
  target : Nat := 0
  /-- R366. -/
  diverge : Bool := false
  /-- R366; divergent intervals in a row. -/
  divRun : Nat := 0
  /-- R366; intervals in a row that are not divergent. -/
  okRun : Nat := 0
  /-- R383. -/
  brake : Bool := false
  /-- R388; FLOOR. -/
  floor : Bool := false
  /-- R369; the fast path holds the dies. -/
  fastHeld : Bool := false
  /-- R369; it holds DRAM at the 50 % burst limit. -/
  fastBurst : Bool := false
  /-- R369; samples at or below 4,000 W in a row. -/
  lowRun : Nat := 0
  /-- R369; it applies the memory and link shedding of Table 12.3 in full. -/
  shedAll : Bool := false
  /-- R371; steps of Table 12.3 taken: 1 to 12 lower host-core clocks, 13 to 17 limit bursts, 18 to 20 limit remote requests. -/
  shed : Nat := 0
  /-- R384; the stop is in force. -/
  coolStop : Bool := false
  /-- R388; RAMP_LIMITED. -/
  rampLimited : Bool := false
  /-- R362; Velvet standby. -/
  standby : Bool := false
  /-- R380. -/
  coolantStage : Nat := 0
  /-- R375; inlet in 0.1 °C; reset DESIGN CHOICE 0, log 6. -/
  inlet : Nat := 0
  /-- R375; flow in 0.1 L/min; reset DESIGN CHOICE 0, log 6. -/
  flow : Nat := 0
  /-- R380; hub count since which the condition of stage 3 has held. -/
  stage3Since : Option Nat := none
  /-- R375; hub sensors by number. -/
  hubTemps : KMap Nat := []
  /-- R368; the limit measure of the last updates, newest first, in mW. -/
  hist : List Nat := []
  /-- R388; the model's module total of the last 100 updates, newest first, in mW. -/
  modelHist : List Nat := []
  /-- R368; hub count at which S last changed. -/
  limitAt : Nat := 0
  /-- R368; queues whose POWER_LIMIT waits for the new limit, and whether it raised S. -/
  limitWait : List (Nat × Bool) := []
  /-- R388; PWR_ENERGY_HUB in nJ. -/
  hubEnergy : Nat := 0
  /-- R382; the trip's regulators are off. -/
  tripped : Bool := false
deriving DecidableEq, Repr

/-- An image in module flash (R395, R396). -/
structure FlashImage where
  /-- R396; H. -/
  h : BitVec 256 := 0
  /-- R395. -/
  svn : BitVec 32 := 0
  /-- R395. -/
  count : BitVec 32 := 0
  /-- R396; passes every check but the SVN. -/
  valid : Bool := true
  /-- R397; sections, for a configuration image. -/
  config : ConfigImage := {}
deriving DecidableEq, Repr

/-- State of a firmware slot (R398). -/
inductive SlotState where
  | invalid | pending (attempts : Nat) | active | old
deriving DecidableEq, Repr

/-- What a boot record holds (R394). -/
structure BootRecord where
  /-- R394. -/
  minSvnFw : BitVec 32 := 0
  /-- R394. -/
  minSvnCfg : BitVec 32 := 0
  /-- R394, R401. -/
  imageCount : BitVec 32 := 0
  /-- R394, R398. -/
  slots : KMap SlotState := []
  /-- R394. -/
  bootCount : BitVec 32 := 0
  /-- R394, R350. -/
  ctx0Counter : BitVec 64 := 0
  /-- R394, R415. -/
  boardCounter : BitVec 64 := 0
deriving DecidableEq, Repr

/-- The areas of module flash (Table 13.2), in the order of their offsets. -/
inductive FlashArea where
  | bootRecord | keyRecords | reservedA | eventLog | configA | configB | repairRecord | reservedB | slot0 | slot1 | staging | reservedC
deriving DecidableEq, Repr

/-- A copy of a record in module flash: its sequence number, what it holds, and its tag (R394). -/
structure RecCopy (α : Type) where
  /-- R394. -/
  seq : Nat
  /-- R394. -/
  body : α
  /-- R394. -/
  tag : BitVec 256
deriving DecidableEq, Repr

/-- R394, R398: a slot's state and its attempts, as the boot record writes them (log 86). -/
def SlotState.code : SlotState → Nat
  | .invalid => 0
  | .pending n => 1 + 256 * n
  | .active => 2
  | .old => 3

/-- The bytes of a boot record, in the order of R394 (log 86). -/
def BootRecord.bytes (r : BootRecord) : List Byte :=
  leBytes 4 r.minSvnFw.toNat ++ leBytes 4 r.minSvnCfg.toNat ++ leBytes 4 r.imageCount.toNat ++
  leBytes 2 (kget .invalid r.slots 0).code ++ leBytes 2 (kget .invalid r.slots 1).code ++
  leBytes 4 r.bootCount.toNat ++ leBytes 8 r.ctx0Counter.toNat ++ leBytes 8 r.boardCounter.toNat

/-- The bytes of a key record: its generation and its stored key (R411, log 86). -/
def keyBytes (r : BitVec 64 × BitVec 256) : List Byte := leBytes 8 r.1.toNat ++ leBytes 32 r.2.toNat

/-- The bytes of a repair record: the number of its entries, and each in 16 bytes (R463, log 86). -/
def repairBytes (l : List (Nat × Nat)) : List Byte := leBytes 8 l.length ++ l.flatMap fun x => leBytes 4 x.1 ++ leBytes 12 x.2

/-- R394: copies of the records, with their tags. -/
def bootCopy (seq : Nat) (r : BootRecord) : RecCopy BootRecord := { seq := seq, body := r, tag := recTag "FT2-BR" seq r.bytes }
def keyCopy (seq : Nat) (r : BitVec 64 × BitVec 256) : RecCopy (BitVec 64 × BitVec 256) :=
  { seq := seq, body := r, tag := recTag "FT2-KEY" seq (keyBytes r) }
def repairCopy (seq : Nat) (l : List (Nat × Nat)) : RecCopy (List (Nat × Nat)) :=
  { seq := seq, body := l, tag := recTag "FT2-REP" seq (repairBytes l) }

/-- Module flash (R393, R394), which survives every reset and the loss of input power. Boot, key and repair records have two copies
each; the fields of what they hold are those of the copy in use. -/
structure Flash where
  /-- R393; firmware slots 0 and 1. -/
  fw : KMap FlashImage := []
  /-- R394, R398; the slots' states. -/
  slots : KMap SlotState := []
  /-- R393; configuration copies A (0) and B (1). -/
  cfg : KMap FlashImage := []
  /-- R394. -/
  minSvnFw : BitVec 32 := 0
  /-- R394. -/
  minSvnCfg : BitVec 32 := 0
  /-- R394, R401; image counter. -/
  imageCount : BitVec 32 := 0
  /-- R394. -/
  bootCount : BitVec 32 := 0
  /-- R350; flashed context-0 counter. -/
  ctx0Counter : BitVec 64 := 0
  /-- R415; flashed board-controller counter. -/
  boardCounter : BitVec 64 := 0
  /-- R411; (generation, key) of the valid record of context 0's key. -/
  ctx0Key : BitVec 64 × BitVec 256 := (0, 0)
  /-- R411; (generation, key) of the board key. -/
  boardKey : BitVec 64 × BitVec 256 := (0, 0)
  /-- R393; event log: (kind: 0 THERM_TRIP, 1 LEASE_LOST, 2 boot failure, 3 BROWN_OUT; detail), oldest first. -/
  log : List (Nat × Nat) := []
  /-- R463; repair record: (kind: 0 core, 1 DRAM, 2 UCIe; value), oldest first. -/
  repairs : List (Nat × Nat) := []
  /-- R463; REPAIR_RECORD_FULL was written. -/
  repairFull : Bool := false
  /-- R394; the copies of the boot record. -/
  boots : KMap (RecCopy BootRecord) := []
  /-- R394, R411; the copies of the key records, by 2 x kind + place; kind 0 is context 0's and 1 the board's. -/
  keys : KMap (RecCopy (BitVec 64 × BitVec 256)) := []
  /-- R394, R463; the copies of the repair record. -/
  repairCopies : KMap (RecCopy (List (Nat × Nat))) := []
  /-- R394; by record (0 boot, 1 context 0's key, 2 the board's, 3 repair): the copy in use and its sequence number. -/
  used : KMap (Nat × Nat) := []
  /-- R349, R393; the staging area, as the last FIRMWARE_UPDATE filled it. -/
  staging : List Byte := []
deriving DecidableEq, Repr

/-- The Velvet domain (R23, R361, R406): kept while input power is present. -/
structure Velvet where
  /-- R361, R388; SUSTAINED_W. -/
  sustained : Nat := 3800
  /-- R350, R401, R402; the counters have been restored from the boot record since power-on. -/
  restored : Bool := false
  /-- R361, R382; THERM_TRIP_N is asserted. -/
  thermTrip : Bool := false
  /-- R477; level acted on of PERST_N. -/
  perstN : Bool := false
  /-- R477; of COOL_OK. -/
  coolOk : Bool := false
  /-- R477; of PWR_BRAKE_N. -/
  brakeN : Bool := false
  /-- R475; levels before the safe state, by signal. -/
  raw : KMap Bool := []
  /-- R475; chattering inputs, by signal. -/
  chatter : BitVec 3 := 0
  /-- R475; by signal: hub counts of the filtered transitions in the window, newest first. -/
  transitions : KMap (List Nat) := []
  /-- R350. -/
  ctx0Counter : BitVec 64 := 0
  /-- R401. -/
  imageCount : BitVec 32 := 0
  /-- R415. -/
  boardCounter : BitVec 64 := 0
  /-- R406. -/
  epoch : BitVec 32 := 0
  /-- R406. -/
  holder : Nat := 0
  /-- R406; hub count of the last accepted renewal. -/
  renewed : Nat := 0
  /-- R472; brown-out flag. -/
  brownOut : Bool := false
  /-- R23, R471; input power is present. -/
  powered : Bool := false
  /-- R471; input power is valid. -/
  valid : Bool := false
  /-- R485; VDD_HUB starts that failed. -/
  hubFails : Nat := 0
  /-- R382; hub count since which PERST_N has been asserted. -/
  perstSince : Option Nat := none
  /-- R385; hub count at which COOL_OK rose. -/
  coolOkSince : Option Nat := none
  /-- R471; hub count since which the input may have held its valid level: of the start of the Velvet domain, or of a brown-out. -/
  inputSince : Nat := 0
  /-- R474; hub count of the last filtered change of SLOT_ID. -/
  strapAt : Option Nat := none
  /-- R482; bits [3:0] of the hub's revision, once step 4 has read its word. -/
  hubRev : Option (BitVec 4) := none
deriving DecidableEq, Repr

/-- Boot, wardens and trust (13). -/
structure Boot where
  /-- R403. -/
  stage : Nat := 0
  /-- R403. -/
  error : Nat := 0
  /-- R403. -/
  fwSlot : Nat := 0
  /-- R403. -/
  cfgCopy : Nat := 0
  /-- R399. -/
  diverge : Bool := false
  /-- R403. -/
  abandoned : Bool := false
  /-- R403; DIES_ADMITTED. -/
  admitted : BitVec 12 := 0
  /-- R403; BOOT_COUNT. -/
  count : BitVec 32 := 0
  /-- R402; hub count at which the watchdog's 5 s began; none: suspended. -/
  watchdog : Option Nat := none
  /-- R404; HUB_CAPS. -/
  caps : BitVec 32 := 0
  /-- R404; the hub's own capability word. -/
  hubWord : BitVec 32 := 0
  /-- R404; HUB_DIE_CAPS_d: the word that each die last reported. -/
  dieCaps : KMap (BitVec 32) := []
  /-- R409; A_STATE and B_STATE. -/
  wardens : KMap (BitVec 3) := []
  /-- R406; epoch each warden holds. -/
  held : KMap (BitVec 32) := []
  /-- R407; by warden: hub count at which it fenced itself. -/
  fencedAt : KMap Nat := []
  /-- R418; boot holds before step 4 for COOL_OK. -/
  hold : Bool := false
  /-- R397; the configuration that booted. -/
  config : ConfigImage := {}
  /-- R413; SEC_MEAS by n. -/
  meas : KMap (BitVec 256) := []
  /-- R413; nonce. -/
  nonce : BitVec 256 := 0
  /-- R413; DONE. -/
  attDone : Bool := false
  /-- R413; an attestation runs, with the nonce it took. -/
  attBusy : Option (BitVec 256) := none
  /-- R413; SEC_ATTEST_BUF from its first byte; the rest reads 0. -/
  attBuf : List Byte := []
  /-- R417; SEC_DEBUG_STATE SCOPE. -/
  debugScope : BitVec 2 := 0
  /-- R417; SEC_DEBUG_STATE DIES. -/
  debugDies : BitVec 12 := 0
  /-- R416; SEC_DEBUG_NONCE; the draws so far name it (log 7). -/
  debugNonce : BitVec 256 := 0
  /-- R347, R411; board key. -/
  boardKey : Option (BitVec 256) := none
  /-- R352; AUTH_FAIL results in a row for the board controller. -/
  boardFails : Nat := 0
  /-- R352; hub count at which the board's lockout began. -/
  boardLocked : Option Nat := none
  /-- R453; hub count from which a restarted command processor runs. -/
  cpUpAt : Nat := 0
  /-- R453; hub counts of the restarts in the last second, newest first. -/
  cpRestarts : List Nat := []
  /-- R416; cores halted by debug. -/
  halted : List Nat := []
  /-- R416; host cores halted by debug. -/
  haltedHosts : List Nat := []
  /-- R400; images being written, with their TYPE, by the queue of their command. -/
  updates : KMap (Nat × FlashImage) := []
deriving DecidableEq, Repr

/-- An open handling window (R450). -/
structure Handling where
  /-- R450; UNIT. -/
  unit : BitVec 32 := 0
  /-- R442; SOURCE of its record, which tells the banks of different tiles apart. -/
  source : Nat := 12
  /-- R444; TYPE of its record. -/
  typ : Nat := 0
  /-- R451; the row of its record, of a DRAM bank: bank x 2^20 + row. -/
  row : Option Nat := none
  /-- R450; hub count at which it opened. -/
  opened : Nat := 0
  /-- R452; ring of the record (die, or 12) and its SEQ. -/
  ring : Nat := 12
  /-- R452. -/
  seq : BitVec 64 := 0
  /-- R452; escalations so far. -/
  escalations : Nat := 0
deriving DecidableEq, Repr

/-- The hub's own registers and the fence logic (14, 15). -/
structure Hub where
  /-- R25, R440; HUB_TIMESTAMP. -/
  time : BitVec 64 := 0
  /-- R438; HUB_SAT. -/
  sat : BitVec 64 := 0
  /-- R437. -/
  crc : CrcRegs := {}
  /-- R445. -/
  errs : ErrRing := {}
  /-- R235; HUB_XLAT_INV_VA. -/
  invVa : BitVec 64 := 0
  /-- R235; HUB_XLAT_INV_CTL as last written. -/
  invCtl : BitVec 64 := 0
  /-- R235; invalidations queued or running, oldest first. -/
  invs : List (BitVec 64 × BitVec 64) := []
  /-- R235. -/
  doneSeq : BitVec 16 := 0
  /-- R235. -/
  refused : Bool := false
  /-- R450; open windows. -/
  windows : List Handling := []
  /-- R451; units whose fence action a nested error calls for, with SOURCE, oldest first; log 25. -/
  actions : List (Nat × Nat) := []
  /-- R451; rows of the second records of DRAM banks whose fence action is still to be taken: SOURCE, UNIT, bank x 2^20 + row. -/
  nestedRows : List (Nat × Nat × Nat) := []
  /-- R449; by SOURCE x 2^32 + UNIT: hub count of its last MEM_CORRECTED record for the first error of a second. -/
  ceLogged : KMap Nat := []
  /-- R444, R449; by SOURCE x 2^32 + UNIT: hub counts of its corrected errors in the last second. -/
  ceTimes : KMap (List Nat) := []
  /-- R261; caches whose PURGE_DONE is awaited, with the fenced tile. -/
  purges : List (Nat × Nat) := []
  /-- R477; SLOT_ID latched. -/
  slotId : BitVec 6 := 0
  /-- R477; the straps now. -/
  strap : BitVec 6 := 0
  /-- R477; HUB_SIDEBAND SEQ. -/
  sideSeq : BitVec 16 := 0
  /-- R431. -/
  sideAcked : BitVec 16 := 0
  /-- R277; POD. -/
  pod : BitVec 10 := 0
  /-- R277; MODULE. -/
  module : BitVec 7 := 0
  /-- R277; the system address is set. -/
  addressed : Bool := false
  /-- R479; the address that SETDASA assigned on the management pair; no row of the table assigns one (log 103). -/
  i3cDynamic : Option (BitVec 7) := none
  /-- R480; the reply to the last request, none while it runs. -/
  reply : Option (List Byte) := none
  /-- R480; hub count of a PACKAGE_RESET request that has replied and not yet taken effect; log 39. -/
  resetAt : Option Nat := none
  /-- R482; what JTAG last returned. -/
  jtag : Option (BitVec 64) := none
  /-- R469, R448; ALERT_N is asserted by these causes: bit 0 COOL_STOP, 1 power event, 2 CRC, 3 error ring, 4 brown-out, 5 hub rail. -/
  alert : BitVec 6 := 0
  /-- R401, R420; result of the last register access: 0 done, 1 decode error, 2 rejected. -/
  lastAccess : Nat := 0
  /-- R326; value that the last host or host-core read returned. -/
  lastRead : BitVec 128 := 0
  /-- R30, R57; status of the last host-core access: 0 ok, 1 access fault, 2 misaligned, 3 poison. -/
  hostStatus : Nat := 0
deriving DecidableEq, Repr

/-! ## The whole -/

/-- Why the machine stops (see NOTES.md, Stops). -/
inductive Fault where
  /-- No command of the table raises it: every behaviour of the spec has a next state. Kept so that the type names a reason.
  Safe: the machine would stop where the hardware goes on. -/
  | none
deriving DecidableEq, Repr

/-- Why a command has no meaning here. -/
inductive Refusal where
  /-- A command the model does not reach yet; raised by Dispatch.lean only. Safe. -/
  | notModelled (mnemonic : String)
deriving DecidableEq, Repr

/-- The module. -/
structure State where
  /-- The commands waiting, first in, first out. MODEL, log 1. -/
  pending : List Instr := []
  /-- R24, R25; counts of the 100 MHz reference since power-on, which every timer of the model reads. MODEL, log 1. -/
  ticks : Nat := 0
  /-- R360, R384; floor-network cycles since power-on, in quarters of a cycle. MODEL, log 1. -/
  floor4 : Nat := 0
  /-- Free values drawn so far. MODEL, log 7. -/
  draws : Nat := 0
  /-- R480; what the last private read of the management bus returned. MODEL, log 1. -/
  i3cOut : List Byte := []
  /-- R75; by global core index. -/
  cores : KMap Core := []
  /-- R45; by team number. -/
  teams : KMap Team := []
  /-- R45; next team number. MODEL, log 4. -/
  nextTeam : Nat := 0
  /-- R104; crossbar requests by number. -/
  xbar : KMap XbarReq := []
  /-- R104; next crossbar request number. MODEL, log 4. -/
  nextXbar : Nat := 0
  /-- R488, R194, R175; bit errors in coded memories. No command makes one: they come from outside (log 73). -/
  upsets : List Upset := []
  /-- R237; by cache number. -/
  caches : KMap Cache := []
  /-- R19; by tile. -/
  tiles : KMap Tile := []
  /-- R19; by die. -/
  dies : KMap Die := []
  /-- R187; messages sent and not yet received, oldest first. -/
  floor : List Flight := []
  /-- R188, R190; requests whose answer is awaited: (message, hub count at arrival), oldest first. -/
  outstanding : List (Flight × Nat) := []
  /-- R29, R186, R240; DRAM, scratch ways and the management reserve, canonical, unlisted bytes read 0 (log 3). -/
  mem : List Host.Cell := []
  /-- R194, R212; poisoned sectors by sector key. -/
  poison : List Nat := []
  /-- R212; by sector key: what the error-correcting code reports when the sector is read. No command makes an error: it comes from
  outside (log 73). -/
  dramErrs : KMap Ecc := []
  /-- R263; by link. -/
  links : KMap Link := []
  /-- R286; SLOW of the latest frame received from a module: by POD and MODULE as link addresses hold them. -/
  peerSlow : KMap Nat := []
  /-- R279, R281; frames for the module itself, still to be handled: (tile, link it came on before that link's state was
  discarded, frame), oldest first; log 29. -/
  localFrames : List (Nat × Option Nat × Frame) := []
  /-- R297; oldest first. -/
  colls : List Coll := []
  /-- R332; by context. -/
  contexts : KMap Context := []
  /-- R64; by queue. -/
  queues : KMap Queue := []
  /-- R18; by first die. -/
  partitions : KMap Partition := []
  /-- R355; by pool. -/
  pools : KMap KvPool := []
  /-- R339; sliced commands started so far. MODEL, log 4. -/
  nextOrder : Nat := 0
  /-- R352; packets read so far. MODEL, log 4. -/
  nextRead : Nat := 0
  /-- R305. -/
  host : HostFn := {}
  /-- 12. -/
  power : Power := {}
  /-- R361. -/
  velvet : Velvet := {}
  /-- R393. -/
  flash : Flash := {}
  /-- R402. -/
  boot : Boot := {}
  /-- R439. -/
  hub : Hub := {}
deriving DecidableEq, Repr

/-- R410, R412: the shipped configuration with the identity public key of its serial (log 31). -/
def shippedImage : ConfigImage := { shippedConfig with identityKey := Config.mldsaPublic (identitySeedOf shippedConfig.serial) }

/-- R393, R395, R434: module flash as shipped: firmware in slot 0, the shipped configuration in copy A, and the first copy of each record
(log 31). -/
def Flash.shipped : Flash :=
  { fw := [(0, {})], slots := [(0, .active)], cfg := [(0, { config := shippedImage })]
    boots := [(0, bootCopy 0 { slots := [(0, .active)] })], keys := [(0, keyCopy 0 (0, 0)), (2, keyCopy 0 (0, 0))]
    repairCopies := [(0, repairCopy 0 [])] }

/-- The module before input power comes (R389, R393): every field at its reset value, and module flash as shipped. -/
def State.reset : State := { flash := Flash.shipped }

end Sys2Proof.Machine
end

