-- ==== Sys2Proof/Machine/Desc.lean ====
section
/-! DEFINITION. Descriptors of matrix and tile instructions: their fields (Tables 6.2, 6.6 and 6.8), the tiles they name
(R165), the checks with their reasons (R166 to R168, R176, R178, R179, R489), and the timing of R170 to R172. -/

namespace Sys2Proof.Machine

/-- A tile in local memory: base, stride, lines and bytes of a line. -/
structure Span where
  base : Nat
  stride : Nat
  lines : Nat
  len : Nat
deriving DecidableEq, Repr

/-- R167: one past the last byte of the extent. -/
def Span.stop (t : Span) : Nat := t.base + (t.lines - 1) * t.stride + t.len

/-- R167: two extents overlap. -/
def Span.meets (a b : Span) : Bool := decide (a.base < b.stop) && decide (b.base < a.stop)

/-- R166: base and stride are multiples of n, and a stride of several lines is at least the line length. -/
def Span.aligned (t : Span) (n : Nat) : Bool :=
  decide (t.base % n = 0) && decide (t.stride % n = 0) && (decide (t.lines ≤ 1) || decide (t.len ≤ t.stride))

/-- Whether a byte lies on a line of the tile. -/
def Span.holds (t : Span) (x : Nat) : Bool :=
  decide (t.base ≤ x) && decide (x < t.stop) &&
  (if t.stride = 0 then decide (x < t.base + t.len) else decide ((x - t.base) % t.stride < t.len))

/-- Whether n bytes from x touch a line of the tile. -/
def Span.touches (t : Span) (x n : Nat) : Bool := (List.range n).any fun i => t.holds (x + i)

/-- Two tiles share a byte of their lines. -/
def Span.shares (a b : Span) : Bool :=
  a.meets b && (List.range a.lines).any fun i => (List.range b.lines).any fun j =>
    decide (a.base + i * a.stride < b.base + j * b.stride + b.len) && decide (b.base + j * b.stride < a.base + i * a.stride + a.len)

/-- A matrix descriptor (Table 6.2). -/
structure MatDesc where
  kind : Nat
  at_ : Nat
  bt : Nat
  acc : Nat
  mode : Nat
  m : Nat
  n : Nat
  k : Nat
  aStride : Nat
  bStride : Nat
  aBase : Nat
  bBase : Nat
  cBase : Nat
  cLo : Nat
  dBase : Nat
  dLo : Nat
  cStride : Nat
  dStride : Nat
  saStride : Nat
  sbStride : Nat
  saBase : Nat
  sbBase : Nat
  digest : Nat
  rsv : Nat
deriving DecidableEq, Repr

def matDesc (v : BitVec 512) : MatDesc :=
  let g := byteFld v
  { kind := g 0 2, at_ := g 2 1, bt := g 3 1, acc := g 4 1, mode := g 5 1, m := g 6 1 + 1, n := g 7 1 + 1, k := g 8 4
    aStride := g 0xC 2, bStride := g 0xE 2, aBase := g 0x10 4, bBase := g 0x14 4, cBase := g 0x18 4, cLo := g 0x1C 4
    dBase := g 0x20 4, dLo := g 0x24 4, cStride := g 0x28 2, dStride := g 0x2A 2, saStride := g 0x2C 2, sbStride := g 0x2E 2
    saBase := g 0x30 4, sbBase := g 0x34 4, digest := g 0x38 4, rsv := g 0x3C 4 }

/-- MODE bits (Table 6.3). -/
def MatDesc.aTrans (d : MatDesc) : Bool := fldN d.mode 0 1 = 1
def MatDesc.bTrans (d : MatDesc) : Bool := fldN d.mode 1 1 = 1
def MatDesc.pair (d : MatDesc) : Bool := fldN d.mode 2 1 = 1
def MatDesc.ovf (d : MatDesc) : Bool := fldN d.mode 3 1 = 1
def MatDesc.cZero (d : MatDesc) : Bool := fldN d.mode 4 1 = 1
def MatDesc.cHasLo (d : MatDesc) : Bool := fldN d.mode 5 1 = 1
def MatDesc.hasDigest (d : MatDesc) : Bool := fldN d.mode 6 1 = 1
/-- Accumulator element bytes. -/
def MatDesc.ab (d : MatDesc) : Nat := if d.acc = 0 then 8 else 4

/-- A side descriptor (Table 6.6). -/
structure SideDesc where
  kind : Nat
  ut : Nat
  vt : Nat
  mode : Nat
  r : Nat
  rsv : Nat
  scale : Nat
  uStride : Nat
  vStride : Nat
  uBase : Nat
  vBase : Nat
  tBase : Nat
  tStride : Nat
  rest : Nat
deriving DecidableEq, Repr

def sideDesc (v : BitVec 512) : SideDesc :=
  let g := byteFld v
  { kind := g 0 2, ut := g 2 1, vt := g 3 1, mode := g 4 1, r := g 5 1 + 1, rsv := g 6 2, scale := g 8 4, uStride := g 0xC 2
    vStride := g 0xE 2, uBase := g 0x10 4, vBase := g 0x14 4, tBase := g 0x18 4, tStride := g 0x1C 2, rest := g 0x1E 34 }

def SideDesc.uTrans (d : SideDesc) : Bool := fldN d.mode 0 1 = 1
def SideDesc.vTrans (d : SideDesc) : Bool := fldN d.mode 1 1 = 1
def SideDesc.tOut (d : SideDesc) : Bool := fldN d.mode 2 1 = 1

/-! ## Tiles of a matrix instruction (Tables 6.4 and 6.7) -/

/-- An operand with rows outer and the reduction index k, or its transpose. -/
def operandSpan (base stride code outer k : Nat) (trans : Bool) : Span :=
  if trans then { base := base, stride := stride, lines := k, len := lineBytes code outer }
  else { base := base, stride := stride, lines := outer, len := lineBytes code k }

def MatDesc.spanA (d : MatDesc) : Span := operandSpan d.aBase d.aStride d.at_ d.m d.k d.aTrans
def MatDesc.spanB (d : MatDesc) : Span := operandSpan d.bBase d.bStride d.bt d.n d.k d.bTrans
def MatDesc.spanC (d : MatDesc) : Span := { base := d.cBase, stride := d.cStride, lines := d.m, len := d.n * d.ab }
def MatDesc.spanCLo (d : MatDesc) : Span := { d.spanC with base := d.cLo }
def MatDesc.spanD (d : MatDesc) : Span := { base := d.dBase, stride := d.dStride, lines := d.m, len := d.n * d.ab }
def MatDesc.spanDLo (d : MatDesc) : Span := { d.spanD with base := d.dLo }
def MatDesc.spanSA (d : MatDesc) : Span := { base := d.saBase, stride := d.saStride, lines := d.m, len := (d.k + 31) / 32 }
def MatDesc.spanSB (d : MatDesc) : Span := { base := d.sbBase, stride := d.sbStride, lines := d.n, len := (d.k + 31) / 32 }
def MatDesc.spanDigest (d : MatDesc) : Span := { base := d.digest, stride := 0, lines := 1, len := 4 }

def SideDesc.spanU (x : SideDesc) (k : Nat) : Span := operandSpan x.uBase x.uStride x.ut x.r k x.uTrans
def SideDesc.spanV (x : SideDesc) (n : Nat) : Span := operandSpan x.vBase x.vStride x.vt n x.r x.vTrans
def SideDesc.spanT (x : SideDesc) (m : Nat) : Span := { base := x.tBase, stride := x.tStride, lines := m, len := lineBytes x.vt x.r }

/-- The element tiles of a main descriptor: read, and written. -/
def MatDesc.reads (d : MatDesc) : List Span :=
  [d.spanA, d.spanB] ++ (if d.cZero then [] else [d.spanC] ++ (if d.pair && d.cHasLo then [d.spanCLo] else []))
def MatDesc.scales (d : MatDesc) : List Span :=
  (if codeScaled d.at_ then [d.spanSA] else []) ++ (if codeScaled d.bt then [d.spanSB] else [])
def MatDesc.writes (d : MatDesc) : List Span := [d.spanD] ++ (if d.pair then [d.spanDLo] else [])
def MatDesc.digests (d : MatDesc) : List Span := if d.hasDigest then [d.spanDigest] else []

/-- Every byte that an instruction reads and writes (R167). -/
def allReads (d : MatDesc) (x : Option SideDesc) : List Span :=
  d.reads ++ d.scales ++ (match x with | some x => [x.spanU d.k, x.spanV d.n] | none => [])
def allWrites (d : MatDesc) (x : Option SideDesc) : List Span :=
  d.writes ++ d.digests ++ (match x with | some x => if x.tOut then [x.spanT d.m] else [] | none => [])

/-- Two of the written tiles overlap. -/
def anyMeet : List Span → Bool
  | [] => false
  | t :: l => l.any t.meets || anyMeet l

/-- R167: the written tiles overlap, or one of them overlaps a read tile; only D may be C, and D_LO may be C_LO, with the same base and
stride. -/
def matOverlap (d : MatDesc) (x : Option SideDesc) : Bool :=
  let c := if d.cZero then [] else [d.spanC]
  let cLo := if !d.cZero && d.pair && d.cHasLo then [d.spanCLo] else []
  let side := match x with
    | some x => [x.spanU d.k, x.spanV d.n]
    | none => []
  let t := match x with
    | some x => if x.tOut then [x.spanT d.m] else []
    | none => []
  let dLo := if d.pair then [d.spanDLo] else []
  let rest := d.digests ++ t
  let meet := fun (ws rs : List Span) => ws.any fun w => rs.any w.meets
  let other := fun (ws rs : List Span) => ws.any fun w => rs.any fun r => w.meets r && !(w.base = r.base && w.stride = r.stride)
  anyMeet (d.spanD :: dLo ++ rest) || meet (d.spanD :: dLo ++ rest) ([d.spanA, d.spanB] ++ d.scales ++ side) ||
  meet (dLo ++ rest) c || meet (d.spanD :: rest) cLo || other [d.spanD] c || other dLo cLo

/-! ## Checks (R166 to R168): of a main descriptor first DESC_ADDR and then the reasons of Table 6.5 in their order; then those of the side
descriptor (DESIGN CHOICE, log 28) -/

/-- A descriptor's offset is aligned and inside the allocation (0x08). -/
def descAddrOk (off localBytes : Nat) : Bool := decide (off % 64 = 0) && decide (off + 64 ≤ localBytes)

/-- R164: fields that are not used are zero, reserved bits too (0x01). R164 names C_LO_BASE unused only without C_HAS_LO: with it and without
PAIR any value is accepted (DESIGN CHOICE, log 92). -/
def MatDesc.fieldOk (d : MatDesc) : Bool :=
  decide (d.kind = 1) && decide (d.mode < 128) && decide (d.rsv = 0) &&
  (!d.cZero || (decide (d.cBase = 0) && decide (d.cLo = 0) && decide (d.cStride = 0))) &&
  (d.cHasLo || decide (d.cLo = 0)) && (d.pair || decide (d.dLo = 0)) &&
  (codeScaled d.at_ || (decide (d.saBase = 0) && decide (d.saStride = 0))) &&
  (codeScaled d.bt || (decide (d.sbBase = 0) && decide (d.sbStride = 0))) && (d.hasDigest || decide (d.digest = 0))

/-- R150, R166: the operand row, ACC_TYPE, and PAIR with INT32 (0x02). -/
def MatDesc.formatOk (d : MatDesc) : Bool :=
  match dotRow d.at_ d.bt with
  | none => false
  | some r => decide (d.acc = r.acc) && !(d.pair && r.isInt)

/-- R164, R166: extents and accumulator capacity (0x03). -/
def MatDesc.shapeOk (d : MatDesc) : Bool :=
  decide (d.m ≤ 128) && decide (d.n ≤ 128) && decide (1 ≤ d.k) && decide (d.k ≤ 65536) &&
  (!(codeScaled d.at_ || codeScaled d.bt) || decide (d.k % 32 = 0)) &&
  decide ((d.m + 15) / 16 * ((d.n + 15) / 16) * 256 * d.ab * (if d.pair then 2 else 1) ≤ 32768)

/-- R166: alignment and strides (0x04). -/
def MatDesc.alignOk (d : MatDesc) : Bool :=
  (d.reads ++ d.writes).all (·.aligned 64) && d.scales.all (·.aligned 16) && decide (d.digest % 4 = 0)

/-- R168: the reason for which a matrix descriptor fails. -/
def MatDesc.reason (d : MatDesc) (localBytes : Nat) : Option Nat :=
  if !d.fieldOk then some 1 else if !d.formatOk then some 2 else if !d.shapeOk then some 3 else if !d.alignOk then some 4
  else if (allReads d none ++ allWrites d none).any fun t => decide (localBytes < t.stop) then some 5
  else if matOverlap d none then some 6 else none

/-- R176, R178: whether a side descriptor is valid with its matrix descriptor (0x07). -/
def SideDesc.ok (x : SideDesc) (d : MatDesc) (localBytes : Nat) : Bool :=
  let ts := [x.spanU d.k, x.spanV d.n] ++ (if x.tOut then [x.spanT d.m] else [])
  let wide := fun c => c = 2 || c = 3
  let narrow := fun c => c = 4 || c = 5
  decide (x.kind = 2) && decide (x.mode < 8) && decide (x.rsv = 0) && decide (x.rest = 0) &&
  (x.tOut || (decide (x.tBase = 0) && decide (x.tStride = 0))) && decide (d.acc = 1) && (wide x.vt || narrow x.vt) &&
  ([d.at_, d.bt, x.ut].all wide || [d.at_, d.bt, x.ut].all narrow) &&
  ts.all (·.aligned 64) && ts.all (fun t => decide (t.stop ≤ localBytes)) && !matOverlap d (some x)

/-- R168: the failing descriptor's offset and the reason, for a matrix instruction. -/
def matCheck (d : MatDesc) (off localBytes : Nat) (side : Option (Nat × SideDesc)) : Option (Nat × Nat) :=
  if !descAddrOk off localBytes then some (off, 8) else
  match d.reason localBytes with
  | some r => some (off, r)
  | none =>
    match side with
    | none => none
    | some (so, x) => if !descAddrOk so localBytes then some (so, 8) else if 64 < x.r then some (so, 3)
      else if x.ok d localBytes then none else some (so, 7)

/-! ## Tile descriptors (R179, R489) -/

/-- A tile descriptor (Table 6.8). -/
structure TileDesc where
  kind : Nat
  op : Nat
  mode : Nat
  dt : Nat
  st : Nat
  rows : Nat
  cols : Nat
  dStride : Nat
  s1Stride : Nat
  s2Stride : Nat
  s3Stride : Nat
  sclStride : Nat
  dBase : Nat
  s1Base : Nat
  s2Base : Nat
  s3Base : Nat
  sclBase : Nat
  imm : Nat
  rest : Nat
deriving DecidableEq, Repr

def tileDesc (v : BitVec 512) : TileDesc :=
  let g := byteFld v
  { kind := g 0 2, op := g 2 1, mode := g 3 1, dt := g 4 1, st := g 5 1, rows := g 6 2, cols := g 8 2, dStride := g 0xA 2
    s1Stride := g 0xC 2, s2Stride := g 0xE 2, s3Stride := g 0x10 2, sclStride := g 0x12 2, dBase := g 0x14 4, s1Base := g 0x18 4
    s2Base := g 0x1C 4, s3Base := g 0x20 4, sclBase := g 0x24 4, imm := g 0x28 8, rest := g 0x30 16 }

def TileDesc.rnd (d : TileDesc) : Nat := fldN d.mode 0 3
def TileDesc.ovf (d : TileDesc) : Bool := fldN d.mode 3 1 = 1
def TileDesc.s2Imm (d : TileDesc) : Bool := fldN d.mode 4 1 = 1
def TileDesc.axis (d : TileDesc) : Bool := fldN d.mode 5 1 = 1
def TileDesc.isCvt (d : TileDesc) : Bool := d.op = 0
def TileDesc.isArith (d : TileDesc) : Bool := 1 ≤ d.op && d.op ≤ 8
def TileDesc.isRed (d : TileDesc) : Bool := 0x10 ≤ d.op && d.op ≤ 0x12
def TileDesc.usesS1 (d : TileDesc) : Bool := d.op ≠ 0x21
def TileDesc.usesS2 (d : TileDesc) : Bool := d.isArith && !d.s2Imm
def TileDesc.usesS3 (d : TileDesc) : Bool := d.op = 4
def TileDesc.usesImm (d : TileDesc) : Bool := (d.isArith && d.s2Imm) || d.op = 0x21
def TileDesc.usesScale (d : TileDesc) : Bool := d.isCvt && (codeScaled d.dt || codeScaled d.st)

def codeInt (c : Nat) : Bool := c = 0xC || c = 0xD || c = 0xE
def codePlain (c : Nat) : Bool := c ≤ 5 || c = 0xB

def TileDesc.line (d : TileDesc) (base stride code : Nat) : Span := { base := base, stride := stride, lines := d.rows, len := lineBytes code d.cols }
def TileDesc.spanS1 (d : TileDesc) : Span := d.line d.s1Base d.s1Stride d.st
def TileDesc.spanS2 (d : TileDesc) : Span := d.line d.s2Base d.s2Stride d.dt
def TileDesc.spanS3 (d : TileDesc) : Span := d.line d.s3Base d.s3Stride d.dt
def TileDesc.spanScl (d : TileDesc) : Span := { base := d.sclBase, stride := d.sclStride, lines := d.rows, len := d.cols / 32 }
/-- The shape of D: lines and elements of a line. -/
def TileDesc.shape (d : TileDesc) : Nat × Nat :=
  if d.isRed then (if d.axis then (1, d.cols) else (d.rows, 1)) else if d.op = 0x20 then (d.cols, d.rows) else (d.rows, d.cols)
def TileDesc.spanD (d : TileDesc) : Span :=
  { base := d.dBase, stride := d.dStride, lines := d.shape.1, len := lineBytes d.dt d.shape.2 }

def TileDesc.sources (d : TileDesc) : List Span :=
  (if d.usesS1 then [d.spanS1] else []) ++ (if d.usesS2 then [d.spanS2] else []) ++ (if d.usesS3 then [d.spanS3] else [])

/-- RND and OVF have a use: a conversion, an arithmetic operation that rounds, or a sum. -/
def TileDesc.usesRound (d : TileDesc) : Bool := d.isCvt || (d.isArith && decide (d.op ≤ 4)) || d.op = 0x10

/-- R179, R140: the fields that an operation does not use are zero (0x01); RND and OVF may stand in any reduction, where they do not affect
RMIN and RMAX (R159). An OP that Table 6.9 does not list and an RND that R122 does not assign have this reason too (DESIGN CHOICE,
log 91). -/
def TileDesc.fieldOk (d : TileDesc) : Bool :=
  decide (d.kind = 3) && decide (d.mode < 64) && decide (d.rnd ≤ 4) && decide (d.rest = 0) &&
  (d.isCvt || d.isArith || d.isRed || d.op = 0x20 || d.op = 0x21) &&
  (d.isArith || !d.s2Imm) && (d.isRed || !d.axis) && (d.usesImm || decide (d.imm = 0)) &&
  (d.usesS1 || (decide (d.s1Base = 0) && decide (d.s1Stride = 0))) && (d.usesS2 || (decide (d.s2Base = 0) && decide (d.s2Stride = 0))) &&
  (d.usesS3 || (decide (d.s3Base = 0) && decide (d.s3Stride = 0))) && (d.usesScale || (decide (d.sclBase = 0) && decide (d.sclStride = 0))) &&
  !(d.isCvt && codeInt d.dt && d.ovf) && (d.usesRound || d.isRed || (decide (d.rnd = 0) && !d.ovf))

/-- R149, R179, R489: the types of an operation (0x02); only a conversion has two. -/
def TileDesc.formatOk (d : TileDesc) : Bool :=
  if !d.isCvt && d.st ≠ d.dt then false
  else if d.isArith || d.isRed then decide (d.dt ≤ 3)
  else if d.isCvt then
    if codeInt d.dt || codeInt d.st then (codeInt d.dt && codePlain d.st) || (codePlain d.dt && codeInt d.st)
    else if codeScaled d.dt then 1 ≤ d.st && d.st ≤ 3
    else codePlain d.dt && (codePlain d.st || codeScaled d.st)
  else if d.op = 0x20 then decide (d.dt < 15) && decide (8 ≤ codeBits d.dt) && decide (d.dt ≠ 8) && decide (d.dt ≠ 9)
  else decide (d.dt < 15)

def TileDesc.shapeOk (d : TileDesc) : Bool :=
  decide (1 ≤ d.rows) && decide (d.rows ≤ 4096) && decide (1 ≤ d.cols) && decide (d.cols ≤ 4096) && (!d.usesScale || decide (d.cols % 32 = 0))

def TileDesc.scaleSpans (d : TileDesc) : List Span := if d.usesScale then [d.spanScl] else []

/-- R179: D overlaps a source otherwise than by being it, in an arithmetic operation; a scale tile counts with the side it
belongs to. -/
def TileDesc.overlap (d : TileDesc) : Bool :=
  let out := d.isCvt && codeScaled d.dt
  let reads := d.sources ++ (if out then [] else d.scaleSpans)
  let writes := [d.spanD] ++ (if out then d.scaleSpans else [])
  anyMeet writes || writes.any fun w => reads.any fun r => w.meets r && !(d.isArith && w.base = r.base && w.stride = r.stride)

/-- R168: the reason for which a tile descriptor fails. -/
def TileDesc.reason (d : TileDesc) (off localBytes : Nat) : Option Nat :=
  if !descAddrOk off localBytes then some 8 else if !d.fieldOk then some 1 else if !d.formatOk then some 2
  else if !d.shapeOk then some 3
  else
    let ts := d.sources ++ [d.spanD] ++ d.scaleSpans
    if !ts.all (·.aligned 16) then some 4 else if ts.any fun t => decide (localBytes < t.stop) then some 5
    else if d.overlap then some 6 else none

/-! ## Timing (R170 to R172) -/

/-- R171: port cycles of segments at core offsets. -/
def portCycles (segs : List Nat) : Nat :=
  (segs.foldl (fun (st : Nat × Nat × Option Nat) x =>
    let (cyc, used, sec) := st
    let col := x / 64 % 8
    if sec ≠ some (x / 2 ^ 15) || fldN used col 1 = 1 then (cyc + 1, 2 ^ col, some (x / 2 ^ 15)) else (cyc, used ||| 2 ^ col, sec)) (0, 0, none)).1

/-- The segments that hold bytes lo to hi - 1 of the lines i0 to i1 - 1 of a tile, each once, in line order; base is the block's first
byte. -/
def segsOf (base : Nat) (t : Span) (i0 i1 lo hi : Nat) : List Nat :=
  if hi ≤ lo then [] else
  ((List.range (i1 - i0)).flatMap fun i =>
    let a := base + t.base + (i0 + i) * t.stride
    (List.range ((a + hi - 1) / 64 - (a + lo) / 64 + 1)).map fun s => ((a + lo) / 64 + s) * 64).eraseDups

/-- Every segment of a tile. -/
def Span.segs (t : Span) (base : Nat) : List Nat := segsOf base t 0 t.lines 0 t.len

/-- R171: the segments of elements k0 to k1 - 1 of the reduction in an operand. -/
def slabSegs (base : Nat) (t : Span) (trans : Bool) (bits k0 k1 : Nat) : List Nat :=
  if trans then segsOf base t k0 k1 0 t.len else segsOf base t 0 t.lines (k0 * bits / 8) ((k1 * bits + 7) / 8)

/-- The operands fetched slab by slab, in the order of R171: (span, transposed, bits per element of the reduction, elements per
unit): scales have one byte per 32 elements. -/
structure Fetched where
  span : Span
  trans : Bool
  bits : Nat
  per : Nat
deriving DecidableEq, Repr

/-- Segments of one operand in a slab, less those of the slab before. -/
def Fetched.slab (x : Fetched) (base ks k i : Nat) : List Nat :=
  let seg := fun j =>
    let k1 := if (j + 1) * ks < k then (j + 1) * ks else k
    slabSegs base x.span x.trans x.bits (j * ks / x.per) ((k1 + x.per - 1) / x.per)
  let cur := seg i
  if i = 0 then cur else (let prev := seg (i - 1); cur.filter fun s => !prev.contains s)

/-- R172: t_occ, t_done and t_dw of a checked instruction of a block whose range begins at base. -/
def matTiming (d : MatDesc) (x : Option SideDesc) (base : Nat) : Nat × Nat × Nat :=
  let row := (dotRow d.at_ d.bt).getD .half
  let p := if d.pair then 2 else 1
  let b := (d.m + 15) / 16 * ((d.n + 15) / 16)
  let up := fun a c => (a + c - 1) / c
  let tc := b * up d.k row.kstep * row.cstep * p
  let tc := match x with
    | none => tc
    | some x =>
      let s1 := (d.m + 15) / 16 * ((x.r + 15) / 16) * up d.k row.kstep * row.cstep
      (if tc < s1 then s1 else tc) + 8 + b * up x.r ((dotRow x.vt x.vt).getD .half).kstep * p
  let ops : List Fetched :=
    (if codeScaled d.at_ then [⟨d.spanSA, false, 8, 32⟩] else []) ++ [⟨d.spanA, d.aTrans, codeBits d.at_, 1⟩] ++
    (if codeScaled d.bt then [⟨d.spanSB, false, 8, 32⟩] else []) ++ [⟨d.spanB, d.bTrans, codeBits d.bt, 1⟩] ++
    (match x with | some x => [⟨x.spanU d.k, x.uTrans, codeBits x.ut, 1⟩] | none => [])
  let tf := (List.range (up d.k row.slab)).foldl (fun t i => t + portCycles (ops.flatMap fun o => o.slab base row.slab d.k i)) 0 +
    (match x with | some x => portCycles ((x.spanV d.n).segs base) | none => 0)
  let tcr := portCycles (if d.cZero then [] else d.spanC.segs base ++ (if d.pair && d.cHasLo then d.spanCLo.segs base else []))
  let tdw := portCycles (d.writes.flatMap (·.segs base) ++ (match x with | some x => if x.tOut then (x.spanT d.m).segs base else [] | none => []))
  let occ := if tc < tf + tcr + tdw then tf + tcr + tdw else tc
  let done := (if tc < tf + tcr then tf + tcr else tc) + 20 + tdw
  (occ, done, tdw)

/-- R173: the instruction after is chained to the one before. -/
def chained (prev : MatDesc) (px : Option SideDesc) (d : MatDesc) (x : Option SideDesc) : Bool :=
  !d.cZero && decide (d.cBase = prev.dBase) && decide (d.cStride = prev.dStride) && decide (d.m = prev.m) && decide (d.n = prev.n) &&
  decide (d.acc = prev.acc) && decide (d.pair = prev.pair) && (!d.pair || (d.cHasLo && decide (d.cLo = prev.dLo))) &&
  (([d.spanA, d.spanB] ++ d.scales ++ (match x with | some x => [x.spanU d.k, x.spanV d.n] | none => [])).all fun r =>
    (allWrites prev px).all fun w => !w.shares r)

/-- R173: the instruction reads a byte that an earlier one writes. -/
def dependsOn (prev : MatDesc) (px : Option SideDesc) (d : MatDesc) (x : Option SideDesc) : Bool :=
  (allWrites prev px).any fun w => (allReads d x).any fun r => w.shares r

/-- Whether an operand tile of a checked instruction has one of n bytes at x. -/
def EngineOp.readsAt (o : EngineOp) (x n : Nat) : Bool :=
  (allReads (matDesc o.copy) (o.side.map fun _ => sideDesc o.sideCopy)).any fun t => t.touches x n

/-- R61: a thread's write of n bytes at x of block b taints the matrix instructions of the block whose operands it touches. Writes
before the descriptor is read are kept until it names the operands. -/
def EngineOp.taint (o : EngineOp) (b x n : Nat) : EngineOp :=
  if o.block ≠ b then o
  else if o.stage = .queued then { o with early := o.early ++ [(x, n)] }
  else if o.readsAt x n then { o with tainted := true } else o

def Core.taint (k : Core) (b x n : Nat) : Core := { k with matrixQ := k.matrixQ.map fun o => o.taint b x n }

end Sys2Proof.Machine
end

