-- ==== Sys2Proof/Machine/Ops.lean ====
section
/-! DEFINITION. The shared operations of the block: updates of one unit, timers, memory in its canonical form, error
records and rings (R441 to R449), outbox messages (R319), and block faults (R96, R97). A block of this kind has no
exception entry: what another design would trap on raises a block fault or a record here. -/

namespace Sys2Proof.Machine

/-- The outcome of a command. -/
abbrev Res := Host.Outcome State Fault Refusal

/-! ## One unit of the state -/

def State.core (s : State) (c : Nat) : Core := kget {} s.cores c
def State.tile (s : State) (t : Nat) : Tile := kget {} s.tiles t
def State.die (s : State) (d : Nat) : Die := kget {} s.dies d
def State.link (s : State) (l : Nat) : Link := kget {} s.links l
def State.queue (s : State) (q : Nat) : Queue := kget {} s.queues q
def State.context (s : State) (c : Nat) : Context := kget {} s.contexts c
def State.partition (s : State) (f : Nat) : Partition := kget {} s.partitions f
def State.cache (s : State) (n : Nat) : Cache := kget {} s.caches n
def State.pwr (s : State) (d : Nat) : PwrDie := kget {} s.power.dies d
def State.ring (s : State) (r : Nat) : HostRing := kget {} s.host.rings r

def State.modCore (s : State) (c : Nat) (f : Core → Core) : State := { s with cores := kmod {} s.cores c f }
def State.modTile (s : State) (t : Nat) (f : Tile → Tile) : State := { s with tiles := kmod {} s.tiles t f }
def State.modDie (s : State) (d : Nat) (f : Die → Die) : State := { s with dies := kmod {} s.dies d f }
def State.modLink (s : State) (l : Nat) (f : Link → Link) : State := { s with links := kmod {} s.links l f }
def State.modQueue (s : State) (q : Nat) (f : Queue → Queue) : State := { s with queues := kmod {} s.queues q f }
def State.modContext (s : State) (c : Nat) (f : Context → Context) : State :=
  { s with contexts := kmod {} s.contexts c f }
def State.modPartition (s : State) (p : Nat) (f : Partition → Partition) : State :=
  { s with partitions := kmod {} s.partitions p f }
def State.modCache (s : State) (n : Nat) (f : Cache → Cache) : State := { s with caches := kmod {} s.caches n f }
def State.modPower (s : State) (f : Power → Power) : State := { s with power := f s.power }
def State.modPwr (s : State) (d : Nat) (f : PwrDie → PwrDie) : State :=
  s.modPower fun p => { p with dies := kmod {} p.dies d f }
def State.modHost (s : State) (f : HostFn → HostFn) : State := { s with host := f s.host }
def State.modRing (s : State) (r : Nat) (f : HostRing → HostRing) : State :=
  s.modHost fun h => { h with rings := kmod {} h.rings r f }
def State.modHub (s : State) (f : Hub → Hub) : State := { s with hub := f s.hub }
def State.modBoot (s : State) (f : Boot → Boot) : State := { s with boot := f s.boot }
def State.modVelvet (s : State) (f : Velvet → Velvet) : State := { s with velvet := f s.velvet }
def State.modFlash (s : State) (f : Flash → Flash) : State := { s with flash := f s.flash }

def Core.modBlock (c : Core) (b : Nat) (f : Block → Block) : Core := { c with blocks := kmod {} c.blocks b f }
def Block.group (b : Block) (g : Nat) : Group := kget {} b.groups g
def Block.modGroup (b : Block) (g : Nat) (f : Group → Group) : Block := { b with groups := kmod {} b.groups g f }
def State.block (s : State) (c b : Nat) : Block := kget {} (s.core c).blocks b
def State.modBlock (s : State) (c b : Nat) (f : Block → Block) : State := s.modCore c fun k => k.modBlock b f
def State.modGroup (s : State) (c b g : Nat) (f : Group → Group) : State := s.modBlock c b fun k => k.modGroup g f
def Tile.slice (t : Tile) (j : Nat) : Slice := kget {} t.slices j
def Tile.modSlice (t : Tile) (j : Nat) (f : Slice → Slice) : Tile := { t with slices := kmod {} t.slices j f }
def State.modSlice (s : State) (t j : Nat) (f : Slice → Slice) : State := s.modTile t fun k => k.modSlice j f

/-- The run of queue q, if it has one. -/
def State.run (s : State) (q : Nat) : Option Run := (s.queue q).run

def State.modRun (s : State) (q : Nat) (f : Run → Run) : State :=
  s.modQueue q fun k => { k with run := k.run.map f }

/-! ## Clocks (R22 to R26, log 1) -/

/-- Arithmetic cycles of die d since power-on. -/
def State.arithCycles (s : State) (d : Nat) : Nat := (s.die d).arith64 / 64

/-- CYCLES of core c (Table 4.16). -/
def State.coreCycles (s : State) (c : Nat) : Nat := s.arithCycles (c / 128) - (s.core c).resetAt

/-- Floor-network cycles since power-on. -/
def State.floorCycles (s : State) : Nat := s.floor4 / 4

/-- Whether n counts of 10 ns have passed since the count t. -/
def State.elapsed (s : State) (t n : Nat) : Bool := t + n ≤ s.ticks

/-- R454: whether a limit of 1 ms on the floor network's clock has passed since its cycle c. -/
def State.floorLate (s : State) (c : Nat) : Bool := c + 2000000 ≤ s.floorCycles

/-- Counts of 10 ns in a microsecond, a millisecond and a second. -/
def usTicks : Nat := 100
def msTicks : Nat := 100000
def secTicks : Nat := 100000000

/-- The next free value (log 7), and the state with the counter advanced. -/
def State.draw (s : State) : BitVec 64 × State :=
  (Config.freeWord s.draws, { s with draws := s.draws + 1 })

/-- n free words drawn in order, as one number, low word first. -/
def State.drawMany (s : State) : Nat → Nat × State
  | 0 => (0, s)
  | n + 1 =>
    let (v, s) := s.draw
    let (w, s) := s.drawMany n
    (v.toNat + 2 ^ 64 * w, s)

/-! ## Bytes in canonical form -/

/-- The byte at address a; an unlisted byte reads 0 (log 3). -/
def cellGet : List Host.Cell → Nat → Byte
  | [], _ => 0
  | (b, v) :: m, a => if a = b then v else cellGet m a

/-- The cells with address a at v; a byte of 0 is not listed. -/
def cellSet : List Host.Cell → Nat → Byte → List Host.Cell
  | [], a, v => if v = 0 then [] else [(a, v)]
  | (b, w) :: m, a, v =>
    if a < b then (if v = 0 then (b, w) :: m else (a, v) :: (b, w) :: m)
    else if a = b then (if v = 0 then m else (a, v) :: m)
    else (b, w) :: cellSet m a v

/-- Addresses strictly rise above b and no byte is 0. -/
def cellsAbove : Nat → List Host.Cell → Bool
  | _, [] => true
  | b, (a, v) :: m => decide (b < a) && decide (v ≠ 0) && cellsAbove a m

/-- The canonical form of a memory: addresses strictly rising, no listed byte equal to what an unlisted one reads as. -/
def Memory.wf : List Host.Cell → Bool
  | [] => true
  | (a, v) :: m => decide (v ≠ 0) && cellsAbove a m

/-- n bytes from address a, little-endian. -/
def cellsRead (m : List Host.Cell) (a : Nat) : Nat → Nat
  | 0 => 0
  | n + 1 => (cellGet m a).toNat + 256 * cellsRead m (a + 1) n

/-- The cells with the bytes bs from address a. -/
def cellsWrite (m : List Host.Cell) (a : Nat) : List Byte → List Host.Cell
  | [] => m
  | b :: bs => cellsWrite (cellSet m a b) (a + 1) bs

/-- A sorted list of numbers with k in it, and without it. -/
def numIns : List Nat → Nat → List Nat
  | [], k => [k]
  | j :: l, k => if k < j then k :: j :: l else if k = j then j :: l else j :: numIns l k
def numDel (l : List Nat) (k : Nat) : List Nat := l.filter (· ≠ k)

/-! ## Outbox messages (R315 to R319) -/

/-- The bytes of a ring record (Table 10.7); SEQ and EPOCH are filled in when it is posted (R316). -/
def hostRecord (typ source queue status : Nat) (index : Nat) (time : Nat) : BitVec 256 :=
  BitVec.ofNat 256 (pack [(10, 1, typ), (11, 1, source), (12, 1, queue), (14, 2, status), (16, 8, index), (24, 8, time)])

/-- R319: a message generated for the outbox. One that finds the backlog of 64 full is lost, and is counted. -/
def State.outbox (s : State) (typ source status detail : Nat) : State :=
  let r := s.ring 32
  if !r.enable then s
  else if 64 ≤ r.backlog.length then s.modRing 32 fun r => { r with drops := r.drops + 1, lost := r.lost + 1 }
  else s.modRing 32 fun r => { r with backlog := r.backlog ++ [hostRecord typ source 0 status detail s.hub.time.toNat] }

/-- R319: once the backlog has room, one RING_LOSS message gives the number lost. -/
def State.ringLoss (s : State) : State :=
  let r := s.ring 32
  if r.lost = 0 || 64 ≤ r.backlog.length then s
  else s.modRing 32 fun r => { r with backlog := r.backlog ++ [hostRecord 0x13 12 0 0 r.lost s.hub.time.toNat], lost := 0 }

/-- R317: an EVENT message. -/
def State.event (s : State) (source code detail : Nat) : State := s.outbox 0x12 source code detail

/-! ## Error records (R441 to R449) -/

/-- A record without its SEQ and TIME (Table 15.1). -/
structure Rec where
  typ : Nat
  cls : Nat
  source : Nat
  flags : Nat := 0
  unit : Nat
  payload : Nat
  /-- The row that it is about, of a DRAM bank: no part of its bytes. -/
  row : Option Nat := none
deriving DecidableEq, Repr

/-- Records that a ring holds: 64 for a die, 256 for the package (R441). -/
def ringSize (r : Nat) : Nat := if r = 12 then 256 else 64

def State.errs (s : State) (r : Nat) : ErrRing := if r = 12 then s.hub.errs else (s.tile r).errs
def State.modErrs (s : State) (r : Nat) (f : ErrRing → ErrRing) : State :=
  if r = 12 then s.modHub fun h => { h with errs := f h.errs } else s.modTile r fun t => { t with errs := f t.errs }

/-- R445: READ, where a value above WRITE is treated as WRITE. -/
def ErrRing.readIdx (e : ErrRing) : Nat := if e.write.toNat < e.read.toNat then e.write.toNat else e.read.toNat

/-- R446: whether ring r accepts a record of class cls. -/
def State.ringAccepts (s : State) (r cls : Nat) : Bool :=
  let e := s.errs r
  let used := e.write.toNat - e.readIdx
  if cls ≤ 2 then used + 4 < ringSize r else used < ringSize r

/-- The 64 bytes of a record (Table 15.1). -/
def Rec.bytes (c : Rec) (seq time : Nat) (spilled : Bool) : BitVec 512 :=
  BitVec.ofNat 512 (pack [(0, 8, seq), (8, 8, time), (16, 1, c.typ), (17, 1, c.cls), (18, 1, c.source),
    (19, 1, c.flags ||| (if spilled then 4 else 0)), (20, 4, c.unit)] + (c.payload % 2 ^ 320) * 256 ^ 24)

/-- R442, R445: the record put into ring r. -/
def State.putRecord (s : State) (r : Nat) (c : Rec) (time : Nat) (spilled : Bool) : State :=
  s.modErrs r fun e => { e with
    recs := kset e.recs (e.write.toNat % ringSize r) (c.bytes e.write.toNat time spilled)
    write := e.write + 1
    seq := if 2 ≤ c.cls then e.seq + 1 else e.seq
    grave := (decide (e.seq ≠ e.acked) && e.grave) || decide (3 ≤ c.cls)
    lastType := BitVec.ofNat 8 c.typ }

/-- R448: ALERT_N follows the error rings: bit 3 of its causes. -/
def State.alertErrors (s : State) : State :=
  let p := fun r => let e := s.errs r; decide (e.seq ≠ e.acked) && e.grave
  let a := (List.range 13).any p
  s.modHub fun h => { h with alert := setBit h.alert 3 a }

/-- R446, R448: a record is written to ring r, or spills to the package ring, or is lost. The result tells the ring and the
index that it took. -/
def State.recordAt (s : State) (r : Nat) (c : Rec) : State × Option (Nat × Nat) :=
  let time := if r = 12 then s.hub.time.toNat else (s.die r).time.toNat
  let place : Option Nat :=
    if s.ringAccepts r c.cls then some r
    else if r ≠ 12 && s.ringAccepts 12 c.cls then some 12 else none
  match place with
  | some p =>
    let seq := (s.errs p).write.toNat
    let s := s.putRecord p c time (decide (p ≠ r))
    let s := if 2 ≤ c.cls && c.typ ≠ 0x01 then s.outbox 0x10 c.source (c.cls * 0x100 + c.typ) seq else s
    (s.alertErrors, some (p, seq))
  | none =>
    let f := fun (e : ErrRing) => { e with overflow := e.overflow + 1, seq := e.seq + 1, grave := decide (e.seq ≠ e.acked) && e.grave }
    (s.modErrs r f, none)

/-- Whether a window is the one of a unit: a bank's INDEX does not name its tile, so its records' SOURCE does (Table 15.6). -/
def Handling.is (w : Handling) (unit source : Nat) : Bool :=
  decide (w.unit.toNat = unit) && (decide (unit / 2 ^ 24 ≠ 4) || decide (w.source = source))

/-- R450: the open window of a unit. -/
def State.windowOf (s : State) (unit source : Nat) : Option Handling := s.hub.windows.find? fun w => w.is unit source

/-- R441, R450, R451: a record is written; one of CLASS 2 or 3 opens a window for its unit, or is NESTED in the one that is
open and calls for the unit's fence action. BLOCK_FAULT opens none. -/
def State.record (s : State) (r : Nat) (c : Rec) : State :=
  if (c.cls = 2 || c.cls = 3) && c.typ ≠ 0x01 then
    match s.windowOf c.unit c.source with
    | some _ =>
      let (s, _) := s.recordAt r { c with flags := c.flags ||| 1 }
      s.modHub fun h => { h with actions := h.actions ++ [(c.source, c.unit)]
                                 nestedRows := h.nestedRows ++ c.row.toList.map fun r => (c.source, c.unit, r) }
    | none =>
      let (s, p) := s.recordAt r c
      let (ring, seq) := p.getD (r, 0)
      let w : Handling := { unit := BitVec.ofNat 32 c.unit, source := c.source, typ := c.typ, row := c.row, opened := s.ticks, ring := ring, seq := BitVec.ofNat 64 seq }
      s.modHub fun h => { h with windows := h.windows ++ [w] }
  else (s.recordAt r c).1

/-- R444, R449: a corrected error of a unit: CE of its window counts it, and the first of each second is recorded, and one with which the
unit's count crosses a threshold (again); the record tells how many errors of the unit the last second has seen. -/
def State.corrected (s : State) (r unit addr structure_ source : Nat) (again : Bool := false) : State :=
  let s := s.modErrs r fun e => { e with ce := e.ce + 1 }
  let key := source * 2 ^ 32 + unit
  let fresh := match kfind s.hub.ceLogged key with
    | none => true
    | some t => s.elapsed t secTicks
  let l := ((kget [] s.hub.ceTimes key).filter fun t => !s.elapsed t secTicks) ++ [s.ticks]
  let n := l.length
  let s := s.modHub fun h => { h with ceTimes := kset h.ceTimes key l, ceLogged := if fresh then kset h.ceLogged key s.ticks else h.ceLogged }
  if fresh || again then
    s.record r { typ := 0x04, cls := 1, source := source, unit := unit, payload := pack [(0, 8, addr), (8, 1, structure_), (16, 8, n)] }
  else s

/-- R444, R450: an error that could not be corrected, of die or tile d. -/
def State.uncorrected (s : State) (d unit addr structure_ : Nat) : State :=
  s.record d { typ := 0x05, cls := 2, source := d, unit := unit, payload := pack [(0, 8, addr), (8, 1, structure_)] }

/-- The bit errors that a predicate selects go with the contents that held them, which are lost or written over. -/
def State.dropUpsets (s : State) (p : Upset → Bool) : State := { s with upsets := s.upsets.filter fun u => !p u }

/-- R394: the boot record in use, as a copy of its own, and put in use again. -/
def Flash.bootRecord (f : Flash) : BootRecord :=
  { minSvnFw := f.minSvnFw, minSvnCfg := f.minSvnCfg, imageCount := f.imageCount, slots := f.slots, bootCount := f.bootCount
    ctx0Counter := f.ctx0Counter, boardCounter := f.boardCounter }
def Flash.useBoot (f : Flash) (r : BootRecord) : Flash :=
  { f with minSvnFw := r.minSvnFw, minSvnCfg := r.minSvnCfg, imageCount := r.imageCount, slots := r.slots, bootCount := r.bootCount
           ctx0Counter := r.ctx0Counter, boardCounter := r.boardCounter }

/-- Table 13.2: where an area of module flash stands, and its size. -/
def FlashArea.offset : FlashArea → Nat
  | .bootRecord => 0
  | .keyRecords => 0x0020000
  | .reservedA => 0x0030000
  | .eventLog => 0x0070000
  | .configA => 0x0100000
  | .configB => 0x0500000
  | .repairRecord => 0x0900000
  | .reservedB => 0x0A00000
  | .slot0 => 0x1000000
  | .slot1 => 0x3000000
  | .staging => 0x5000000
  | .reservedC => 0x7000000
def FlashArea.size : FlashArea → Nat
  | .bootRecord => 2 * 2 ^ 16
  | .keyRecords => 2 ^ 16
  | .reservedA => 4 * 2 ^ 16
  | .eventLog => 9 * 2 ^ 16
  | .configA => 2 ^ 22
  | .configB => 2 ^ 22
  | .repairRecord => 2 * 2 ^ 19
  | .reservedB => 6 * 2 ^ 20
  | .slot0 => 2 ^ 25
  | .slot1 => 2 ^ 25
  | .staging => 2 ^ 25
  | .reservedC => 2 ^ 24

/-- R393: an entry of the event log, which holds as many of 64 bytes as its area has room for; a further one takes the place of the oldest
(log 104). -/
def Flash.logged (f : Flash) (e : Nat × Nat) : Flash := { f with log := (f.log ++ [e]).drop (f.log.length + 1 - FlashArea.eventLog.size / 64) }

/-- R394: the copy of a record in use and its sequence number, by the record's number. -/
def Flash.usedCopy (f : Flash) (k : Nat) : Nat × Nat := kget (0, 0) f.used k

/-- R394: the boot record is written to its other copy, with the next sequence number. -/
def Flash.writeBoot (f : Flash) (g : Flash → Flash) : Flash :=
  let (k, q) := f.usedCopy 0
  let n := g f
  { n with boots := kset f.boots (1 - k) (bootCopy (q + 1) n.bootRecord), used := kset f.used 0 (1 - k, q + 1) }

/-- R411: the key record of a kind. -/
def Flash.keyRecord (f : Flash) (kind : Nat) : BitVec 64 × BitVec 256 := if kind = 0 then f.ctx0Key else f.boardKey
def Flash.useKey (f : Flash) (kind : Nat) (r : BitVec 64 × BitVec 256) : Flash :=
  if kind = 0 then { f with ctx0Key := r } else { f with boardKey := r }

/-- R411: a key record is written to the other slot of its kind. -/
def Flash.writeKey (f : Flash) (kind : Nat) (r : BitVec 64 × BitVec 256) : Flash :=
  let (k, q) := f.usedCopy (1 + kind)
  { f.useKey kind r with keys := kset f.keys (2 * kind + (1 - k)) (keyCopy (q + 1) r), used := kset f.used (1 + kind) (1 - k, q + 1) }

/-- R463: the repair record is written to its older copy. -/
def Flash.writeRepairs (f : Flash) (l : List (Nat × Nat)) : Flash :=
  let (k, q) := f.usedCopy 3
  { f with repairs := l, repairCopies := kset f.repairCopies (1 - k) (repairCopy (q + 1) l), used := kset f.used 3 (1 - k, q + 1) }

/-- R394: whether a copy's tag is right. -/
def RecCopy.good {α : Type} (kind : String) (bytes : α → List Byte) (c : RecCopy α) : Bool := decide (c.tag = recTag kind c.seq (bytes c.body))

/-- The copy of the highest rank. -/
def latest {α : Type} (rank : α → Nat) : KMap α → Option (Nat × α)
  | [] => none
  | x :: l =>
    match latest rank l with
    | none => some x
    | some y => if rank y.2 < rank x.2 then some x else some y

/-- R394: the boot record, of its valid copy with the higher sequence number. -/
def Flash.readBoot (f : Flash) : Option Flash :=
  (latest (·.seq) (f.boots.filter fun x => x.2.good "FT2-BR" BootRecord.bytes)).map fun x =>
    { f.useBoot x.2.body with used := kset f.used 0 (x.1, x.2.seq) }

/-- R394, R411: the key record of a kind, of its valid copy of the highest generation. -/
def Flash.readKey (f : Flash) (kind : Nat) : Option Flash :=
  (latest (fun c => c.body.1.toNat) (f.keys.filter fun x => decide (x.1 / 2 = kind) && x.2.good "FT2-KEY" keyBytes)).map fun x =>
    { f.useKey kind x.2.body with used := kset f.used (1 + kind) (x.1 % 2, x.2.seq) }

/-- R394, R463: the repair record, of its valid copy with the higher sequence number. -/
def Flash.readRepairs (f : Flash) : Option Flash :=
  (latest (·.seq) (f.repairCopies.filter fun x => x.2.good "FT2-REP" repairBytes)).map fun x =>
    { f with repairs := x.2.body, used := kset f.used 3 (x.1, x.2.seq) }

/-- R394: a copy whose bits in flash have changed, so that its tag is bad: of a record (0 boot, 1 context 0's key, 2 the board's, 3 repair), and
which of the two (log 86). -/
def Flash.spoil (f : Flash) (kind copy : Nat) : Flash :=
  match kind with
  | 0 => { f with boots := f.boots.map fun (k, c) => (k, if k = copy then { c with tag := ~~~c.tag } else c) }
  | 3 => { f with repairCopies := f.repairCopies.map fun (k, c) => (k, if k = copy then { c with tag := ~~~c.tag } else c) }
  | n => { f with keys := f.keys.map fun (k, c) => (k, if k = 2 * (n - 1) + copy then { c with tag := ~~~c.tag } else c) }

/-- R463: an entry added to the repair record of module flash; a full record is reported once, with a UNIT that
is a free value (log 26). -/
def State.repairEntry (s : State) (kind value : Nat) : State :=
  if s.flash.repairs.length < 16384 then s.modFlash fun f => f.writeRepairs (f.repairs ++ [(kind, value)])
  else if s.flash.repairFull then s
  else
    let (u, s) := (s.modFlash fun f => { f with repairFull := true }).draw
    s.record 12 { typ := 0x29, cls := 1, source := 12, unit := fld u 0 32, payload := pack [(0, 4, 16384)] }

/-- UNIT: [23:0] INDEX and [31:24] KIND (Table 15.6). -/
def unitOf (kind index : Nat) : Nat := kind * 2 ^ 24 + index % 2 ^ 24

/-- R96: the core position of core c, as a UNIT. -/
def State.coreUnit (s : State) (c : Nat) : Nat := unitOf 0x01 ((c / 128) * 136 + (s.core c).position.toNat)

/-- R462 steps 1 and 2 for reasons 0 and 2: the core takes no further block. -/
def State.beginRetire (s : State) (c reason : Nat) : State :=
  s.modCore c fun k => if k.retiring.isSome || !k.present then k else { k with retiring := some reason }

/-- Counts of 10 ns in 24 hours. -/
def dayTicks : Nat := 86400 * secTicks

/-- R461, R488: a corrected error of a core's register file (0) or local store (1): the 64th within 24 h retires the position. -/
def State.coreCorrected (s : State) (c addr structure_ : Nat) : State :=
  let l := ((s.core c).corrected.filter fun t => s.ticks < t + dayTicks) ++ [s.ticks]
  let s := s.corrected (c / 128) (s.coreUnit c) addr structure_ (c / 128) (again := decide (l.length = 64))
  let s := s.modCore c fun k => { k with corrected := l }
  if 64 ≤ l.length then s.beginRetire c 2 else s

/-! ## Commands that blocks belong to (R341) -/

/-- R344: the RESULT of a LAYER that a launch made fail: its kernel and its step-table entry. -/
def Launch.result (l : Launch) : BitVec 64 := BitVec.ofNat 64 (l.kidx + l.entry.getD 0xFFFF * 65536)

/-- R331: a running command takes a status and ends; a LAYER's RESULT names the launch, where one is given. -/
def Run.fail (r : Run) (status detail : Nat) (launch : Option Nat) : Run :=
  let r := { r with status := BitVec.ofNat 16 status, detail := BitVec.ofNat 32 detail, stage := .ending }
  match launch.bind fun n => r.launches[n]? with
  | some l => if fld r.packet 0 16 = 3 then { r with result := l.result } else r
  | none => r

/-- R341: the command of queue q and index i takes a status by a launch, unless it has one; it then ends. -/
def State.failRun (s : State) (q : Nat) (i : BitVec 64) (launch status detail : Nat) : State :=
  s.modRun q fun r =>
    if r.index = i && decide (r.stage = .running) && decide (r.status = 0) then r.fail status detail (some launch) else r

/-- R340 step 1: every running block of the command is terminated, with no record of its own. -/
def Block.stop (b : Block) (now : Nat) : Block :=
  match b.phase with
  | .running => { b with phase := .terminating 0 now }
  | .terminating _ _ => b

/-- R340 step 1 for the command of queue q and index i. -/
def State.stopBlocks (s : State) (q : Nat) (i : BitVec 64) : State :=
  { s with cores := s.cores.map fun (c, k) => (c, { k with blocks := k.blocks.map fun (b, x) =>
      (b, if x.queue = q && x.index = i then x.stop (s.coreCycles c) else x) }) }

/-! ## Block faults (R96, R97, R341, R453) -/

/-- A position of program execution, as a record names it (R96). -/
structure Where where
  core : Nat
  block : Nat
  group : Nat
  lanes : BitVec 32
  pc : BitVec 64
deriving DecidableEq, Repr

/-- The BLOCK_FAULT payload (Table 15.4). -/
def blockFaultPayload (w : Where) (b : Block) (cause : Nat) (detail : Nat) : Nat :=
  let g := b.group w.group
  pack [(0, 8, w.pc.toNat), (8, 8, detail), (16, 4, w.lanes.toNat), (20, 1, cause), (21, 1, g.quarter),
    (22, 1, g.slot), (23, 1, b.stepPhase.toNat), (24, 2, w.core), (26, 1, b.context), (27, 1, b.queue),
    (32, 8, b.index.toNat)]

/-- R97: a running block begins to terminate with a cause and the payload of the record to be written. -/
def Block.fail (b : Block) (cause : Nat) (payload : Nat) (now : Nat) : Block :=
  match b.phase with
  | .running => { b with phase := .terminating (BitVec.ofNat 8 cause) now, fault := some (BitVec.ofNat 320 payload) }
  | .terminating _ _ => b

/-- R97: the other members of a team are terminated with TEAM_MEMBER_FAULT. No instruction of theirs raised it, so the
program counter, the mask and the group of their records are free values (log 21). -/
def State.failMember (s : State) (team c b : Nat) (first cause : Nat) : State :=
  let x := s.block c b
  match kfind (s.core c).blocks b, x.phase with
  | none, _ => s
  | some _, .terminating _ _ => s
  | some _, .running =>
    if x.team ≠ team then s else
    let (v, s) := s.draw
    let (u, s) := s.draw
    let w : Where := { core := c, block := b, group := fld u 32 5, lanes := u.truncate 32, pc := v &&& ~~~(7 : BitVec 64) }
    let p := blockFaultPayload w x 0x0B (first + cause * 256)
    s.modBlock c b fun x => x.fail 0x0B p (s.coreCycles c)

/-- R97, R341: what the fault of a block brings about: the other blocks of its team end with TEAM_MEMBER_FAULT, the command's other
blocks without a record, and the command with FAULT. -/
def State.spreadFault (s : State) (core : Nat) (b : Block) (cause : Nat) : State :=
  let team := kget {} s.teams b.team
  let s := if 1 < b.teamBlocks then
      let s := { s with teams := kmod {} s.teams b.team fun t =>
        { t with unrecorded := if t.unrecorded.isNone then some b.member else t.unrecorded } }
      team.members.foldl (fun s (c, p) => if c = core then s else s.failMember b.team c p b.member cause) s
    else s
  let s := s.failRun b.queue b.index b.launch 0x0001 (cause + core * 256)
  s.stopBlocks b.queue b.index

/-- R96, R97, R341: a block fault. The faulting block stops issuing, and its fault spreads to its team and its command. -/
def State.blockFault (s : State) (w : Where) (cause detail : Nat) : State :=
  match kfind (s.core w.core).blocks w.block with
  | none => s
  | some b =>
    if decide (b.phase ≠ .running) then s else
    let p := blockFaultPayload w b cause detail
    (s.modBlock w.core w.block fun x => x.fail cause p (s.coreCycles w.core)).spreadFault w.core b cause

/-! ## Regions that sleep (R26 to R28) -/

/-- R27, R28: a request that needs a core of a gated region wakes the whole region, and the die's PLLs with it. -/
def State.wakeRegion (s : State) (d r : Nat) : State :=
  match kget .on (s.die d).regions r with
  | .on => s
  | .waking _ _ => s
  | .clockGated => s.modDie d fun k => { k with regions := kset k.regions r (.waking s.ticks false) }
  | .powerGated => s.modDie d fun k => { k with pll := true, regions := kset k.regions r (.waking s.ticks false) }

/-- The result of what may have to wait: where it must, the state that holds the regions it woke meanwhile (R27). -/
abbrev Attempt (α : Type) := Except State α

/-- R27: what an access that must wait leaves of its state u: the regions and dies that it woke. -/
def State.woken (s u : State) : State := { s with dies := u.dies }

/-- The state after an attempt from s. -/
def State.landed (s : State) : Attempt State → State
  | .ok t => t
  | .error u => s.woken u

/-! ## Floor messages in flight (R187, R244) -/

/-- A message put on the floor. -/
def State.sendFloor (s : State) (op : FloorOp) (m : FloorMsg) : State := { s with floor := s.floor ++ [{ op := op, msg := m }] }

/-- R191: whether two messages travel in one channel from one agent to one agent. -/
def sameWay (m x : FloorMsg) : Bool :=
  m.vc = x.vc && m.srcTile = x.srcTile && m.dstTile = x.dstTile && m.srcAgent = x.srcAgent && m.dstAgent = x.dstAgent

/-- R191: whether an earlier message of its channel and pair of agents is in flight before a message that is in flight. -/
def State.floorBehind (s : State) (op : FloorOp) (m : FloorMsg) : Bool :=
  s.floor.contains { op := op, msg := m } &&
    decide ((s.floor.find? fun f => sameWay m f.msg) ≠ some { op := op, msg := m })

/-- The message taken from the floor, where it is in flight. -/
def State.takeFloor (s : State) (op : FloorOp) (m : FloorMsg) : State := { s with floor := s.floor.erase { op := op, msg := m } }

end Sys2Proof.Machine
end

