-- ==== Sys2Proof/Machine/Operands.lean ====
section
/-! DEFINITION. Operands of the compute core's instructions: registers, pairs, quads and predicates of a thread (R75, R76,
R116), the fields of the formats (Table 4.1), the checks at decode (R114), the current subset (R85, R86, R88) and guards
(R115). An instruction command is executed by the group's current subset; a group that is not ready leaves the state as it
is (R80). -/

namespace Sys2Proof.Machine

/-! ## Threads of a group -/

def Group.thread (g : Group) (l : Nat) : Thread := kget {} g.threads l
def Group.modThread (g : Group) (l : Nat) (f : Thread → Thread) : Group := { g with threads := kmod {} g.threads l f }

/-- All lanes. -/
def lanes32 : List Nat := List.range 32

/-- The threads that have not exited. -/
def Group.live (g : Group) : List Nat := lanes32.filter fun l => !(g.thread l).exited

/-- The threads that wait for nothing. -/
def Group.free (g : Group) : List Nat := g.live.filter fun l => decide ((g.thread l).wait = .none)

/-- R85: the threads of the subset at a program counter. -/
def Group.subset (g : Group) (pc : BitVec 64) : List Nat := g.free.filter fun l => decide ((g.thread l).pc = pc)

/-- R86: whether a lane is held after YIELD. -/
def Group.isHeld (g : Group) (l : Nat) : Bool := g.held.any fun h => h.1.getLsbD l

/-- R85: the program counters of the eligible subsets; a subset with a held thread is held (log 22). -/
def Group.eligible (g : Group) : List (BitVec 64) :=
  ((g.free.map fun l => (g.thread l).pc).eraseDups).filter fun pc => (g.subset pc).all fun l => !g.isHeld l

/-- R86: held subsets whose others have all issued, or stopped being eligible, are released. -/
def Group.prune (g : Group) : Group :=
  let e := g.eligible
  { g with held := (g.held.map fun (m, p) => (m, p.filter fun pc => e.contains pc)).filter fun h => !h.2.isEmpty }

/-- The lowest program counter. -/
def lowestPc : List (BitVec 64) → Option (BitVec 64)
  | [] => none
  | p :: ps => match lowestPc ps with
    | none => some p
    | some q => some (if q.toNat < p.toNat then q else p)

/-- R88: the group's issue count when a subset last issued. -/
def Group.lastOf (g : Group) (pc : BitVec 64) : Nat :=
  (g.subset pc).foldl (fun n l => if n < (g.thread l).lastIssue then (g.thread l).lastIssue else n) 0

/-- R88: the subset longest without issue, ties to the lowest program counter. -/
def Group.oldest (g : Group) : List (BitVec 64) → Option (BitVec 64)
  | [] => none
  | p :: ps => match g.oldest ps with
    | none => some p
    | some q =>
      let a := g.lastOf p
      let b := g.lastOf q
      some (if a < b || (a = b && decide (p.toNat < q.toNat)) then p else q)

/-- R85, R88: the program counter of the current subset. -/
def Group.current (g : Group) (progress : Bool) : Option (BitVec 64) :=
  let e := g.eligible
  let starved := if progress then e.filter fun pc => decide (g.lastOf pc + 32 ≤ g.issued.toNat) else []
  match g.oldest starved with
  | some pc => some pc
  | none => lowestPc e

/-- R48, R71: progress mode. -/
def Block.progress (b : Block) : Bool := bit b.flags 0 || bit b.flags 1

/-! ## Registers and predicates -/

def Group.reg (g : Group) (l r : Nat) : BitVec 32 := kget 0 g.regs (l * 256 + r)
def Group.setReg (g : Group) (l r : Nat) (v : BitVec 32) : Group := { g with regs := kset g.regs (l * 256 + r) v }

/-- n registers from r, low half first (R116). -/
def Group.regs' (g : Group) (l r : Nat) : Nat → Nat
  | 0 => 0
  | n + 1 => (g.reg l r).toNat + 2 ^ 32 * g.regs' l (r + 1) n

def Group.pair (g : Group) (l r : Nat) : BitVec 64 := BitVec.ofNat 64 (g.regs' l r 2)

/-- n registers from r written with v, low half first. -/
def Group.setRegs (g : Group) (l r : Nat) : Nat → Nat → Group
  | 0, _ => g
  | n + 1, v => (g.setReg l r (BitVec.ofNat 32 v)).setRegs l (r + 1) n (v / 2 ^ 32)

/-- R76: p7 reads as true. -/
def Group.pred (g : Group) (l p : Nat) : Bool := p = 7 || (g.thread l).preds.getLsbD p

/-- R76: writes of p7 are ignored. -/
def Group.setPred (g : Group) (l p : Nat) (v : Bool) : Group :=
  if 7 ≤ p then g else g.modThread l fun t => { t with preds := setBit t.preds p v }

/-- R115: the guard of a thread. -/
def Group.guard (g : Group) (f : Fields) (l : Nat) : Bool := (g.pred l f.pred.toNat) != decide (f.neg = 1)

/-! ## Fields -/

/-- The instruction word of Table 4.1. -/
def wordOf (cls op : Nat) (f : Fields) : Nat :=
  cls + op * 2 ^ 4 + f.pred.toNat * 2 ^ 10 + f.neg.toNat * 2 ^ 13 + f.rsv.toNat * 2 ^ 14 + f.dst.toNat * 2 ^ 16 +
  f.src1.toNat * 2 ^ 24 + f.src2.toNat * 2 ^ 32 + f.src3.toNat * 2 ^ 40 + f.mod.toNat * 2 ^ 48

end Sys2Proof.Machine

namespace Sys2Proof

open Machine

/-- MOD bits [48 + lo + len - 1 : 48 + lo]. -/
def Fields.m (f : Fields) (lo len : Nat) : Nat := fld f.mod lo len
/-- IMM16 of format I. -/
def Fields.imm16 (f : Fields) : Nat := f.src2.toNat + f.src3.toNat * 256
/-- IMM32 of format W and TGT of format B. -/
def Fields.imm32 (f : Fields) : Nat := f.src2.toNat + f.src3.toNat * 256 + f.mod.toNat * 65536

end Sys2Proof

namespace Sys2Proof.Machine

/-- A register operand of w registers: the checks of R114. A width of 0 means that the field is not used. -/
def regOk (a : Nat) (x : BitVec 8) (w : Nat) : Bool :=
  if w = 0 then x = 0 else decide (x.toNat % w = 0) && decide (x.toNat + w ≤ a)

/-- A predicate operand (R114). -/
def predOk (x : BitVec 8) : Bool := decide (x.toNat < 8)

/-- The registers of an operand. -/
def regList (x : BitVec 8) (w : Nat) : List Nat := (List.range w).map (x.toNat + ·)

/-! ## Issue -/

/-- An instruction at issue: who executes it. -/
structure Issue where
  /-- Position, with the subset's threads as lanes. -/
  at_ : Where
  /-- Threads of the subset, in lane order. -/
  lanes : List Nat
  /-- Threads whose guard is true (R115). -/
  active : List Nat
  /-- The block and the group as they were. -/
  block : Block
  group : Group
deriving DecidableEq, Repr

/-- Whether the arithmetic clock of core c runs: its die is up, its PLLs run, its region is on, power control has not
stopped its clock (R26, R384), and debug has not halted it (Table 13.12). -/
def State.coreRuns (s : State) (c : Nat) : Bool :=
  let d := s.die (c / 128)
  d.pll && !d.pllFailed && decide (kget .on d.regions (c / 32 % 4) = .on) && decide (0 < (s.pwr (c / 128)).n) &&
  !s.boot.halted.contains c

/-- R85: the issue of the group's current subset. -/
def State.issueOf (s : State) (ga : GroupAt) (f : Fields) : Option Issue :=
  let c := ga.core.val
  match kfind (s.core c).blocks ga.block.val with
  | none => none
  | some b =>
    if !s.coreRuns c || decide (b.phase ≠ .running) then none else
    match kfind b.groups ga.group.val with
    | none => none
    | some g0 =>
      let g := g0.prune
      match g.current b.progress with
      | none => none
      | some pc =>
        let ls := g.subset pc
        some { at_ := { core := c, block := ga.block.val, group := ga.group.val, lanes := maskOf 32 ls, pc := pc }
               lanes := ls, active := ls.filter (g.guard f), block := b, group := g }

/-- R86, R88, R131: what every issue counts. -/
def Group.noteIssue (g : Group) (pc : BitVec 64) (ls : List Nat) : Group :=
  let n := g.issued + 1
  let g := { g with issued := n, held := g.held.map fun (m, p) => (m, p.filter (· ≠ pc)) }
  ls.foldl (fun g l => g.modThread l fun t => { t with lastIssue := n.toNat }) g

/-- The next instruction for the threads of a subset (R112). -/
def Group.advance (g : Group) (ls : List Nat) : Group :=
  ls.foldl (fun g l => g.modThread l fun t => { t with pc := t.pc + 8 }) g

/-- R26: an issue keeps its quarter clocked. -/
def State.touchQuarter (s : State) (c q : Nat) : State :=
  s.modCore c fun k => { k with gated := setBit k.gated q false, lastActive := kset k.lastActive q (s.coreCycles c) }

/-- R163: a group has put an instruction into an engine queue whose descriptor has not been read; the read comes before the
group's next instruction. -/
def Core.unread (k : Core) (b g : Nat) : Bool :=
  let hit := fun (o : EngineOp) => decide (o.block = b) && decide (o.group = g) && decide (o.stage = .queued)
  k.matrixQ.any hit || k.tileQ.any fun q => q.2.any hit

/-- R488: the bit errors in the registers rs of the active threads of an issue are met as they are read: a single one is corrected and
counted, and a double one leaves the word poisoned. The flag tells whether one of the latter was met. The address that such a record
names is a free value (log 73). -/
def State.readRegs (s : State) (i : Issue) (rs : List Nat) : State × Bool :=
  let base := (i.at_.block * 32 + i.at_.group) * 32
  let hit := fun (u : Upset) => decide (u.mem = .regFile) && decide (u.unit = i.at_.core) &&
    i.active.any (fun l => decide (u.word / 256 = base + l)) && rs.contains (u.word % 256)
  let us := s.upsets.filter hit
  let s := { s with upsets := s.upsets.filter fun u => !hit u }
  (us.foldl (fun s u =>
    let (v, s) := s.draw
    if u.double then s.uncorrected (i.at_.core / 128) (s.coreUnit i.at_.core) v.toNat 0 else s.coreCorrected i.at_.core v.toNat 0) s,
    us.any (·.double))

/-- R488: none of the registers rs of an issue's active threads holds a bit error. -/
def State.regsSound (s : State) (i : Issue) (rs : List Nat) : Prop :=
  ∀ u ∈ s.upsets, u.mem = .regFile → u.unit = i.at_.core →
    (∃ l ∈ i.active, u.word / 256 = (i.at_.block * 32 + i.at_.group) * 32 + l) → u.word % 256 ∉ rs

/-- R80, R114: an instruction is issued when the group is ready; it is checked at decode, whatever the guards; then it
runs. uses are the registers it reads or writes, of which it only writes the first rd; legal its checks against the allocation A. An
instruction that must wait is issued again: nothing of it happens, but what it woke stays awake (R27). A poisoned register faults the block
(R488); the detail of that fault is a free value (log 73). ISSUED counts the instruction itself (DESIGN CHOICE, log 19). -/
def State.issueM (s : State) (ga : GroupAt) (cls op : Nat) (f : Fields) (legal : Nat → Bool) (uses : List Nat)
    (run : Issue → State → Attempt State) (rd : Nat := 0) : Res :=
  match s.issueOf ga f with
  | none => .next s
  | some i =>
    if !(decide (f.rsv = 0) && legal i.block.alloc) then .next (s.blockFault i.at_ 0x08 (wordOf cls op f))
    else if uses.any i.group.pending.contains || (s.core i.at_.core).unread i.at_.block i.at_.group then .next s
    else
      match s.readRegs i (uses.drop rd) with
      | (s, true) => let (v, s) := s.draw; .next (s.blockFault i.at_ 0x0C v.toNat)
      | (s, false) =>
        let g := i.group.noteIssue i.at_.pc i.lanes
        let s' := s.touchQuarter i.at_.core g.quarter
        .next (s.landed (run { i with group := g } (s'.modGroup i.at_.core i.at_.block i.at_.group fun _ => g)))

/-- An instruction that never waits once its group is ready. -/
def State.issue (s : State) (ga : GroupAt) (cls op : Nat) (f : Fields) (legal : Nat → Bool) (uses : List Nat)
    (run : Issue → State → State) (rd : Nat := 0) : Res :=
  s.issueM ga cls op f legal uses (fun i s => .ok (run i s)) rd

/-- What one thread writes: registers and predicates. -/
structure Writes where
  regs : List (Nat × BitVec 32) := []
  preds : List (Nat × Bool) := []
deriving DecidableEq, Repr

def Group.write (g : Group) (l : Nat) (w : Writes) : Group :=
  let g := w.regs.foldl (fun g (r, v) => g.setReg l r v) g
  w.preds.foldl (fun g (p, v) => g.setPred l p v) g

/-- The registers of a value of n registers from r. -/
def regWrites (r : BitVec 8) : Nat → Nat → List (Nat × BitVec 32)
  | 0, _ => []
  | n + 1, v => (r.toNat, BitVec.ofNat 32 v) :: regWrites (r + 1) n (v / 2 ^ 32)

/-- R115, R116: each active thread writes what fn gives from its operands, and the subset goes on. -/
def perThread (fn : Group → Nat → Writes) (i : Issue) (s : State) : State :=
  let g := i.active.foldl (fun g l => g.write l (fn i.group l)) i.group
  s.modGroup i.at_.core i.at_.block i.at_.group fun _ => g.advance i.lanes

/-- An instruction whose effect is what each thread writes. -/
def State.vector (s : State) (ga : GroupAt) (cls op : Nat) (f : Fields) (legal : Nat → Bool) (uses : List Nat)
    (fn : Group → Nat → Writes) (rd : Nat := 0) : Res :=
  s.issue ga cls op f legal uses (perThread fn) rd

end Sys2Proof.Machine
end

