-- ==== Sys2Proof/Machine/Phys.lean ====
section
/-! DEFINITION. Physical addresses: the map (R29), interleave sets (R31, R213, R214), mirrored units (R222, R225), homes (R186)
and the keys under which State holds memory. -/

namespace Sys2Proof.Machine

/-- A requester of memory (R189, R196, R205, R213). -/
structure Req where
  /-- Tile on which the request enters the floor. -/
  tile : Nat
  /-- PART: first die of its partition. -/
  part : Nat
  cls : Nat
  stream : Bool := false
  ksp : Bool := false
  /-- Context of the command it works for (R205). -/
  ctx : Option Nat := none
  /-- It starts on the hub and may reach the management reserve (R193). -/
  hub : Bool := false
  /-- It writes a hotness record, and is not counted (R231). -/
  hotRec : Bool := false
deriving DecidableEq, Repr

/-- Why a memory access does not complete with data (R189); busy: its line is in a transaction, and the access waits. -/
inductive MemErr where
  | decode
  | fenced
  | timeout
  | stopped
  | busy
deriving DecidableEq, Repr

/-- STATUS of an answer (Table 7.2). -/
def MemErr.status : MemErr → Nat
  | .decode => 1 | .fenced => 2 | .timeout => 3 | .stopped => 4 | .busy => 0

/-- The first die of the partition of die t, t itself where none is set. -/
def State.partOf (s : State) (t : Nat) : Nat :=
  match s.partitions.find? fun (f, p) => decide (f ≤ t) && decide (t < f + p.dies) with
  | some (f, _) => f
  | none => t

/-- The dies of the partition that begins at die f. -/
def State.partDies (s : State) (f : Nat) : List Nat := (List.range (s.partition f).dies).map (f + ·)

/-! ## Interleave sets -/

def ISet.valid (i : ISet) : Bool := bit i.cfg 0
def ISet.capacity (i : ISet) : Bool := bit i.cfg 1
def ISet.mirror (i : ISet) : Bool := bit i.cfg 2
def ISet.hot (i : ISet) : Bool := bit i.cfg 3
def ISet.owner (i : ISet) (d : Nat) : Bool := bit i.cfg (4 + d)
def ISet.sizeGib (i : ISet) : Nat := fld i.cfg 16 11
def ISet.base (i : ISet) : Nat := fld i.cfg 30 22 * 2 ^ 30
def ISet.count (i : ISet) : Nat := fld i.tiles 0 4
def ISet.tileAt (i : ISet) (p : Nat) : Nat := fld i.tiles (4 + 4 * p) 4
def ISet.localBase (i : ISet) : Nat := fld i.local_ 0 8 * 2 ^ 30
/-- The tiles of the set, in order. -/
def ISet.tileList (i : ISet) : List Nat := (List.range i.count).map i.tileAt

def Tile.iset (t : Tile) (n : Nat) : ISet := kget {} t.isets n

/-- R214: the lowest-numbered valid set that covers an address. -/
def Tile.setFor (t : Tile) (pa : Nat) : Option Nat :=
  (List.range 32).find? fun n =>
    let i := t.iset n
    i.valid && decide (0 < i.count) && decide (i.base ≤ pa) && decide (pa < i.base + i.sizeGib * 2 ^ 30)

/-- The tile memory address of R186 for a device (0 the stack, 1 and 2 the packages) and an offset. -/
def tmaOf (dev off : Nat) : Nat := if dev = 0 then off else 2 ^ 37 + (dev - 1) * 2 ^ 36 + off

/-- The device of a tile memory address. -/
def devOf (tma : Nat) : Nat := if tma < 2 ^ 37 then 0 else 1 + (tma - 2 ^ 37) / 2 ^ 36
def offOf (tma : Nat) : Nat := if tma < 2 ^ 37 then tma else (tma - 2 ^ 37) % 2 ^ 36

/-- The tile memory address of scratch way w of slice j, offset o (R240). -/
def scratchTma (j w o : Nat) : Nat := 2 ^ 38 + j * 2 ^ 21 + w * 2 ^ 17 + o
def isScratch (tma : Nat) : Bool := decide (2 ^ 38 ≤ tma)

/-- R31, R213: unit, position and slot of an address in a set. -/
def ISet.unit (i : ISet) (pa : Nat) : Nat := (pa - i.base) / 4096

/-- R31: the device and the offset of a unit's slot at a tile whose contribution begins at b. -/
def ISet.slotPlace (i : ISet) (b u low : Nat) : Nat × Nat :=
  let slot := u / i.count
  if i.capacity then (1 + slot % 2, b + slot / 2 * 4096 + low) else (0, b + slot * 4096 + low)

/-- Table 1.1: bytes of a device: 128 GiB of a stack, 64 GiB of a package. -/
def devBytes (dev : Nat) : Nat := if dev = 0 then 2 ^ 37 else 2 ^ 36

/-- R4, R29: the DRAM that a unit's slot names at tile t, where the tile and its device have it; nothing else is populated. -/
def ISet.place (i : ISet) (t b u low : Nat) : Option Nat :=
  let (dev, off) := i.slotPlace b u low
  if 12 ≤ t || devBytes dev ≤ off then none else some (tmaOf dev off)

/-- Table 1.8: whether an address lies in the range of the set's tier. -/
def ISet.inTier (i : ISet) (pa : Nat) : Bool :=
  let b := if i.capacity then 2 ^ 41 else 0
  decide (b ≤ pa) && decide (pa < b + 1536 * 2 ^ 30)

/-- Bytes of one half of a mirrored contribution, or of the whole contribution (R222). -/
def ISet.half (i : ISet) : Nat := i.sizeGib * 2 ^ 30 / i.count

/-- Where an address leads (R29, R31, R202, R225). -/
inductive Target where
  | dram (t : Nat) (tma : Nat)
  | scratch (t j w o : Nat)
  | reserve (off : Nat)
  | reg (off : Nat)
deriving DecidableEq, Repr

def apertureBase : Nat := 0x040000000000
def reserveBase : Nat := 0x0400C0000000
def regBase : Nat := 0x0F0000000000

/-! ## Floor routes (R13, R17) -/

/-- The tiles passed from tile a to tile b, which is the last, in the direction of increasing or of decreasing index. -/
def ringPath (a b : Nat) (up : Bool) : List Nat :=
  let n := if up then (b + 12 - a) % 12 else (a + 12 - b) % 12
  (List.range n).map fun i => if up then (a + i + 1) % 12 else (a + 11 - i) % 12

/-- R13: the direction of the fixed route: inside a partition of fewer than 12 dies the path that stays inside it, otherwise the shortest
path, and where both are 6 hops that of increasing index. -/
def State.routeUp (s : State) (a b : Nat) : Bool :=
  match s.partitions.find? fun (f, p) => decide (f ≤ a) && decide (a < f + p.dies) with
  | some (f, p) => if p.dies < 12 && decide (f ≤ b) && decide (b < f + p.dies) then a ≤ b else decide ((b + 12 - a) % 12 ≤ 6)
  | none => decide ((b + 12 - a) % 12 ≤ 6)

/-- R13, R17: the route from tile a to tile b: the fixed one, or the other way around where a tile that it passes through is fenced;
none where that one passes through a fenced tile too. -/
def State.floorRoute (s : State) (a b : Nat) : Option (List Nat) :=
  let open_ := fun up => (ringPath a b up).dropLast.all fun t => !(s.tile t).fenced
  let up := s.routeUp a b
  if open_ up then some (ringPath a b up) else if open_ !up then some (ringPath a b !up) else none

/-- R13, R17: whether messages pass between two tiles, the hub being tile 12; every tile has its own link to the hub. -/
def State.connected (s : State) (a b : Nat) : Bool := decide (a = 12) || decide (b = 12) || (s.floorRoute a b).isSome

/-- R31, R222, R225: the home of an address under set n, as the requester's tile te decodes it: the primary copy, or the mirror
copy where the primary tile is fenced. A place that no device of the module has is unpopulated (R4, R30). -/
def State.setTarget (s : State) (te n pa : Nat) : Except MemErr Target :=
  let i := (s.tile te).iset n
  let u := i.unit pa
  let p := u % i.count
  let t := i.tileAt p
  let low := pa % 4096
  let at_ := fun (t b : Nat) => match i.place t b u low with
    | none => Except.error MemErr.decode
    | some tma => Except.ok (Target.dram t tma)
  if !i.inTier pa then .error .decode
  else if !(s.tile t).fenced && (s.tile t).fence.isNone then at_ t ((s.tile t).iset n).localBase
  else if i.mirror && (s.tile t).fenced then
    let m := i.tileAt ((p + 1) % i.count)
    if (s.tile m).fenced || (s.tile m).fence.isSome then .error .fenced
    else at_ m (((s.tile m).iset n).localBase + i.half)
  else .error .fenced

/-- R29, R30, R213: where an address leads for a requester. -/
def State.decodeMap (s : State) (r : Req) (pa : Nat) : Except MemErr Target :=
  if apertureBase ≤ pa && pa < reserveBase then
    let o := pa - apertureBase
    let g := o / 2 ^ 21
    let t := g / 128
    if (s.tile t).fenced || (s.tile t).fence.isSome then .error .fenced
    else .ok (.scratch t (g % 128) (o % 2 ^ 21 / 2 ^ 17) (o % 2 ^ 17))
  else if reserveBase ≤ pa && pa < reserveBase + 0x10000 then
    if r.hub then .ok (.reserve (pa - reserveBase)) else .error .decode
  else if regBase ≤ pa && pa < regBase + 0x4000000 then .ok (.reg (pa - regBase))
  else
    match (s.tile r.tile).setFor pa with
    | none => .error .decode
    | some n =>
      if !((s.tile r.tile).iset n).owner r.tile then .error .decode else s.setTarget r.tile n pa

/-- R16, R17, R29: decode of an address for a requester; a tile that fenced tiles on both ways cut off is as a fenced one. -/
def State.decodePa (s : State) (r : Req) (pa : Nat) : Except MemErr Target :=
  match s.decodeMap r pa with
  | .ok (.dram t tma) => if s.connected r.tile t then .ok (.dram t tma) else .error .fenced
  | .ok (.scratch t j w o) => if s.connected r.tile t then .ok (.scratch t j w o) else .error .fenced
  | x => x

/-- The key of a byte of a tile's memory in State.mem. -/
def memKey (t tma : Nat) : Nat := t * 2 ^ 39 + tma

/-- The key of a byte of the management reserve. -/
def reserveKey (off : Nat) : Nat := 12 * 2 ^ 39 + off

/-- R186: slice, set and tag of a tile memory address. -/
def homeSlice (tma : Nat) : Nat × Nat × Nat :=
  let l := tma / 128
  let j := fldN l 0 7 ^^^ fldN l 7 7 ^^^ fldN l 14 7 ^^^ fldN l 21 7 ^^^ fldN l 28 3
  (j, fldN l 7 10, fldN l 17 14)

/-- The set of tile t that holds a DRAM address of it: its number and the position of t. -/
def State.setOfTma (s : State) (t tma : Nat) : Option (Nat × Nat) :=
  let k := s.tile t
  (List.range 32).findSome? fun n =>
    let i := k.iset n
    if !i.valid || i.count = 0 then none else
    let dev := devOf tma
    let off := offOf tma
    let span := if i.capacity then i.half / 2 else if i.mirror then 2 * i.half else i.half
    if decide (i.capacity = decide (dev ≠ 0)) && decide (i.localBase ≤ off) && decide (off < i.localBase + span) then
      (i.tileList.findIdx? (· = t)).map fun p => (n, p)
    else none

/-- The physical address of a byte of tile t's memory: the inverse of R31 and R202. -/
def State.paOf (s : State) (t tma : Nat) : Option Nat :=
  if isScratch tma then
    let o := tma - 2 ^ 38
    some (apertureBase + (t * 128 + o / 2 ^ 21) * 2 ^ 21 + o % 2 ^ 21)
  else match s.setOfTma t tma with
    | none => none
    | some (n, p) =>
      let i := (s.tile t).iset n
      let o := offOf tma - i.localBase
      let low := o % 4096
      let second := i.mirror && decide (i.half ≤ o)
      let slot := (if second then o - i.half else o) / 4096
      let slot := if i.capacity then 2 * slot + (devOf tma - 1) else slot
      let q := if second then (p + i.count - 1) % i.count else p
      some (i.base + (slot * i.count + q) * 4096 + low)

/-- R225: whether a byte of tile t's memory lies in a mirror copy, of which t is home only while the primary is fenced. -/
def State.takenOver (s : State) (t tma : Nat) : Bool :=
  !isScratch tma && (match s.setOfTma t tma with
  | none => false
  | some (n, _) =>
    let i := (s.tile t).iset n
    i.mirror && decide (i.half ≤ offOf tma - i.localBase))

/-- R222: whether a byte of tile t's memory lies in the primary copy of a mirrored unit. -/
def State.primaryCopy (s : State) (t tma : Nat) : Bool :=
  !isScratch tma && (match s.setOfTma t tma with
  | none => false
  | some (n, _) =>
    let i := (s.tile t).iset n
    i.mirror && decide (offOf tma - i.localBase < i.half))

/-- R222: the other copy of a DRAM byte whose primary copy is at tile t; a place that no device of the module has holds none (R4). -/
def State.mirrorOf (s : State) (t tma : Nat) : Option (Nat × Nat) :=
  if isScratch tma then none else
  match s.setOfTma t tma with
  | none => none
  | some (n, p) =>
    let i := (s.tile t).iset n
    let o := offOf tma - i.localBase
    if !i.mirror || decide (i.half ≤ o) then none else
    let m := i.tileAt ((p + 1) % i.count)
    let off := ((s.tile m).iset n).localBase + i.half + o
    let dev := devOf tma
    if (s.tile m).fenced || 12 ≤ m || devBytes dev ≤ off then none else some (m, tmaOf dev off)

end Sys2Proof.Machine
end

