-- ==== Sys2Proof/Machine/Llm.lean ====
section
/-! DEFINITION. The memory side of a home: DRAM lines with their poison, mirrors and write-sequence tags (R212, R222 to
R224), hotness samples (R231), and the cache ways and scratch ways of the slices (R194 to R208). -/

namespace Sys2Proof.Machine

/-- A line with its poisoned sectors. -/
structure LineData where
  data : BitVec 1024
  poison : BitVec 4
deriving DecidableEq, Repr

/-! ## Bytes of State.mem -/

/-- The line at a key. -/
def State.rawLine (s : State) (k : Nat) : LineData :=
  { data := BitVec.ofNat 1024 (cellsRead s.mem k 128)
    poison := maskOf 4 ((List.range 4).filter fun i => s.poison.contains (k / 32 + i)) }

/-- The line at a key written: the bytes of mask; a sector written whole takes the poison given and loses its error, one
written in part keeps its own and takes the poison too, and the others stay. -/
def State.rawWrite (s : State) (k : Nat) (d : LineData) (mask : BitVec 128) : State :=
  let m := (setBits mask).foldl (fun m i => cellSet m (k + i) (BitVec.ofNat 8 (fld d.data (8 * i) 8))) s.mem
  let p := (List.range 4).foldl (fun p i =>
    if fld mask (32 * i) 32 = 2 ^ 32 - 1 then
      (if d.poison.getLsbD i then numIns p (k / 32 + i) else numDel p (k / 32 + i))
    else if decide (fld mask (32 * i) 32 ≠ 0) && d.poison.getLsbD i then numIns p (k / 32 + i) else p) s.poison
  let e := (List.range 4).foldl (fun e i => if fld mask (32 * i) 32 = 2 ^ 32 - 1 then kdel e (k / 32 + i) else e) s.dramErrs
  { s with mem := m, poison := p, dramErrs := e }

/-- A line with n bytes of v at offset o, and the mask of those bytes. -/
def lineOfBytes (o n v : Nat) : LineData := { data := BitVec.ofNat 1024 ((v % 256 ^ n) * 256 ^ o), poison := 0 }
def maskOfBytes (o n : Nat) : BitVec 128 := BitVec.ofNat 128 ((2 ^ n - 1) * 2 ^ o)

/-- Every byte of a line. -/
def allBytes : BitVec 128 := BitVec.allOnes 128

/-- R246: the bytes of mask merged into a line. A sector written whole takes the poison of d. -/
def LineData.merge (b d : LineData) (mask : BitVec 128) : LineData :=
  { data := BitVec.ofNat 1024 (pack ((List.range 128).map fun i =>
      (i, 1, if mask.getLsbD i then fld d.data (8 * i) 8 else fld b.data (8 * i) 8)))
    poison := maskOf 4 ((List.range 4).filter fun i =>
      if fld mask (32 * i) 32 = 2 ^ 32 - 1 then d.poison.getLsbD i
      else b.poison.getLsbD i || (fld mask (32 * i) 32 ≠ 0 && d.poison.getLsbD i)) }

/-! ## Hotness (R231) -/

/-- R231: one counted DRAM access to tile t's memory; every 2^RATE-th is sampled. -/
def State.countHot (s : State) (t tma : Nat) (r : Req) (write : Bool) : State :=
  let k := s.tile t
  if !k.hot.enable || r.hotRec || isScratch tma then s else
  match s.setOfTma t tma with
  | none => s
  | some (n, _) =>
    if !(k.iset n).hot then s else
    let c := k.hot.count + 1
    let rec_ := pack [(0, 8, (s.paOf t tma).getD 0 / 4096 * 4096 + r.cls * 2 ^ 52 + (if write then 2 ^ 55 else 0) +
      (if r.ksp then 2 ^ 56 else 0)), (8, 8, (s.die t).time.toNat)]
    s.modTile t fun k => { k with hot := { k.hot with
      count := c
      queue := if c % 2 ^ k.hot.rate.toNat = 0 then k.hot.queue ++ [BitVec.ofNat 128 rec_] else k.hot.queue } }

/-! ## DRAM -/

/-- R212, R222: the copies of a DRAM address of tile t: its own, and the mirror copy where there is one. -/
def State.copies (s : State) (t tma : Nat) : List (Nat × Nat) := (t, tma) :: (s.mirrorOf t tma).toList

/-- The device that holds a copy. -/
def State.devAt (s : State) (c : Nat × Nat) : Dram := kget {} (s.tile c.1).drams (devOf c.2)

/-- R218: whether a device that an access to a tile memory address needs is in the critical stage. An access to a mirrored unit needs both
of its devices: a write goes to both copies (R223), and a read compares them (R224; DEDUCED, log 98). -/
def State.critical (s : State) (t tma : Nat) : Bool :=
  !isScratch tma && (s.copies t tma).any fun c => decide ((s.devAt c).stage = 5)

/-- R211: the bank of a device, its channel or pseudo-channel among its bits, and the row of a tile memory address. The channel is R211's;
the bank within it and the row are the device's, and are taken from the 64 KiB block of a stack and the 8 KiB block of a package, so that a
row's lines lie in one block, as R465 says (log 20). -/
def bankRow (tma : Nat) : Nat × Nat :=
  let o := offOf tma
  if tma < 2 ^ 37 then ((fldN o 7 6 ^^^ fldN o 13 6 ^^^ fldN o 19 6 ^^^ fldN o 25 6) * 4 + fldN o 16 2, o / 2 ^ 18)
  else ((fldN o 7 2 ^^^ fldN o 13 2) * 64 + fldN o 13 6, o / 2 ^ 19)

/-- R218, R220, R362, R384: a device that an access to a tile memory address needs takes none now: it is in the critical stage, all
devices are in self-refresh for the stop or for standby, or the bank is held for a repair. -/
def State.deviceHeld (s : State) (t tma : Nat) : Bool :=
  s.critical t tma || (!isScratch tma && (s.power.coolStop || s.power.standby ||
    (s.copies t tma).any fun c => (s.devAt c).heldBanks.contains (bankRow c.2).1))

/-- Table 15.6: the UNIT of a DRAM bank. -/
def bankUnit (dev bank : Nat) : Nat := unitOf 0x04 (dev * 256 + bank)

/-- R220, R221: a row becomes a repair candidate; its bank is held until the repair. -/
def State.addCandidate (s : State) (t dev bank row : Nat) (lost : Bool) : State :=
  let key := bank * 2 ^ 20 + row
  let x := kget {} (s.tile t).drams dev
  if x.candidates.any fun c => c.1 = key then
    s.modTile t fun k => { k with drams := kmod {} k.drams dev fun x => { x with
      candidates := x.candidates.map fun c => if c.1 = key then (key, c.2 || lost) else c } }
  else
    let second := match kfind x.lastCandidate bank with
      | none => false
      | some c => s.ticks < c + dayTicks
    s.modTile t fun k => { k with drams := kmod {} k.drams dev fun x => { x with
      candidates := x.candidates ++ [(key, lost || second)]
      heldBanks := numIns x.heldBanks bank
      lastCandidate := kset x.lastCandidate bank s.ticks } }

/-- R220, R449: a corrected read of a DRAM row; the eighth within 24 hours makes the row a candidate. -/
def State.dramCorrected (s : State) (t dev tma : Nat) : State :=
  let (bank, row) := bankRow tma
  let key := bank * 2 ^ 20 + row
  let s := s.corrected t (bankUnit dev bank) ((s.paOf t tma).getD 0) (if dev = 0 then 6 else 7) t
  let x := kget {} (s.tile t).drams dev
  let l := ((kget [] x.corrected key).filter fun c => s.ticks < c + dayTicks) ++ [s.ticks]
  let s := s.modTile t fun k => { k with drams := kmod {} k.drams dev fun x => { x with corrected := kset x.corrected key l } }
  if 8 ≤ l.length then s.addCandidate t dev bank row false else s

/-- R219, R444: an uncorrectable read that leaves a sector poisoned is logged. -/
def State.dramUncorrectable (s : State) (t dev tma : Nat) : State :=
  let (bank, row) := bankRow tma
  s.record t { typ := 0x05, cls := 2, source := t, unit := bankUnit dev bank, row := some (bank * 2 ^ 20 + row)
               payload := pack [(0, 8, (s.paOf t tma).getD 0), (8, 1, if dev = 0 then 6 else 7)] }

/-- One sector of a line, and its mask. -/
def sectorMask (tma : Nat) : BitVec 128 := maskOfBytes (tma % 128 / 32 * 32) 32

/-- R224: MIRROR_DIVERGE for a sector. -/
def State.mirrorDiverge (s : State) (t dev tma a b winner : Nat) : State :=
  let (bank, row) := bankRow tma
  s.record t { typ := 0x09, cls := 2, source := t, unit := bankUnit dev bank, row := some (bank * 2 ^ 20 + row)
               payload := pack [(0, 8, (s.paOf t tma).getD 0), (8, 1, a), (9, 1, b), (10, 1, winner)] }

/-- R223: tag a is newer than tag b. -/
def tagNewer (a b : Nat) : Bool :=
  let d := (a + 256 - b) % 256
  decide (1 ≤ d) && decide (d ≤ 127)

/-- R224: the copies of a sector compared: the newer tag wins; with equal tags and different data, the primary. -/
def State.compareCopies (s : State) (t dev tma t' tma' : Nat) : State :=
  let line := fun (x : Nat) => x / 128 * 128
  let m := sectorMask tma
  let sec := fun (d : LineData) => fld d.data (8 * (tma % 128)) 256
  let p := s.rawLine (memKey t (line tma))
  let q := s.rawLine (memKey t' (line tma'))
  let a := (kget 0 (s.tile t).tags (tma / 32)).toNat
  let b := (kget 0 (s.tile t').tags (tma' / 32)).toNat
  if a = b && decide (sec p = sec q) then s
  else if tagNewer b a then
    let s := (s.rawWrite (memKey t (line tma)) q m).modTile t fun k => { k with tags := kset k.tags (tma / 32) (BitVec.ofNat 8 b) }
    s.mirrorDiverge t dev tma a b 1
  else
    let s := (s.rawWrite (memKey t' (line tma')) p m).modTile t' fun k => { k with tags := kset k.tags (tma' / 32) (BitVec.ofNat 8 a) }
    s.mirrorDiverge t dev tma a b 0

/-- R220, R449: what one copy's code reports, once. -/
def State.eccReport (s : State) (t dev tma : Nat) (e : Ecc) : State :=
  match e with
  | .clean => s
  | .corrected => s.dramCorrected t dev tma
  | .uncorrectable => let (b, r) := bankRow tma; s.addCandidate t dev b r true

/-- R212: a sector of one copy marked as poisoned; its bytes, which every reader now takes for poisoned, stay as they are. -/
def State.poisonSector (s : State) (t tma : Nat) : State :=
  { s with poison := numIns s.poison (memKey t tma / 32), dramErrs := kdel s.dramErrs (memKey t tma / 32) }

/-- A sector of one copy written over another. -/
def State.copySector (s : State) (t tma t' tma' : Nat) : State :=
  let s := s.rawWrite (memKey t' (tma' / 128 * 128)) (s.rawLine (memKey t (tma / 128 * 128))) (sectorMask tma)
  let tag := kget 0 (s.tile t).tags (tma / 32)
  s.modTile t' fun k => { k with tags := kset k.tags (tma' / 32) tag }

/-- Whether a sector of a copy is bad: its code cannot correct it, or it is written as poison. -/
def State.sectorBad (s : State) (t tma : Nat) (e : Ecc) : Bool :=
  decide (e = .uncorrectable) || s.poison.contains (memKey t tma / 32)

/-- R212, R219, R224: one sector of the home's copy is read. A correctable error is counted; of a mirrored unit, a sector that cannot be
corrected is taken from the mirror copy and written over, and two good copies are compared; a sector that no copy gives is poisoned. -/
def State.readSector (s : State) (t tma : Nat) : State :=
  let dev := devOf tma
  let err := fun (s : State) (t tma : Nat) => kget Ecc.clean s.dramErrs (memKey t tma / 32)
  let e := err s t tma
  let s := s.eccReport t dev tma e
  match s.mirrorOf t tma with
  | none => if e = .uncorrectable then (s.poisonSector t tma).dramUncorrectable t dev tma else s
  | some (t', tma') =>
    let e' := err s t' tma'
    match s.sectorBad t tma e, s.sectorBad t' tma' e' with
    | false, false => s.compareCopies t dev tma t' tma'
    | false, true => s
    | true, false => (s.eccReport t' dev tma' e').copySector t' tma' t tma
    | true, true =>
      let s := ((s.eccReport t' dev tma' e').poisonSector t tma).poisonSector t' tma'
      let s := if e = .uncorrectable then s.dramUncorrectable t dev tma else s
      if e' = .uncorrectable then s.dramUncorrectable t' dev tma' else s

/-- Some sectors of a line read from DRAM. -/
def State.readSectors (s : State) (t tma : Nat) (secs : BitVec 4) : State :=
  (setBits secs).foldl (fun s i => s.readSector t (tma / 128 * 128 + 32 * i)) s

/-- R212, R224: a read of a line, or of some of its sectors. -/
def State.dramRead (s : State) (t tma : Nat) (r : Req) (secs : BitVec 4 := 0xF) : State × LineData :=
  let s := (s.countHot t tma r false).readSectors t tma secs
  (s, s.rawLine (memKey t tma))

/-- R223: the sectors of a mask take the next write-sequence tags, on both copies where the other tile is there. -/
def State.tagWrite (s : State) (t tma : Nat) (copy : Option (Nat × Nat)) (mask : BitVec 128) : State :=
  (List.range 4).foldl (fun s i =>
    if fld mask (32 * i) 32 = 0 then s else
    let q := (s.tile t).writeSeq + 1
    let s := s.modTile t fun k => { k with writeSeq := q, tags := kset k.tags (tma / 32 + i) (q.setWidth 8) }
    match copy with
    | none => s
    | some (t', tma') => s.modTile t' fun k => { k with tags := kset k.tags (tma' / 32 + i) (q.setWidth 8) }) s

/-- The sectors of which a mask writes some bytes and not all. -/
def partSectors (mask : BitVec 128) : BitVec 4 :=
  maskOf 4 ((List.range 4).filter fun i => decide (fld mask (32 * i) 32 ≠ 0) && decide (fld mask (32 * i) 32 ≠ 2 ^ 32 - 1))

/-- R197, R223: a write of a line's bytes, to both copies of a mirrored unit; a sector written in part is read first. -/
def State.dramWrite (s : State) (t tma : Nat) (d : LineData) (mask : BitVec 128) (r : Req) : State :=
  let s := (s.countHot t tma r true).readSectors t tma (partSectors mask)
  let s := s.rawWrite (memKey t tma) d mask
  let copy := s.mirrorOf t tma
  let s := match copy with
    | none => s
    | some (t', tma') => (s.countHot t' tma' r true).rawWrite (memKey t' tma') d mask
  if s.primaryCopy t tma then s.tagWrite t tma copy mask else s

/-! ## Cache ways (R194 to R201) -/

/-- R198: the way a set's tree points away from. -/
def plruTouch (bits : BitVec 16) (w : Nat) : BitVec 16 :=
  let step := fun (st : BitVec 16 × Nat) (level : Nat) =>
    let d := fldN w level 1
    (setBit st.1 st.2 (d = 0), 2 * st.2 + d)
  ([3, 2, 1, 0].foldl step (bits, 1)).1

/-- R198: the victim among allowed ways. -/
def plruVictim (bits : BitVec 16) (allowed : Nat) : Nat :=
  let step := fun (st : Nat × Nat) (level : Nat) =>
    let (node, lo) := st
    let half := 2 ^ level
    let l := fldN allowed lo half
    let r := fldN allowed (lo + half) half
    let d := if bit bits node then 1 else 0
    let d := if d = 0 && l = 0 then 1 else d
    let d := if d = 1 && r = 0 then 0 else d
    (2 * node + d, lo + d * half)
  ([3, 2, 1, 0].foldl step (1, 0)).2

/-- The way of a set that holds a tag, among the cache ways. -/
def Slice.find (sl : Slice) (set tag : Nat) : Option (Nat × LlmLine) :=
  (List.range 16).findSome? fun w =>
    if sl.scratch.getLsbD w then none else
    match kfind sl.lines (set * 16 + w) with
    | some l => if l.tag = tag then some (w, l) else none
    | none => none

def Slice.touch (sl : Slice) (set w : Nat) : Slice :=
  { sl with plru := kset sl.plru set (plruTouch (kget 0 sl.plru set) w) }

/-- R196, R197: the ways a class may allocate into. -/
def Tile.allocWays (k : Tile) (sl : Slice) (cls : Nat) : BitVec 16 :=
  let conv := match sl.conv with
    | some c => BitVec.ofNat 16 (2 ^ c.way)
    | none => 0
  kget 0 k.classMask cls &&& ~~~ sl.scratch &&& ~~~ conv &&& ~~~ sl.target

/-- R197: whether a miss of a request allocates; whole: it reads a whole line, or writes a whole or masked line. -/
def Tile.allocates (k : Tile) (sl : Slice) (r : Req) (whole : Bool) : Bool :=
  k.llmEnable && whole && !r.stream && decide (r.cls ≠ 4) && decide (k.allocWays sl r.cls ≠ 0) && !sl.fenced

/-- R200: a watched request to a line; whether it is bypassed. The spec does not say which of several matching entries counts, nor which of
several that were matched equally long ago is replaced: the lowest-numbered one does, an unused entry before any other (DESIGN CHOICE,
log 98). -/
def State.watch (s : State) (t tma : Nat) : State × Bool :=
  let k := s.tile t
  if !k.streamEnable then (s, false) else
  let l := tma / 128
  let now := s.floorCycles
  let hit := (List.range 16).find? fun e =>
    match kfind k.streamEntries e with
    | some x => decide (l - 3 ≤ x.expect) && decide (x.expect ≤ l)
    | none => false
  match hit with
  | some e =>
    let x := kget {} k.streamEntries e
    let c := if x.last + 2 ^ k.gapExp.toNat < now then 1 else x.count + 1
    (s.modTile t fun k => { k with streamEntries := kset k.streamEntries e { expect := l + 1, count := c, last := now } },
      decide (k.threshold.toNat ≤ c))
  | none =>
    let free := (List.range 16).find? fun e => (kfind k.streamEntries e).isNone
    let e := free.getD ((List.range 16).foldl (fun b e =>
      if (kget {} k.streamEntries e).last < (kget {} k.streamEntries b).last then e else b) 0)
    (s.modTile t fun k => { k with streamEntries := kset k.streamEntries e { expect := l + 1, count := 1, last := now } }, false)

/-- R199, R231: the oldest dirty victim of a slice written to DRAM. Its hotness sample names class 6: Table 7.6 gives a slice's own
write-backs no class (DESIGN CHOICE, log 100). -/
def State.flushVictim (s : State) (t j : Nat) : State :=
  match ((s.tile t).slice j).victims with
  | [] => s
  | (tl, d, p) :: vs =>
    let s := s.modSlice t j fun sl => { sl with victims := vs }
    s.dramWrite t (tl * 128) { data := d, poison := p } allBytes { tile := t, part := t, cls := 6 }

/-- R199: a dirty line moves to the victim buffer; a fill that needs an entry waits where it is full (State.fillWaits). A write-back that is
accepted while its device takes no access rests there too, in one of R245's 64 entries (log 23). -/
def State.pushVictim (s : State) (t j line : Nat) (d : LineData) : State :=
  s.modSlice t j fun sl => { sl with victims := sl.victims ++ [(line, d.data, d.poison)] }

/-- The tile memory line (address div 128) of a slice's set and tag (R186). -/
def lineOf (set tag : Nat) (low : Nat) : Nat := tag * 2 ^ 17 + set * 2 ^ 7 + low

/-- R186: bits [6:0] of a line number from its slice, set and tag. -/
def lowOf (j set tag : Nat) : Nat :=
  let l := lineOf set tag 0
  j ^^^ fldN l 7 7 ^^^ fldN l 14 7 ^^^ fldN l 21 7 ^^^ fldN l 28 3

/-- The tile memory address of a held line of slice j. -/
def llmTma (j set tag : Nat) : Nat := lineOf set tag (lowOf j set tag) * 128

/-! ### SECDED of the slice words (R194) -/

/-- The slice word that u names, among those of a way's line that words selects. -/
def Upset.inLine (u : Upset) (t j set w : Nat) (words : Nat → Bool) : Bool :=
  let at_ := (set * 16 + w) * 16
  decide (u.mem = .slice) && decide (u.unit = t * 128 + j) && decide (at_ ≤ u.word) && decide (u.word < at_ + 16) && words (u.word - at_)

/-- R194: words of a way's line are read: a single-bit error is corrected and counted, a double-bit error poisons its sector. -/
def State.settleLine (s : State) (t j set w : Nat) (words : Nat → Bool) : State :=
  let sl := (s.tile t).slice j
  let key := set * 16 + w
  let tma := if sl.scratch.getLsbD w then scratchTma j w (set * 128) else llmTma j set (kget {} sl.lines key).tag
  let unit := unitOf 0x03 (t * 128 + j)
  let hit := fun (u : Upset) => u.inLine t j set w words
  (s.upsets.filter hit).foldl (fun s u =>
    let i := u.word % 16
    let pa := (s.paOf t tma).getD 0 + 8 * i
    if !u.double then s.corrected t unit pa 4 t else
    let s := if sl.scratch.getLsbD w then s.poisonSector t (tma + 8 * i / 32 * 32)
      else s.modSlice t j fun sl => { sl with lines := kmod {} sl.lines key fun l => { l with poison := setBit l.poison (i / 4) true } }
    s.uncorrected t unit pa 4) { s with upsets := s.upsets.filter fun u => !hit u }

/-- Words of a way's line are overwritten whole. -/
def State.overLine (s : State) (t j set w : Nat) (words : Nat → Bool) : State :=
  { s with upsets := s.upsets.filter fun u => !u.inLine t j set w words }

/-- The bytes of a mask are to be written in a way's line: a word written in part is read first. -/
def State.meetLine (s : State) (t j set w : Nat) (mask : BitVec 128) : State :=
  let b := fun (i : Nat) => fld mask (8 * i) 8
  (s.overLine t j set w fun i => b i = 255).settleLine t j set w fun i => decide (b i ≠ 0)

/-- The way and the set of a scratch line. -/
def scratchWay (tma : Nat) : Nat × Nat × Nat :=
  ((tma - 2 ^ 38) / 2 ^ 21, (tma - 2 ^ 38) % 2 ^ 21 / 2 ^ 17, (tma - 2 ^ 38) % 2 ^ 17 / 128)

/-- The words of some sectors of a line. -/
def secWords (secs : BitVec 4) (i : Nat) : Bool := secs.getLsbD (i / 4)

/-- A way of a set is emptied, its line read where it is dirty: the line, if it must be written. -/
def State.takeWay (s : State) (t j set w : Nat) : State × Option (Nat × LineData) :=
  match kfind ((s.tile t).slice j).lines (set * 16 + w) with
  | none => (s, none)
  | some l =>
    let s := if l.dirty then s.settleLine t j set w fun _ => true else s.overLine t j set w fun _ => true
    let l := kget {} ((s.tile t).slice j).lines (set * 16 + w)
    let s := s.modSlice t j fun sl => { sl with lines := kdel sl.lines (set * 16 + w) }
    (s, if l.dirty then some (lineOf set l.tag (lowOf j set l.tag), { data := l.data, poison := l.poison }) else none)

/-- A way of a set is emptied for a fill; a dirty line goes to the victim buffer. -/
def State.evictWay (s : State) (t j set w : Nat) : State :=
  match s.takeWay t j set w with
  | (s, some (line, d)) => s.pushVictim t j line d
  | (s, none) => s

/-- A way of a set is emptied, and a dirty line written to DRAM (R203, R206). -/
def State.drainWay (s : State) (t j set w : Nat) : State :=
  match s.takeWay t j set w with
  | (s, some (line, d)) => s.dramWrite t (line * 128) d allBytes { tile := t, part := t, cls := 6 }
  | (s, none) => s

/-- R198: a line filled into a set of a slice; the victim is the lowest-numbered empty way, or the tree's. -/
def State.fillWay (s : State) (t j set tag : Nat) (ways : BitVec 16) (d : LineData) (dirty : Bool) : State :=
  let sl := (s.tile t).slice j
  let empty := (List.range 16).find? fun w => ways.getLsbD w && (kfind sl.lines (set * 16 + w)).isNone
  let w := empty.getD (plruVictim (kget 0 sl.plru set) ways.toNat)
  let s := (s.evictWay t j set w).overLine t j set w fun _ => true
  s.modSlice t j fun sl =>
    { sl with lines := kset sl.lines (set * 16 + w) { tag := tag, dirty := dirty, data := d.data, poison := d.poison } }.touch set w

/-- R199: a line in the victim buffer. -/
def Slice.victim (sl : Slice) (line : Nat) : Option LineData :=
  (sl.victims.find? fun v => v.1 = line).map fun v => { data := v.2.1, poison := v.2.2 }

/-- Whether a line of tile t is held in the cache ways or in the victim buffer. -/
def State.llmHas (s : State) (t tma : Nat) : Bool :=
  let (j, set, tag) := homeSlice tma
  let sl := (s.tile t).slice j
  isScratch tma || (sl.find set tag).isSome || (sl.victim (tma / 128)).isSome

/-- R201: whether a request that misses must wait for a miss entry: a miss of its set is outstanding, or all 32 entries are taken; the spec
does not say what a request does then, and it is parked (DESIGN CHOICE, log 98). -/
def State.behindMiss (s : State) (t tma : Nat) : Bool :=
  let (j, set, _) := homeSlice tma
  let sl := (s.tile t).slice j
  !s.llmHas t tma && ((kfind sl.misses set).isSome || decide (32 ≤ sl.misses.length))

/-- R199: whether a request that misses must wait for an entry of the victim buffer: its fill of the slice has none. -/
def State.fillWaits (s : State) (t tma : Nat) (r : Req) (whole : Bool) : Bool :=
  let k := s.tile t
  let sl := k.slice (homeSlice tma).1
  !s.llmHas t tma && k.allocates sl r whole && decide (8 ≤ sl.victims.length)

/-- R195, R197, R200, R202: a line, or some of its sectors, read at its home; whole: a whole line is asked for, so that a miss may
allocate; bypass: the stream detector forbids it. -/
def State.homeRead (s : State) (t tma : Nat) (r : Req) (whole : Bool) (bypass : Bool := false) (secs : BitVec 4 := 0xF) :
    State × LineData :=
  if isScratch tma then
    let (j, w, set) := scratchWay tma
    let s := s.settleLine t j set w (secWords secs)
    (s, s.rawLine (memKey t tma))
  else
  let (j, set, tag) := homeSlice tma
  let k := s.tile t
  let sl := k.slice j
  match sl.find set tag with
  | some (w, _) =>
    let s := s.settleLine t j set w (secWords secs)
    let l := kget {} ((s.tile t).slice j).lines (set * 16 + w)
    (s.modSlice t j fun sl => sl.touch set w, { data := l.data, poison := l.poison })
  | none =>
    match sl.victim (tma / 128) with
    | some d => (s, d)
    | none =>
      let (s, d) := s.dramRead t tma r secs
      if k.allocates sl r whole && !bypass then (s.fillWay t j set tag (k.allocWays sl r.cls) d false, d) else (s, d)

/-- R197, R218, R220: a write that the cache ways do not take goes to DRAM; one that the device cannot take now rests in the victim
buffer, where it is a whole line. -/
def State.toDram (s : State) (t j tma : Nat) (d : LineData) (mask : BitVec 128) (r : Req) : State :=
  if decide (mask = allBytes) && s.deviceHeld t tma then s.pushVictim t j (tma / 128) d else s.dramWrite t tma d mask r

/-- R197, R199, R200, R205, R228: bytes written at the home of a line. sector: a KSP write; watched: a whole line, or a
write-back. A write that may wait for an entry of the victim buffer has done so (State.writeWaits, State.findLine); one that is accepted at
once rests in its own entry of R245 while the line that it displaces is written. -/
def State.homeWrite (s : State) (t tma : Nat) (d : LineData) (mask : BitVec 128) (r : Req) (sector watched : Bool) : State :=
  if isScratch tma then
    let (j, w, set) := scratchWay tma
    let s := (s.meetLine t j set w mask).rawWrite (memKey t tma) d mask
    s.modSlice t j fun sl => { sl with writer := match r.ctx with | none => kdel sl.writer w | some c => kset sl.writer w c }
  else
  let (j, set, tag) := homeSlice tma
  let (s, bypass) := if watched then s.watch t tma else (s, false)
  let k := s.tile t
  let sl := k.slice j
  match sl.find set tag with
  | some (w, _) =>
    if bypass then
      ((s.overLine t j set w fun _ => true).modSlice t j fun sl => { sl with lines := kdel sl.lines (set * 16 + w) }).toDram t j tma d mask r
    else
      let s := s.meetLine t j set w mask
      let l := kget {} ((s.tile t).slice j).lines (set * 16 + w)
      let m := LineData.merge { data := l.data, poison := l.poison } d mask
      s.modSlice t j fun sl => { sl with
        lines := kset sl.lines (set * 16 + w) { tag := tag, dirty := true, data := m.data, poison := m.poison } }.touch set w
  | none =>
    match sl.victim (tma / 128) with
    | some v =>
      let m := LineData.merge v d mask
      s.modSlice t j fun sl => { sl with
        victims := sl.victims.map fun x => if x.1 = tma / 128 then (x.1, m.data, m.poison) else x }
    | none =>
      if !bypass && k.allocates sl r (!sector) then
        let (s, b) := if mask = allBytes then (s, d) else s.dramRead t tma r
        s.fillWay t j set tag (k.allocWays sl r.cls) (b.merge d mask) true
      else s.toDram t j tma d mask r

/-- R202: whether a class may reach scratch way w of slice j of tile t; busy while the way is being made a scratch way
(R203 step 4). -/
def State.scratchAccess (s : State) (t j w : Nat) (r : Req) : Except MemErr Unit :=
  let k := s.tile t
  let sl := k.slice j
  if !k.llmEnable || s.partOf t ≠ r.part || sl.fenced then .error .decode
  else if !(kget 0 k.classMask r.cls).getLsbD w then .error .decode
  else if sl.scratch.getLsbD w then
    (match sl.conv with
     | some c => if c.way = w then .error .decode else if sl.target.getLsbD w then .ok () else .error .decode
     | none => if sl.target.getLsbD w then .ok () else .error .decode)
  else if sl.target.getLsbD w then .error .busy else .error .decode

/-- R192, R202, R218, R220: whether the home at tile t takes a request for a tile memory address that it was decoded to. whole: it is a
write of the whole line, which a bypass would send to the device. -/
def State.homeTakes (s : State) (r : Req) (t tma : Nat) (whole : Bool := false) : Except MemErr (Nat × Nat) :=
  if isScratch tma then
    let (j, w, _) := scratchWay tma
    (match s.scratchAccess t j w r with
     | .error e => .error e
     | .ok () => .ok (t, tma))
  else if s.partOf t ≠ r.part then .error .decode
  else if s.deviceHeld t tma && (!s.llmHas t tma || (whole && (s.watch t tma).2)) then
    .error (if s.critical t tma then .stopped else .busy)
  else .ok (t, tma)

/-- R30, R39, R192, R202, R218: the home of an address for a requester: its tile and tile memory address. -/
def State.homeOf (s : State) (r : Req) (pa : Nat) (whole : Bool := false) : Except MemErr (Nat × Nat) :=
  match s.decodePa r pa with
  | .error e => .error e
  | .ok (.reserve _) => .error .decode
  | .ok (.reg _) => .error .decode
  | .ok (.scratch t j w o) => s.homeTakes r t (scratchTma j w o)
  | .ok (.dram t tma) => s.homeTakes r t tma whole

/-- R218 for an access that takes effect when it is issued (log 23): it waits for a critical device until the device has been
critical for 1 ms, and then completes with MEM_STOPPED. During the stop of R384 and in Velvet standby it waits. -/
def State.homeNow (s : State) (r : Req) (pa : Nat) (whole : Bool := false) : Except MemErr (Nat × Nat) :=
  if s.power.coolStop || s.power.standby then .error .busy else
  match s.homeOf r pa whole with
  | .error .stopped =>
    match s.decodePa r pa with
    | .ok (.dram t tma) =>
      if (s.copies t tma).any fun c => decide ((s.devAt c).stage = 5) && s.elapsed (s.devAt c).criticalAt msTicks then .error .stopped
      else .error .busy
    | _ => .error .stopped
  | x => x

end Sys2Proof.Machine
end

