-- ==== Sys2Proof/Machine/Coh.lean ====
section
/-! DEFINITION. Coherence: lines of the coherent caches (R237 to R239), snoop answers (R248, Table 8.5), directory entries
(R240 to R243), and the home's actions (R245 to R251, Table 8.4) composed into one step for an agent whose access meets a
line that is in no transaction (log 23). The message-level commands use the same parts. -/

namespace Sys2Proof.Machine

/-! ## Caches -/

def isL1 (n : Nat) : Bool := decide (n < 1536)
/-- The tile of a cache (R237). -/
def cacheTile (n : Nat) : Nat := if isL1 n then n / 128 else (n - 1536) / 8
/-- The agent number of a cache at its tile (Table 7.3). -/
def cacheAgent (n : Nat) : Nat := if isL1 n then 128 + n % 128 else 256 + (n - 1536) % 8
/-- The cache that an agent number names. -/
def agentCache (t a : Nat) : Option Nat :=
  if 128 ≤ a && a < 256 then some (t * 128 + (a - 128)) else if 256 ≤ a && a < 264 then some (1536 + t * 8 + (a - 256)) else none
/-- The set of a line: 256 sets of 12 ways in an L1, 1,024 sets of 16 ways in an L2. -/
def cacheSet (n line : Nat) : Nat := if isL1 n then line % 256 else line % 1024
def cacheWays (n : Nat) : Nat := if isL1 n then 12 else 16
/-- R196: the class of a cache's requests. -/
def cacheClass (n : Nat) : Nat := if isL1 n then 1 else 0
/-- The requester that a cache is (R213). -/
def State.cacheReq (s : State) (n : Nat) (ctx : Option Nat) : Req :=
  { tile := cacheTile n, part := s.partOf (cacheTile n), cls := cacheClass n, ctx := ctx }

/-- The way that holds a line. -/
def Cache.find (ca : Cache) (n line : Nat) : Option (Nat × CacheLine) :=
  (List.range (cacheWays n)).findSome? fun w =>
    match kfind ca.lines (cacheSet n line * 16 + w) with
    | some l => if l.line = line then some (w, l) else none
    | none => none

def Cache.setLine (ca : Cache) (n line w : Nat) (f : CacheLine → CacheLine) : Cache :=
  { ca with lines := kmod {} ca.lines (cacheSet n line * 16 + w) f }

/-- A line leaves the cache; a reservation on it is lost (R252). -/
def Cache.drop (ca : Cache) (n line w : Nat) : Cache :=
  { ca with lines := kdel ca.lines (cacheSet n line * 16 + w)
            reserved := if ca.reserved = some line then none else ca.reserved }

/-- R98: a use of a way of a set: when every enabled way is then used, the others' bits are cleared. -/
def Cache.use (ca : Cache) (n line w : Nat) (ways : List Nat) : Cache :=
  if !isL1 n then ca else
  let ca := ca.setLine n line w fun l => { l with used := true }
  let full := ways.all fun v => (kget {} ca.lines (cacheSet n line * 16 + v)).used
  if !full then ca else
    ways.foldl (fun ca v => if v = w then ca else
      match kfind ca.lines (cacheSet n line * 16 + v) with
      | some _ => ca.setLine n line v fun l => { l with used := false }
      | none => ca) ca

/-- Snoops (Table 8.3). -/
inductive Snoop where
  | s | x | nc | inv | invWb
deriving DecidableEq, Repr

/-- Answers to snoops (Table 8.3); wbData is DATA_DIRTY to the home. -/
inductive Answer where
  | miss | ackS | ackI | fwdO | fwdI | fwdKeep | ackKeep | wbData
deriving DecidableEq, Repr

/-- Table 8.5 for a held line: the answer and the state it leaves, none for I. -/
def answerOf (st : LineState) (k : Snoop) : Answer × Option LineState :=
  match k with
  | .s => (match st with
    | .m => (.fwdO, some .o) | .o => (.fwdO, some .o) | .e => (.ackS, some .s) | .s => (.ackS, some .s))
  | .x => (match st with
    | .m => (.fwdI, none) | .o => (.fwdI, none) | .e => (.ackI, none) | .s => (.ackI, none))
  | .nc => (match st with
    | .m => (.fwdKeep, some .m) | .o => (.fwdKeep, some .o) | .e => (.ackKeep, some .e) | .s => (.ackKeep, some .s))
  | .inv => (.ackI, none)
  | .invWb => (match st with
    | .m => (.wbData, none) | .o => (.wbData, none) | .e => (.ackI, none) | .s => (.ackI, none))

/-- Whether an answer brings data. -/
def Answer.hasData : Answer → Bool
  | .fwdO => true | .fwdI => true | .fwdKeep => true | .wbData => true | _ => false

/-- R248: a cache answers a snoop from the state it holds, a line of its write-back buffer as it was evicted. -/
def Cache.snoop (ca : Cache) (n line : Nat) (k : Snoop) : Cache × Answer × Option LineData :=
  match ca.wbuf.find? (·.line = line) with
  | some l =>
    let (a, st) := answerOf l.st k
    let ca := { ca with wbuf := ca.wbuf.map fun x => if x.line = line then { x with st := st.getD x.st } else x }
    (ca, a, if a.hasData then some { data := l.data, poison := l.poison } else none)
  | none =>
    match ca.find n line with
    | none => (ca, .miss, none)
    | some (w, l) =>
      let (a, st) := answerOf l.st k
      let ca := match st with
        | some st => { ca.setLine n line w fun x => { x with st := st } with
            reserved := if st ≠ l.st && ca.reserved = some line then none else ca.reserved }
        | none => ca.drop n line w
      (ca, a, if a.hasData then some { data := l.data, poison := l.poison } else none)

/-! ## The directory -/

/-- R240: the set of a directory line. -/
def dirSet (l : Nat) : Nat := (l ^^^ (l / 2 ^ 17)) % 2 ^ 17

/-- The entry of a line and its way. -/
def Tile.dirFind (k : Tile) (l : Nat) : Option (Nat × DirEntry) :=
  (List.range 16).findSome? fun w =>
    match kfind k.dir (dirSet l * 16 + w) with
    | some e => if e.line = l then some (w, e) else none
    | none => none

/-- R242: the caches that a coarse bit covers. -/
def coarseCaches (b : Nat) : List Nat :=
  if b < 48 then (List.range 32).map (b * 32 + ·) else (List.range 8).map (1536 + (b - 48) * 8 + ·)

/-- R242: the coarse bit of a cache. -/
def coarseBit (n : Nat) : Nat := if isL1 n then n / 32 else 48 + (n - 1536) / 8

/-- The sharers that an entry names. -/
def DirEntry.sharers (e : DirEntry) : List Nat :=
  if e.coarse then (setBits e.bits).flatMap coarseCaches else e.ptrs

/-- The owner, in X or O. -/
def DirEntry.holder (e : DirEntry) : Option Nat := if e.st = .s then none else some e.owner

/-- R242: a sharer added. -/
def DirEntry.addSharer (e : DirEntry) (n : Nat) : DirEntry :=
  if e.coarse then { e with bits := setBit e.bits (coarseBit n) true }
  else if e.ptrs.contains n then e
  else if e.ptrs.length < 4 then { e with ptrs := e.ptrs ++ [n] }
  else { e with coarse := true, ptrs := [], bits := (e.ptrs ++ [n]).foldl (fun b c => setBit b (coarseBit c) true) 0 }

/-- R246: a cache removed as a sharer; a coarse bit stays. -/
def DirEntry.dropSharer (e : DirEntry) (n : Nat) : DirEntry :=
  if e.coarse then e else { e with ptrs := e.ptrs.filter (· ≠ n) }

def DirEntry.noSharers (e : DirEntry) : Bool := if e.coarse then e.bits = 0 else e.ptrs.isEmpty

/-- R246: a cache removed, whichever part it has; none is state I. -/
def DirEntry.remove (e : DirEntry) (n : Nat) : Option DirEntry :=
  match e.st with
  | .s => let e := e.dropSharer n; if e.noSharers then none else some e
  | .x => if e.owner = n then none else some e
  | .o => if e.owner = n then (let e := { e with st := DirState.s }; if e.noSharers then none else some e) else some (e.dropSharer n)

/-- R246: an entry names a cache exactly, as a pointer or as OWNER. -/
def DirEntry.exact (e : DirEntry) (n : Nat) : Bool := e.holder = some n || (!e.coarse && e.ptrs.contains n)

/-- R243: a lookup, hit or fill of an entry touches it. -/
def Tile.dirTouch (k : Tile) (l w : Nat) : Tile :=
  { k with dirPlru := kset k.dirPlru (dirSet l) (plruTouch (kget 0 k.dirPlru (dirSet l)) w) }

/-- The entry of a line set, or freed. The way is the entry's own, or w for a new one. -/
def Tile.dirPut (k : Tile) (l w : Nat) (e : Option DirEntry) : Tile :=
  let key := dirSet l * 16 + w
  match e with
  | some e => ({ k with dir := kset k.dir key { e with line := l } } : Tile).dirTouch l w
  | none => { k with dir := kdel k.dir key }

/-- R242: the entry with one holder in X; it keeps its format. -/
def DirEntry.toX (e : DirEntry) (n : Nat) : DirEntry := { e with st := .x, owner := n, ptrs := [], bits := 0 }

/-- The entry of a line replaced, where it has one. -/
def State.dirSetEntry (s : State) (t l : Nat) (e : Option DirEntry) : State :=
  match (s.tile t).dirFind l with
  | some (w, _) => s.modTile t fun k => k.dirPut l w e
  | none => s

/-- Whether a line is in a transaction at the home, or being recalled for one (R243, R245). -/
def Tile.inTxn (k : Tile) (l : Nat) : Bool := k.txns.any fun x => x.line = l || x.recallOf = some l

/-! ## Composed snoops -/

/-- R455: a cache answers nothing once the PLLs of its die have failed. -/
def State.cacheSilent (s : State) (n : Nat) : Bool := (s.die (cacheTile n)).pllFailed

/-- R26: a cache that must be woken before it answers: its region does not run, or the die's PLLs are off. -/
def State.cacheAsleep (s : State) (n : Nat) : Bool :=
  !(s.die (cacheTile n)).pll || (isL1 n && decide (kget .on (s.die (cacheTile n)).regions (n / 32 % 4) ≠ .on))

/-- R27: a snoop wakes the region of an L1, or the die of an L2. -/
def State.wakeCache (s : State) (n : Nat) : State :=
  if !s.cacheAsleep n then s
  else if isL1 n then s.wakeRegion (cacheTile n) (n / 32 % 4)
  else s.modDie (cacheTile n) fun k => { k with pll := true }

/-- One snoop and its answer. A cache of a fenced die holds nothing (R259). -/
def State.snoop1 (s : State) (n line : Nat) (k : Snoop) : State × Answer × Option LineData :=
  if (s.tile (cacheTile n)).fenced then (s, .miss, none) else
  let (ca, a, d) := (s.cache n).snoop n line k
  (s.modCache n fun _ => ca, a, d)

/-- SNP_INV to every cache of a list. -/
def State.invalidate (s : State) (line : Nat) (l : List Nat) : State :=
  l.foldl (fun s n => (s.snoop1 n line .inv).1) s

/-- R259: an entry that names caches of fenced dies: an owner's line is poisoned at home, its sharers are invalidated and the
entry freed; a sharer is removed. -/
def State.fenceEntry (s : State) (t l : Nat) : State :=
  match (s.tile t).dirFind l with
  | none => s
  | some (w, e) =>
    let dead := fun n => (s.tile (cacheTile n)).fenced
    match e.holder.filter dead with
    | some o =>
      let pa := (s.paOf t (l * 128)).getD 0
      let s := s.homeWrite t (l * 128) { data := 0, poison := 0xF } allBytes { tile := t, part := s.partOf t, cls := 4 } false false
      let s := s.invalidate (pa / 128) (e.sharers.filter fun n => !dead n)
      let s := s.modTile t fun k => k.dirPut l w none
      s.record t { typ := 0x06, cls := 2, source := t, unit := unitOf 0x0B (cacheTile o), payload := pack [(0, 8, pa), (8, 2, o)] }
    | none =>
      if e.coarse then
        let keep := (List.range 60).filter fun b => !(s.tile (if b < 48 then b / 4 else b - 48)).fenced
        let e := { e with bits := e.bits &&& maskOf 60 keep }
        s.modTile t fun k => k.dirPut l w (if e.bits = 0 && decide (e.st = .s) then none else some e)
      else
        let e := { e with ptrs := e.ptrs.filter fun n => !dead n }
        s.modTile t fun k => k.dirPut l w (if e.ptrs.isEmpty && decide (e.st = .s) then none else some e)

/-- R259: before the scan reaches an entry, its change is applied at the first use. -/
def State.scanned (s : State) (t l : Nat) : State :=
  if (List.range 12).any fun d => (s.tile d).fenced then s.fenceEntry t l else s

/-- R243, R259: a lookup of a line's entry. -/
def State.lookupEntry (s : State) (t l : Nat) : State :=
  let s := s.scanned t l
  match (s.tile t).dirFind l with
  | none => s
  | some (w, _) => s.modTile t fun k => k.dirTouch l w

/-- The ways of a directory set that hold an entry. -/
def Tile.dirUsed (k : Tile) (set : Nat) : List Nat := (List.range 16).filter fun w => (kfind k.dir (set * 16 + w)).isSome

/-- R243: the requests of caches under way whose lines have no entry in a set now, and will take one. -/
def Tile.dirDue (k : Tile) (l : Nat) : List Txn :=
  k.txns.filter fun x => decide (x.line ≠ l) && decide (dirSet x.line = dirSet l) &&
    (decide (x.req.op = .rdS) || decide (x.req.op = .rdX) || decide (x.req.op = .upg)) && (k.dirFind x.line).isNone

/-- R243: whether a directory set has no free way for a line without an entry: a way that a request under way will take is in use. -/
def Tile.dirFull (k : Tile) (l : Nat) : Bool :=
  (k.dirFind l).isNone && decide (16 ≤ (k.dirUsed (dirSet l)).length + (k.dirDue l).length)

/-- R243: the victim of a full directory set, if one may be recalled. -/
def Tile.dirVictim (k : Tile) (l : Nat) : Option Nat :=
  let set := dirSet l
  let ok := (List.range 16).filter fun w => match kfind k.dir (set * 16 + w) with
    | some e => !k.inTxn e.line
    | none => false
  if ok.isEmpty then none else some (kget {} k.dir (set * 16 + plruVictim (kget 0 k.dirPlru set) (maskOf 16 ok).toNat)).line

/-- The live caches that a composed access to a line snoops: the owner, and the sharers too where it takes ownership or writes. -/
def State.snooped (s : State) (t l : Nat) (req : Option Nat) (excl : Bool) : List Nat :=
  match (s.tile t).dirFind l with
  | none => []
  | some (_, e) => ((e.holder.toList ++ (if excl then e.sharers else [])).eraseDups).filter fun n =>
      decide (some n ≠ req) && !(s.tile (cacheTile n)).fenced

/-- R261: whether requests to a tile memory address wait for its unit to be taken over. -/
def State.beingTaken (s : State) (t tma : Nat) : Bool := decide ((s.tile t).taking ≠ []) && s.takenOver t tma

/-- A composed access finds its line (log 23): the entry is looked up; the access must wait where the line is in a transaction, is behind
a miss of its set (R201), has no victim buffer entry for its fill (R199), no directory entry to take (R243), or belongs to a unit being
taken over (R261), and where a cache that it snoops is silent, cut off (R17) or asleep, which it wakes (R27). -/
def State.findLine (s : State) (t tma : Nat) (req : Option Nat) (r : Req) (whole excl : Bool) : State × Bool :=
  let l := tma / 128
  let s := s.lookupEntry t l
  let k := s.tile t
  let ns := s.snooped t l req excl
  let sleepy := ns.filter s.cacheAsleep
  if k.inTxn l || s.behindMiss t tma || s.fillWaits t tma r whole ||
      s.beingTaken t tma || (req.isSome && k.dirFull l && (k.dirVictim l).isNone) ||
      ns.any (fun n => s.cacheSilent n || !s.connected t (cacheTile n)) then (s, true)
  else if sleepy.isEmpty then (s, false)
  else (sleepy.foldl (fun s n => s.wakeCache n) s, true)

/-- R205: the context whose command last wrote a line that a cache holds. -/
def Cache.writerOf (ca : Cache) (n line : Nat) : Option Nat :=
  match ca.wbuf.find? (·.line = line) with
  | some l => l.writer
  | none => (ca.find n line).bind (·.2.writer)

/-- R243: the victim of a full set is recalled: its owner's data is written as R197 decides, its copies are invalidated, and
its entry is freed. A fenced owner is dealt with first (R259). -/
def State.recallLine (s : State) (t l : Nat) : State :=
  let s := s.scanned t l
  match (s.tile t).dirFind l with
  | none => s
  | some (w, e) =>
    let pa := (s.paOf t (l * 128)).getD 0
    let ctx := e.holder.bind fun o => (s.cache o).writerOf o (pa / 128)
    let (s, d) := match e.holder with
      | none => (s, none)
      | some o => let (s, _, d) := s.snoop1 o (pa / 128) .invWb; (s, d)
    let s := s.invalidate (pa / 128) (e.sharers.filter (some · ≠ e.holder))
    let s := match d with
      | none => s
      | some d => s.homeWrite t (l * 128) d allBytes { tile := t, part := s.partOf t, cls := 1, ctx := ctx } false false
    s.modTile t fun k => k.dirPut l w none

/-- R243: a way of the line's set for a new entry: a free one, or that of the victim, which is recalled; a request waits while there is
none (State.findLine, State.arrive). -/
def State.dirAlloc (s : State) (t l : Nat) : State × Nat :=
  let k := s.tile t
  let free := (List.range 16).filter fun w => !(k.dirUsed (dirSet l)).contains w
  match k.dirVictim l with
  | some v => if k.dirFull l then (s.recallLine t v, ((k.dirFind v).map (·.1)).getD (free.headD 0)) else (s, free.headD 0)
  | none => (s, free.headD 0)

/-- The entry of a line put in place, allocating where it has none. -/
def State.dirStore (s : State) (t l : Nat) (e : Option DirEntry) : State :=
  match (s.tile t).dirFind l, e with
  | some (w, _), e => s.modTile t fun k => k.dirPut l w e
  | none, none => s
  | none, some e => let (s, w) := s.dirAlloc t l; s.modTile t fun k => k.dirPut l w (some e)

/-- A new entry in X. -/
def dirX (n : Nat) : DirEntry := { st := .x, owner := n }

/-- Table 8.4 for RD_S from cache n: the data and the state granted. -/
def State.homeRdS (s : State) (t tma line n : Nat) (r : Req) : State × LineData × LineState :=
  let l := tma / 128
  let e := ((s.tile t).dirFind l).bind fun x => x.2.remove n
  match e with
  | none =>
    let (s, d) := s.homeRead t tma r true
    (s.dirStore t l (some (dirX n)), d, .e)
  | some e =>
    match e.holder with
    | none =>
      let (s, d) := s.homeRead t tma r true
      (s.dirStore t l (some (e.addSharer n)), d, .s)
    | some o =>
      let (s, a, od) := s.snoop1 o line .s
      match a, od with
      | .fwdO, some d => (s.dirStore t l (some ({ e with st := DirState.o }.addSharer n)), d, .s)
      | .ackS, _ =>
        let (s, d) := s.homeRead t tma r true
        (s.dirStore t l (some (({ e with st := DirState.s }.addSharer o).addSharer n)), d, .s)
      | _, _ =>
        let (s, d) := s.homeRead t tma r true
        match e.remove o with
        | none => (s.dirStore t l (some (dirX n)), d, .e)
        | some e => (s.dirStore t l (some (e.addSharer n)), d, .s)

/-- Table 8.4 for RD_X, and for a UPG that does not name its requester exactly. -/
def State.homeRdX (s : State) (t tma line n : Nat) (r : Req) : State × LineData :=
  let l := tma / 128
  let (s, bypass) := s.watch t tma
  let e := ((s.tile t).dirFind l).bind fun x => x.2.remove n
  match e with
  | none =>
    let (s, d) := s.homeRead t tma r true bypass
    (s.dirStore t l (some (dirX n)), d)
  | some e =>
    let s := s.invalidate line (e.sharers.filter fun c => c ≠ n && some c ≠ e.holder)
    match e.holder with
    | none =>
      let (s, d) := s.homeRead t tma r true bypass
      (s.dirStore t l (some (e.toX n)), d)
    | some o =>
      let (s, a, od) := s.snoop1 o line .x
      match a, od with
      | .fwdI, some d => (s.dirStore t l (some (e.toX n)), d)
      | _, _ =>
        let (s, d) := s.homeRead t tma r true bypass
        (s.dirStore t l (some (e.toX n)), d)

/-- Table 8.4 for a UPG that names its requester exactly: every other holder is invalidated. -/
def State.homeUpg (s : State) (t tma line n : Nat) (e : DirEntry) : State :=
  let (s, _) := s.watch t tma
  let s := s.invalidate line ((e.sharers ++ e.holder.toList).eraseDups.filter (· ≠ n))
  s.dirStore t (tma / 128) (some (e.toX n))

/-- Table 8.4 for a non-allocating read: the owner's copy, or the home's. whole: a whole line is asked for, otherwise the sectors secs. -/
def State.homeNcRead (s : State) (t tma line : Nat) (r : Req) (whole : Bool) (secs : BitVec 4 := 0xF) : State × LineData :=
  let l := tma / 128
  match (s.tile t).dirFind l with
  | none => s.homeRead t tma r whole (secs := secs)
  | some (_, e) =>
    match e.holder with
    | none => s.homeRead t tma r whole (secs := secs)
    | some o =>
      let (s, a, od) := s.snoop1 o line .nc
      match a, od with
      | .fwdKeep, some d => (s, d)
      | .miss, _ => (s.dirSetEntry t l (e.remove o)).homeRead t tma r whole (secs := secs)
      | _, _ => s.homeRead t tma r whole (secs := secs)

/-- Table 8.4: the recall that a non-allocating write or ATOM_H makes: the owner's data, if any; the entry becomes I. -/
def State.homeRecallFor (s : State) (t tma line : Nat) : State × Option LineData :=
  let l := tma / 128
  match (s.tile t).dirFind l with
  | none => (s, none)
  | some (_, e) =>
    let (s, d) := match e.holder with
      | none => (s, none)
      | some o => let (s, _, d) := s.snoop1 o line .invWb; (s, d)
    let s := s.invalidate line (e.sharers.filter fun c => some c ≠ e.holder)
    (s.dirSetEntry t l none, d)

/-- R246, R250: a non-allocating write performed once its snoops are answered: merged into the owner's line where one was
returned; a whole line replaces it. -/
def State.finishWrite (s : State) (t tma : Nat) (d : LineData) (mask : BitVec 128) (r : Req) (sector : Bool) (od : Option LineData) : State :=
  match od with
  | none => s.homeWrite t tma d mask r sector (decide (mask = allBytes))
  | some o =>
    if mask = allBytes then s.homeWrite t tma d mask r false true
    else s.homeWrite t tma (o.merge d mask) allBytes r false false

/-- R250: a non-allocating write of the bytes of mask. -/
def State.homeNcWrite (s : State) (t tma line : Nat) (d : LineData) (mask : BitVec 128) (r : Req) (sector : Bool) : State :=
  let (s, od) := s.homeRecallFor t tma line
  s.finishWrite t tma d mask r sector od

/-- R246: a WB from cache n: the data counts only from the OWNER. -/
def State.homeWb (s : State) (t tma n : Nat) (d : LineData) (r : Req) : State :=
  let l := tma / 128
  match (s.tile t).dirFind l with
  | none => s
  | some (_, e) =>
    if e.holder = some n then (s.homeWrite t tma d allBytes r false true).dirSetEntry t l (e.remove n) else s

/-! ## Composed accesses of caches -/

/-- The ways into which a cache may fill: the L1 ways of a core (R98, R99), or all ways of an L2. -/
def State.fillWays (s : State) (n : Nat) : List Nat :=
  if isL1 n then (List.range 12).filter fun w => decide ((kget {} (s.core n).sections w).use = .way)
  else List.range 16

/-- R239, R261: a line leaves a cache: a dirty one goes to its home. One whose WB is not acknowledged stays in the write-back buffer: its
home cannot be reached now, its address no longer decodes, or its unit is being taken over. -/
def State.evictLine (s : State) (n line w : Nat) : State :=
  match kfind (s.cache n).lines (cacheSet n line * 16 + w) with
  | none => s
  | some l =>
    let s := s.modCache n fun ca => ca.drop n l.line w
    if l.st = .m || l.st = .o then
      let r := s.cacheReq n l.writer
      let d : LineData := { data := l.data, poison := l.poison }
      match s.decodePa r (l.line * 128) with
      | .ok (.dram t tma) =>
        if s.beingTaken t tma then s.modCache n fun ca => { ca with wbuf := ca.wbuf ++ [l] }
        else (s.lookupEntry t (tma / 128)).homeWb t tma n d r
      | .ok (.scratch t j x o) => (s.lookupEntry t (scratchTma j x o / 128)).homeWb t (scratchTma j x o) n d r
      | .ok (.reserve _) => s.modCache n fun ca => { ca with wbuf := ca.wbuf ++ [l] }
      | .ok (.reg _) => s.modCache n fun ca => { ca with wbuf := ca.wbuf ++ [l] }
      | .error _ => s.modCache n fun ca => { ca with wbuf := ca.wbuf ++ [l] }
    else s

/-- R98: the way for a fill: the lowest empty one, or the lowest whose used bit is clear; an L2's victim is a free value
(log 24). -/
def State.victimWay (s : State) (n line : Nat) : State × Nat :=
  let ws := s.fillWays n
  let ca := s.cache n
  let at_ := fun w => kfind ca.lines (cacheSet n line * 16 + w)
  match ws.find? fun w => (at_ w).isNone with
  | some w => (s, w)
  | none =>
    if isL1 n then (s, (ws.find? fun w => !(kget {} ca.lines (cacheSet n line * 16 + w)).used).getD (ws.headD 0))
    else let (v, s) := s.draw; (s, fld v 0 4)

/-- R247: a line installed in a cache. -/
def State.install (s : State) (n line : Nat) (st : LineState) (home : Nat) (d : LineData) : State :=
  let (s, w) := s.victimWay n line
  let s := s.evictLine n line w
  let ws := s.fillWays n
  let x : CacheLine := { line := line, st := st, home := home, data := d.data, poison := d.poison }
  s.modCache n fun ca => ({ ca with lines := kset ca.lines (cacheSet n line * 16 + w) x }).use n line w ws

/-- A line held by cache n with read permission: on a miss RD_S is carried out at its home (R246, R247). -/
def State.getShared (s : State) (n line : Nat) (ctx : Option Nat) : State × Except MemErr LineData :=
  match (s.cache n).find n line with
  | some (w, l) =>
    let ws := s.fillWays n
    (s.modCache n fun ca => ca.use n line w ws, .ok { data := l.data, poison := l.poison })
  | none =>
    if (s.cache n).wbuf.any (·.line = line) || (s.cache n).reqs.any (·.line = line) then (s, .error .busy) else
    let r := s.cacheReq n ctx
    match s.homeNow r (line * 128) with
    | .error e => (s, .error e)
    | .ok (t, tma) =>
      match s.findLine t tma (some n) r true false with
      | (s, true) => (s, .error .busy)
      | (s, false) =>
        let (s, d, st) := s.homeRdS t tma line n r
        (s.install n line st t d, .ok d)

/-- A line held by cache n in M: E goes to M silently, S and O by UPG, I by RD_X (R252). -/
def State.getOwned (s : State) (n line : Nat) (ctx : Option Nat) : State × Except MemErr LineData :=
  match (s.cache n).find n line with
  | some (w, l) =>
    let ws := s.fillWays n
    let d : LineData := { data := l.data, poison := l.poison }
    if l.st = .m || l.st = .e then
      (s.modCache n fun ca => (ca.setLine n line w fun x => { x with st := .m }).use n line w ws, .ok d)
    else
      let r := s.cacheReq n ctx
      match s.homeNow r (line * 128) with
      | .error e => (s, .error e)
      | .ok (t, tma) =>
        match s.findLine t tma (some n) r true true with
        | (s, true) => (s, .error .busy)
        | (s, false) =>
          let e := ((s.tile t).dirFind (tma / 128)).map (·.2)
          let (s, d) := match e with
            | some e => if e.exact n then (s.homeUpg t tma line n e, d) else s.homeRdX t tma line n r
            | none => s.homeRdX t tma line n r
          (s.modCache n fun ca => (ca.setLine n line w fun x =>
            { x with st := .m, data := d.data, poison := d.poison }).use n line w ws, .ok d)
  | none =>
    if (s.cache n).wbuf.any (·.line = line) || (s.cache n).reqs.any (·.line = line) then (s, .error .busy) else
    let r := s.cacheReq n ctx
    match s.homeNow r (line * 128) with
    | .error e => (s, .error e)
    | .ok (t, tma) =>
      match s.findLine t tma (some n) r true true with
      | (s, true) => (s, .error .busy)
      | (s, false) =>
        let (s, d) := s.homeRdX t tma line n r
        (s.install n line .m t d, .ok d)

/-- The bytes of a held line changed by a command of context ctx, where the cache holds it in M; poison of a sector written whole goes. -/
def State.putOwned (s : State) (n line : Nat) (d : LineData) (mask : BitVec 128) (ctx : Option Nat := none) : State :=
  match (s.cache n).find n line with
  | none => s
  | some (w, _) => s.modCache n fun ca => ca.setLine n line w fun x =>
      let m := LineData.merge { data := x.data, poison := x.poison } d mask
      { x with data := m.data, poison := m.poison, writer := ctx }

/-- R252, R60: on a stream page the line is written back and dropped. -/
def State.dropStream (s : State) (n line : Nat) : State :=
  match (s.cache n).find n line with
  | none => s
  | some (w, _) => s.evictLine n line w

/-! ## Composed accesses of cacheless agents (R250, R251) -/

/-- A non-allocating read of a line, or of some of its sectors where whole is false. -/
def State.ncRead (s : State) (r : Req) (line : Nat) (whole : Bool) (secs : BitVec 4 := 0xF) : State × Except MemErr LineData :=
  match s.homeNow r (line * 128) with
  | .error e => (s, .error e)
  | .ok (t, tma) =>
    match s.findLine t tma none r whole false with
    | (s, true) => (s, .error .busy)
    | (s, false) =>
      let (s, d) := s.homeNcRead t tma line r whole secs
      (s, .ok d)

/-- A non-allocating write of the bytes of mask in a line. -/
def State.ncWrite (s : State) (r : Req) (line : Nat) (d : LineData) (mask : BitVec 128) : State × Except MemErr Unit :=
  let full := decide (mask = allBytes)
  match s.homeNow r (line * 128) full with
  | .error e => (s, .error e)
  | .ok (t, tma) =>
    let (s, wait) := s.findLine t tma none r true true
    if wait then (s, .error .busy) else
    let one := [0, 1, 2, 3].any fun i => mask = BitVec.ofNat 128 ((2 ^ 32 - 1) * 2 ^ (32 * i))
    (s.homeNcWrite t tma line d mask r (r.ksp && one), .ok ())

/-- The bytes of a line at offset o, n of them. -/
def LineData.get (d : LineData) (o n : Nat) : Nat := fld d.data (8 * o) (8 * n)

/-- Whether one of the bytes o to o + n - 1 lies in a poisoned sector: the first such byte. -/
def LineData.poisonedAt (d : LineData) (o n : Nat) : Option Nat :=
  ((List.range n).map (o + ·)).find? fun i => d.poison.getLsbD (i / 32)

/-- R251, R160: an atomic at a home once its snoops are answered; it answers the old value, and whether that was
poisoned. -/
def State.finishAtom (s : State) (t tma : Nat) (r : Req) (o op at_ x y : Nat) (od : Option LineData) : State × Nat × Bool :=
  let n := atypeBytes at_
  let (s, b) := match od with
    | some d => (s, d)
    | none => s.homeRead t tma r false (secs := BitVec.ofNat 4 (2 ^ (o / 32)))
  let old := b.get o n
  let new := atomNew op at_ old x y
  let bad := (b.poisonedAt o n).isSome
  match od with
  | some d => (s.homeWrite t tma (d.merge (lineOfBytes o n new) (maskOfBytes o n)) allBytes r false false, old, bad)
  | none => (s.homeWrite t tma (lineOfBytes o n new) (maskOfBytes o n) r false false, old, bad)

/-- R251: ATOM_H composed: the recall of Table 8.4 and the operation. -/
def State.homeAtom (s : State) (t tma line : Nat) (r : Req) (o op at_ x y : Nat) : State × Nat × Bool :=
  let (s, od) := s.homeRecallFor t tma line
  s.finishAtom t tma r o op at_ x y od

/-- R251 for a cacheless agent. -/
def State.ncAtom (s : State) (r : Req) (pa op at_ x y : Nat) : State × Except MemErr (Nat × Bool) :=
  match s.homeNow r pa with
  | .error e => (s, .error e)
  | .ok (t, tma) =>
    let (s, wait) := s.findLine t tma none r false true
    if wait then (s, .error .busy) else
    let (s, v) := s.homeAtom t (tma / 128 * 128) (pa / 128) r (pa % 128) op at_ x y
    (s, .ok v)

end Sys2Proof.Machine
end

