-- ==== Sys2Proof/Machine/Xlat.lean ====
section
/-! DEFINITION. Address translation: Sv57 with Svnapot (R35 to R38), the floor translation units and the cores' TLBs (R233,
R234), and hardware update of A and D (R41). Replacement takes the oldest entry (log 24). -/

namespace Sys2Proof.Machine

/-- Why a translation or an access of a thread fails: a block-fault cause with its detail, or it waits. -/
inductive AccErr where
  | fault (cause : Nat) (detail : Nat)
  | busy
deriving DecidableEq, Repr

/-- A translated byte address: physical address and PBMT. -/
structure Phys where
  pa : Nat
  pbmt : Nat
deriving DecidableEq, Repr

/-- R124: canonical under Sv57. -/
def canonical (va : Nat) : Bool := fldN va 56 8 = 0 || fldN va 56 8 = 255

/-- R35, R64: ATP: MODE 10, ASID, root page. -/
def atpMode (atp : BitVec 64) : Nat := fld atp 60 4
def atpAsid (atp : BitVec 64) : Nat := fld atp 44 16
def atpRoot (atp : BitVec 64) : Nat := fld atp 0 44 * 4096

/-- R37: what an access needs of a leaf. -/
def permsOk (perms : BitVec 3) : Access → Bool
  | .load => bit perms 0
  | .store => bit perms 1
  | .atomic => bit perms 0 && bit perms 1
  | .fetch => bit perms 2

def accWrites : Access → Bool
  | .store => true | .atomic => true | .load => false | .fetch => false

/-- R233: whether an entry answers for an address. -/
def TlbEntry.matches_ (e : TlbEntry) (ctx asid va : Nat) : Bool :=
  decide (e.context = ctx) && (e.global_ || decide (e.asid.toNat = asid)) && decide (fldN va 0 57 / 2 ^ e.pageLog2 = e.vpage)

def TlbEntry.phys (e : TlbEntry) (va : Nat) : Phys := { pa := e.base + va % 2 ^ e.pageLog2, pbmt := e.pbmt.toNat }

/-- R233, R41: a cached translation serves an access, a write only once D was seen. -/
def TlbEntry.serves (e : TlbEntry) (acc : Access) : Bool := !accWrites acc || e.dirty

/-- An entry added to a list of at most n entries; the oldest goes. -/
def tlbAdd {α : Type} (n : Nat) (l : List α) (e : α) : List α := (l ++ [e]).drop ((l.length + 1) - n)

/-- R233: an entry added to an 8-way list of that many sets: the set is the low bits of the virtual page, and the oldest entry of a full set
goes (log 24). -/
def tlbAddWay (sets : Nat) (l : List TlbEntry) (e : TlbEntry) : List TlbEntry :=
  let mine := l.filter fun x => x.vpage % sets = e.vpage % sets
  match mine with
  | x :: _ => if 8 ≤ mine.length then l.erase x ++ [e] else l ++ [e]
  | [] => l ++ [e]

/-- R234: the requester that a floor translation unit is. -/
def State.walkReq (s : State) (t : Nat) : Req := { tile := t, part := s.partOf t, cls := 6 }

/-- R36, R234: one page-table entry, by a coherent read. -/
def State.readPte (s : State) (t pa va : Nat) : State × Except AccErr (BitVec 64) :=
  match s.ncRead (s.walkReq t) (pa / 128) true with
  | (s, .error .busy) => (s, .error .busy)
  | (s, .error _) => (s, .error (.fault 0x04 va))
  | (s, .ok d) =>
    if (d.poisonedAt (pa % 128) 8).isSome then (s, .error (.fault 0x0C pa))
    else (s, .ok (BitVec.ofNat 64 (d.get (pa % 128) 8)))

/-- R41: A, and D for a write, set in an entry by an atomic update; an update that cannot be made fails as the entry's read does. -/
def State.writePte (s : State) (t pa va : Nat) (v : BitVec 64) : State × Except AccErr Unit :=
  match s.ncWrite (s.walkReq t) (pa / 128) (lineOfBytes (pa % 128) 8 v.toNat) (maskOfBytes (pa % 128) 8) with
  | (s, .error .busy) => (s, .error .busy)
  | (s, .error _) => (s, .error (.fault 0x04 va))
  | (s, .ok ()) => (s, .ok ())

/-- The page size of a leaf: Svnapot makes 64 KiB at level 0. -/
def leafLog2 (level : Nat) (pte : BitVec 64) : Nat := if level = 0 && bit pte 63 then 16 else 12 + 9 * level

/-- R37: a leaf is well formed: reserved bits and PBMT, N only for 64 KiB, an aligned page, no W without R. -/
def leafOk (level : Nat) (pte : BitVec 64) : Bool :=
  fld pte 54 7 = 0 && decide (fld pte 61 2 ≠ 3) && (!bit pte 63 || (level = 0 && fld pte 10 4 = 8)) &&
  decide (fld pte 10 44 % 2 ^ (9 * level) = 0) && !(bit pte 2 && !bit pte 1)

/-- The entry that a leaf makes. -/
def leafEntry (ctx asid level va : Nat) (pte : BitVec 64) : TlbEntry :=
  let lg := leafLog2 level pte
  { context := ctx, asid := BitVec.ofNat 16 asid, global_ := bit pte 5, pageLog2 := lg, vpage := fldN va 0 57 / 2 ^ lg
    base := fld pte 10 44 * 4096 / 2 ^ lg * 2 ^ lg, perms := BitVec.ofNat 3 (fld pte 1 3), pbmt := BitVec.ofNat 2 (fld pte 61 2)
    dirty := bit pte 7 }

/-- R37, R41: a leaf met by a walk: its checks, and A and D. -/
def State.takeLeaf (s : State) (t ctx asid level pa va : Nat) (adHw : Bool) (acc : Access) (pte : BitVec 64) :
    State × Except AccErr TlbEntry :=
  let bad := AccErr.fault 0x04 va
  if !leafOk level pte || !bit pte 4 || !permsOk (BitVec.ofNat 3 (fld pte 1 3)) acc then (s, .error bad) else
  let need := !bit pte 6 || (accWrites acc && !bit pte 7)
  if !need then (s, .ok (leafEntry ctx asid level va pte)) else
  if !adHw then (s, .error bad) else
  let pte' := setBit (if accWrites acc then setBit pte 7 true else pte) 6 true
  match s.writePte t pa va pte' with
  | (s, .error e) => (s, .error e)
  | (s, .ok ()) => (s, .ok (leafEntry ctx asid level va pte'))

/-- R233: the non-leaf entry cached for a level of an address. -/
def Tile.cachedPte (k : Tile) (ctx asid level va : Nat) : Option (BitVec 64) :=
  (k.walkCache.find? fun e => e.context = ctx && e.asid.toNat = asid && e.level = level &&
    decide (e.vpage = fldN va 0 57 / 2 ^ (12 + 9 * level))).map (·.pte)

/-- R35, R234: a walk from a level down; table is the physical address of the level's table. -/
def State.walk (s : State) (t ctx asid : Nat) (adHw : Bool) (va : Nat) (acc : Access) :
    Nat → Nat → State × Except AccErr TlbEntry
  | level, table =>
    let pa := table + fldN va (12 + 9 * level) 9 * 8
    let cached := (s.tile t).cachedPte ctx asid level va
    let (s, e) := match cached with
      | some p => (s, Except.ok p)
      | none => s.readPte t pa va
    match e with
    | .error x => (s, .error x)
    | .ok pte =>
      let bad := AccErr.fault 0x04 va
      if !bit pte 0 then (s, .error bad)
      else if fld pte 1 3 ≠ 0 then s.takeLeaf t ctx asid level pa va adHw acc pte
      else if fld pte 54 10 ≠ 0 || fld pte 4 1 ≠ 0 || fld pte 6 2 ≠ 0 then (s, .error bad)
      else
        let w : WalkEntry := { context := ctx, asid := BitVec.ofNat 16 asid, level := level, vpage := fldN va 0 57 / 2 ^ (12 + 9 * level), pte := pte }
        let s := if cached.isNone then s.modTile t fun k => { k with walkCache := tlbAdd 4096 k.walkCache w } else s
        match level with
        | 0 => (s, .error bad)
        | n + 1 => s.walk t ctx asid adHw va acc n (fld pte 10 44 * 4096)
termination_by structural level => level

/-- R233: an entry put into the floor translation unit's TLB for its page size. -/
def State.floorInstall (s : State) (t : Nat) (e : TlbEntry) : State :=
  s.modTile t fun k =>
    if e.pageLog2 ≤ 16 then { k with tlbSmall := tlbAddWay 2048 k.tlbSmall e }
    else if e.pageLog2 ≤ 30 then { k with tlbMid := tlbAddWay 256 k.tlbMid e }
    else { k with tlbBig := tlbAdd 64 k.tlbBig e }

/-- R233, R234: translation by the floor translation unit of tile t: a hit, or a walk. -/
def State.floorXlat (s : State) (t ctx : Nat) (atp : BitVec 64) (adHw : Bool) (va : Nat) (acc : Access) :
    State × Except AccErr TlbEntry :=
  if !canonical va then (s, .error (.fault 0x04 va)) else
  let k := s.tile t
  let asid := atpAsid atp
  match (k.tlbSmall ++ k.tlbMid ++ k.tlbBig).find? fun e => e.matches_ ctx asid va && e.serves acc with
  | some e => if permsOk e.perms acc then (s, .ok e) else (s, .error (.fault 0x04 va))
  | none =>
    match s.walk t ctx asid adHw va acc 4 (atpRoot atp) with
    | (s, .ok e) => (s.floorInstall t e, .ok e)
    | (s, .error x) => (s, .error x)

/-- R233, R35: translation for a thread of a core: the core's TLB, then the floor translation unit. -/
def State.coreXlat (s : State) (c : Nat) (b : Block) (va : Nat) (acc : Access) : State × Except AccErr Phys :=
  if !canonical va then (s, .error (.fault 0x04 va)) else
  match (s.core c).tlb.find? fun e => e.matches_ b.context (atpAsid b.atp) va && e.serves acc with
  | some e => if permsOk e.perms acc then (s, .ok (e.phys va)) else (s, .error (.fault 0x04 va))
  | none =>
    match s.floorXlat (c / 128) b.context b.atp b.adHw va acc with
    | (s, .ok e) => (s.modCore c fun k => { k with tlb := tlbAdd 64 k.tlb e }, .ok (e.phys va))
    | (s, .error x) => (s, .error x)

end Sys2Proof.Machine
end

