-- ==== Sys2Proof/Machine/LdSt.lean ====
section
/-! DEFINITION. Loads and stores of threads (R43, R58, R59, R104, R124, R125, R226): where an access leads, the lines it
touches, and what it reads or writes. A group's accesses to one line are made as one (R226, R101); the stores of one
instruction take effect in ascending lane order (R59). -/

namespace Sys2Proof.Machine

/-- Where a thread's access leads (R43, R124). -/
inductive Place where
  | own (lane x : Nat)
  | member (lane m x : Nat)
  | mem (ps : List Piece)
deriving DecidableEq, Repr

/-- R43: the local aperture is 4 MiB. -/
def inAperture (b : Block) (va : Nat) : Bool := decide (b.aperture.toNat ≤ va) && decide (va < b.aperture.toNat + 2 ^ 22)

/-- The pieces of n bytes from va, split at lines; fuel is 2, for an access touches at most two lines. A piece in the aperture of an
access that begins outside it would lie partly in local memory: it faults with LOCAL_RANGE (DEDUCED, log 69). -/
def State.pieces (s : State) (c : Nat) (b : Block) (lane : Nat) (acc : Access) :
    Nat → Nat → Nat → Nat → State × Except AccErr (List Piece)
  | 0, _, _, _ => (s, .ok [])
  | fuel + 1, va, n, from_ =>
    if n = 0 then (s, .ok []) else
    let m := if 128 - va % 128 < n then 128 - va % 128 else n
    if inAperture b va then (s, .error (.fault 0x06 va)) else
    match s.coreXlat c b va acc with
    | (s, .error e) => (s, .error e)
    | (s, .ok p) =>
      match s.pieces c b lane acc fuel ((va + m) % 2 ^ 64) (n - m) (from_ + m) with
      | (s, .error e) => (s, .error e)
      | (s, .ok ps) => (s, .ok ({ lane := lane, from_ := from_, line := p.pa / 128, pbmt := p.pbmt, o := p.pa % 128, n := m } :: ps))

/-- R43, R59: the place of an access of n bytes at va; aligned: a misaligned access faults. -/
def State.placeOf (s : State) (c : Nat) (b : Block) (lane va n : Nat) (acc : Access) (aligned : Bool) :
    State × Except AccErr Place :=
  if aligned && va % n ≠ 0 then (s, .error (.fault 0x07 va))
  else if inAperture b va then
    let o := va - b.aperture.toNat
    let m := o / 0x80000
    let x := o % 0x80000
    if b.teamBlocks ≤ m || b.localBytes < x + n then (s, .error (.fault 0x06 va))
    else if m = b.member then (s, .ok (.own lane x)) else (s, .ok (.member lane m x))
  else match s.pieces c b lane acc 2 va n 0 with
    | (s, .error e) => (s, .error e)
    | (s, .ok ps) => (s, .ok (.mem ps))

/-- The places of the active threads' accesses, in lane order; addr gives a thread's address. -/
def State.places (s : State) (c : Nat) (b : Block) (n : Nat) (acc : Access) (aligned : Bool) (addr : Nat → Nat) :
    List Nat → State × Except AccErr (List (Nat × Place))
  | [] => (s, .ok [])
  | l :: ls =>
    match s.placeOf c b l (addr l) n acc aligned with
    | (s, .error e) => (s, .error e)
    | (s, .ok p) =>
      match s.places c b n acc aligned addr ls with
      | (s, .error e) => (s, .error e)
      | (s, .ok ps) => (s, .ok ((l, p) :: ps))

/-- The pieces among a list of places. -/
def memPieces (ps : List (Nat × Place)) : List Piece :=
  ps.flatMap fun p => match p.2 with
    | .mem l => l
    | .own _ _ => []
    | .member _ _ _ => []

/-- The lines that pieces touch, with their PBMT, in first use. -/
def linesOf (ps : List Piece) : List (Nat × Nat) := (ps.map fun p => (p.line, p.pbmt)).eraseDups

/-- The bytes of one line that pieces touch. -/
def touched (ps : List Piece) (line pbmt : Nat) : BitVec 128 :=
  (ps.filter fun p => p.line = line && p.pbmt = pbmt).foldl (fun m p => m ||| maskOfBytes p.o p.n) 0

/-- R226: the bytes lie in one 32-byte sector. -/
def oneSector (m : BitVec 128) : Bool := [0, 1, 2, 3].any fun i => m &&& ~~~ maskOfBytes (32 * i) 32 = 0

/-- The sectors that the bytes of a mask touch. -/
def sectorsOf (m : BitVec 128) : BitVec 4 := maskOf 4 ((List.range 4).filter fun i => m &&& maskOfBytes (32 * i) 32 ≠ 0)

/-- R226: the requester of a core's stream access. -/
def State.streamReq (s : State) (c : Nat) (b : Block) (ksp : Bool) : Req :=
  { tile := c / 128, part := s.partOf (c / 128), cls := if ksp then 4 else 1, stream := true, ksp := ksp, ctx := some b.context }

/-- The first physical address that pieces touch in a line. -/
def firstPa (ps : List Piece) (line : Nat) : Nat :=
  line * 128 + ((ps.find? (·.line = line)).map (·.o)).getD 0

/-- R30, R39: an error of memory as a thread's fault. -/
def memFault (e : MemErr) (pa : Nat) : AccErr := match e with
  | .busy => .busy
  | .decode => .fault 0x05 pa
  | .fenced => .fault 0x05 pa
  | .timeout => .fault 0x05 pa
  | .stopped => .fault 0x05 pa

/-- A line that is read for a core's threads: coherent lines through the L1, stream lines at the home (R58, R226). -/
def State.fetchLine (s : State) (c : Nat) (b : Block) (ps : List Piece) (line pbmt : Nat) : State × Except AccErr LineData :=
  let (s, r) :=
    if pbmt = 0 then s.getShared c line (some b.context)
    else let ksp := pbmt = 1 && oneSector (touched ps line pbmt)
      s.ncRead (s.streamReq c b ksp) line (!ksp) (if ksp then sectorsOf (touched ps line pbmt) else 0xF)
  (s, match r with | .ok d => .ok d | .error e => .error (memFault e (firstPa ps line)))

/-- The lines of a list fetched in order. -/
def State.fetchLines (s : State) (c : Nat) (b : Block) (ps : List Piece) :
    List (Nat × Nat) → State × Except AccErr (List ((Nat × Nat) × LineData))
  | [] => (s, .ok [])
  | (l, m) :: ls =>
    match s.fetchLine c b ps l m with
    | (s, .error e) => (s, .error e)
    | (s, .ok d) =>
      match s.fetchLines c b ps ls with
      | (s, .error e) => (s, .error e)
      | (s, .ok ds) => (s, .ok (((l, m), d) :: ds))

/-- The line that a piece reads from. -/
def lineFor (ds : List ((Nat × Nat) × LineData)) (p : Piece) : LineData :=
  ((ds.find? fun d => d.1.1 = p.line && d.1.2 = p.pbmt).map (·.2)).getD { data := 0, poison := 0 }

/-- The value of a thread's pieces. -/
def pieceValue (ds : List ((Nat × Nat) × LineData)) (ps : List Piece) : Nat :=
  ps.foldl (fun v p => v + (lineFor ds p).get p.o p.n * 256 ^ p.from_) 0

/-- R97, Table 3.8: the physical address of the first poisoned word that pieces read. -/
def piecePoison (ds : List ((Nat × Nat) × LineData)) (ps : List Piece) : Option Nat :=
  ps.findSome? fun p => ((lineFor ds p).poisonedAt p.o p.n).map fun i => p.line * 128 + i / 4 * 4

/-- n bytes of a block's own local memory (R43, R99). -/
def Core.localRead (k : Core) (b : Block) (x n : Nat) : Nat := cellsRead k.lmem (b.localBase + x) n
/-- The first poisoned word among them (R175). -/
def Core.localPoison (k : Core) (b : Block) (x n : Nat) : Option Nat :=
  ((List.range n).map (x + ·)).findSome? fun i => if k.lpoison.contains ((b.localBase + i) / 4) then some (i / 4 * 4) else none
/-- n bytes of local memory written; a word written whole is no longer poisoned. -/
def Core.localWrite (k : Core) (b : Block) (x n v : Nat) : Core :=
  let a := b.localBase + x
  { k with lmem := cellsWrite k.lmem a (leBytes n v)
           lpoison := k.lpoison.filter fun w => !(decide (a ≤ 4 * w) && decide (4 * w + 4 ≤ a + n)) }

/-- R124: the effective address. -/
def effAddr (g : Group) (f : Fields) (l : Nat) : Nat :=
  ((g.pair l f.src1.toNat) + BitVec.ofInt 64 (sgn (f.m 0 12) 12)).toNat

/-- ORDER and SCOPE (R125). -/
def orderOk (f : Fields) (allowed : List Nat) : Bool :=
  allowed.contains (f.m 12 2) && (decide (f.m 12 2 ≠ 0) || f.m 14 2 = 0)

/-- R71: the scope in force: package for an FT1 object. -/
def Block.scopeOf (b : Block) (scope : Nat) : Nat := if bit b.flags 0 then 2 else scope

/-- The crossbar requests of these threads that have not been answered. -/
def State.xbarOf (s : State) (w : Where) : List XbarReq :=
  (s.xbar.map (·.2)).filter fun x => x.core = w.core && x.block = w.block && x.group = w.group && !x.back &&
    x.parts.any fun p => w.lanes.getLsbD p.lane

/-- The remote transactions of these threads that have not been answered. -/
def State.remotesOf (s : State) (w : Where) : List Remote :=
  ((s.tile (w.core / 128)).remotes.map (·.2)).filter fun x => x.core = w.core && x.block = w.block && x.group = w.group &&
    w.lanes.getLsbD x.lane

/-- Table 2.3: whether the writes of these threads must still be waited for at a scope: those to other members' local memory from team
scope on, and remote ones at system scope. Coherent and stream stores are performed when issued (log 23). An atomic reads and
writes. -/
def State.writesWait (s : State) (w : Where) (b : Block) (scope : Nat) : Bool :=
  let k := b.scopeOf scope
  (decide (1 ≤ k) && (s.xbarOf w).any fun x => x.kind ≠ .load) ||
  (k = 3 && (s.remotesOf w).any fun x => x.frame.typ = 2 || x.frame.typ = 3)

/-- R53: whether the reads of these threads must still be waited for: those of other members' local memory, and remote ones at system
scope. -/
def State.readsWait (s : State) (w : Where) (b : Block) (scope : Nat) : Bool :=
  ((s.xbarOf w).any fun x => x.kind ≠ .store) ||
  (b.scopeOf scope = 3 && (s.remotesOf w).any fun x => x.frame.typ = 1 || x.frame.typ = 3)

/-- R53, Table 2.3: whether a release of these threads at a scope must still wait, for every earlier access. -/
def State.releaseWaits (s : State) (w : Where) (b : Block) (scope : Nat) : Bool := s.writesWait w b scope || s.readsWait w b scope

/-- R53, R55: whether an earlier acquire of these threads, on another member's local memory, still holds their later accesses back; or an
atomic of the group whose updates on its own core are not all performed (R254). -/
def State.acquireWaits (s : State) (w : Where) : Bool :=
  (s.xbarOf w).any (·.acq) || s.xbar.any fun x => x.2.core = w.core && x.2.block = w.block && x.2.group = w.group && x.2.here && x.2.done.isNone

/-! ## Bit errors of local memory (R488) -/

/-- R488: no word that n bytes of core c's local memory from a touch holds a bit error. -/
def State.localSound (s : State) (c a n : Nat) : Prop :=
  ∀ u ∈ s.upsets, u.mem = .localStore → u.unit = c → ¬ (a < 4 * u.word + 4 ∧ 4 * u.word < a + n)

/-- R488: the bit errors in ranges of a block's local memory, as (offset, bytes), are met as the ranges are read: a single one is
corrected and counted, and a double one leaves the word poisoned. -/
def State.settleLocal (s : State) (c : Nat) (b : Block) (rs : List (Nat × Nat)) : State :=
  let hit := fun (u : Upset) => decide (u.mem = .localStore) && decide (u.unit = c) &&
    rs.any fun r => decide (b.localBase + r.1 < 4 * u.word + 4) && decide (4 * u.word < b.localBase + r.1 + r.2)
  let us := s.upsets.filter hit
  us.foldl (fun s u =>
    let off := 4 * u.word - b.localBase
    if u.double then (s.modCore c fun k => { k with lpoison := numIns k.lpoison u.word }).uncorrected (c / 128) (s.coreUnit c) off 1
    else s.coreCorrected c off 1) { s with upsets := s.upsets.filter fun u => !hit u }

/-- R488: what a write of n bytes at x of a block's local memory does to bit errors: a word written whole loses its error, and one
written in part is read first. -/
def State.overwriteLocal (s : State) (c : Nat) (b : Block) (x n : Nat) : State :=
  let whole := fun (u : Upset) => decide (u.mem = .localStore) && decide (u.unit = c) && decide (b.localBase + x ≤ 4 * u.word) &&
    decide (4 * u.word + 4 ≤ b.localBase + x + n)
  { s with upsets := s.upsets.filter fun u => !whole u }.settleLocal c b [(x, n)]

/-- n bytes of a block's local memory written by a thread; the matrix instructions that read the bytes are tainted (R61). -/
def State.writeLocal (s : State) (c bi : Nat) (b : Block) (x n v : Nat) : State :=
  (s.overwriteLocal c b x n).modCore c fun k => (k.localWrite b x n v).taint bi x n

/-! ## The cell crossbar (R104) -/

/-- The sectors that n bytes at x of member m touch, with the bytes in each. -/
def xbarParts (n : Nat) (data : Nat → Nat × Nat) (p : Nat × Nat × Nat) : List ((Nat × Nat) × XbarPart) :=
  let (lane, m, x) := p
  let a := if 32 - x % 32 < n then 32 - x % 32 else n
  ((m, x / 32), { lane := lane, off := x, size := a, from_ := 0, data := data lane }) ::
  (if a < n then [((m, (x + a) / 32), { lane := lane, off := x + a, size := n - a, from_ := a, data := data lane })] else [])

/-- R104: the requests of one instruction over the cell crossbar, one for each member and sector, in ascending order; ms are the
threads with the member and the offset of each, n the bytes of an access, and data what each thread writes. The block counts the
requests until they are answered. Of an atomic, updates on the block's own member, and those of memory above the aperture, in lines, are
among them where they must wait for lower addresses (R254). -/
def State.sendXbar (s : State) (i : Issue) (ms : List (Nat × Nat × Nat)) (n : Nat) (kind : XbarKind) (data : Nat → Nat × Nat)
    (dst : Option Nat) (sext acq : Bool) (lines : List (List Piece) := []) : State :=
  let parts := ms.flatMap (xbarParts n data)
  let keys := (parts.map fun p => p.1.1 * 2 ^ 20 + p.1.2).foldl numIns []
  if keys.isEmpty then s else
  let team := kget {} s.teams i.block.team
  let first := s.nextXbar
  let now := s.coreCycles i.at_.core
  let req := fun (key : Nat) =>
    let m := key / 2 ^ 20
    let (tc, tb) := (team.members[m]?).getD (0, 0)
    ({ core := i.at_.core, block := i.at_.block, group := i.at_.group, team := i.block.team, pc := i.at_.pc, lanes := i.at_.lanes
       instr := first, member := m, tcore := tc, tblock := tb, sector := key % 2 ^ 20
       parts := (parts.filter fun p => p.1.1 * 2 ^ 20 + p.1.2 = key).map (·.2)
       kind := kind, size := n, dst := dst, sext := sext, acq := acq, here := m = i.block.member, sent := now } : XbarReq)
  let lineReq := fun (ps : List Piece) => ({ req (i.block.member * 2 ^ 20) with
    parts := ps.map fun p => { lane := p.lane, size := n, data := data p.lane }, here := true, pieces := ps } : XbarReq)
  let put := fun (s : State) (x : XbarReq) => { s with xbar := kset s.xbar s.nextXbar x, nextXbar := s.nextXbar + 1 }
  let s := (keys.map req ++ lines.map lineReq).foldl put s
  let regs := match dst with
    | some d => (List.range ((n + 3) / 4)).map (d + ·)
    | none => []
  s.modBlock i.at_.core i.at_.block fun b =>
    { b with xbarOut := b.xbarOut + keys.length + lines.length }.modGroup i.at_.group fun g => { g with pending := g.pending ++ regs }

/-- The accesses to other members among the places of the threads. -/
def memberPlaces (ps : List (Nat × Place)) : List (Nat × Nat × Nat) :=
  ps.filterMap fun p => match p.2 with
    | .member l m x => some (l, m, x)
    | .own _ _ => none
    | .mem _ => none

/-- The ranges of the block's own local memory among them. -/
def ownRanges (n : Nat) (ps : List (Nat × Place)) : List (Nat × Nat) :=
  ps.filterMap fun p => match p.2 with
    | .own _ x => some (x, n)
    | .member _ _ _ => none
    | .mem _ => none

/-- R124: the registers of a load's result: a narrow value is sign- or zero-extended over the register. -/
def loadRegs (dst : Nat) (size v : Nat) (sext : Bool) : List (Nat × BitVec 32) :=
  if size ≤ 2 then [(dst, BitVec.ofNat 32 (if sext then wrap (sgn v (8 * size)) 32 else v))]
  else (List.range (size / 4)).map fun k => (dst + k, BitVec.ofNat 32 (v / 2 ^ (32 * k)))

/-- What a load reads at the places of the threads: (lane, value), other members' threads left out. -/
def localOrMem (k : Core) (b : Block) (ds : List ((Nat × Nat) × LineData)) (n : Nat) (p : Nat × Place) : Option (Nat × Nat) :=
  match p.2 with
  | .own _ x => some (p.1, k.localRead b x n)
  | .mem ps => some (p.1, pieceValue ds ps)
  | .member _ _ _ => none

/-- The first poisoned word that a place reads, as DATA_POISON's detail. -/
def placePoison (k : Core) (b : Block) (ds : List ((Nat × Nat) × LineData)) (n : Nat) (p : Nat × Place) : Option Nat :=
  match p.2 with
  | .own _ x => (k.localPoison b x n).map (2 ^ 63 + ·)
  | .mem ps => piecePoison ds ps
  | .member _ _ _ => none

/-- An access error ends the instruction: a block fault, or a wait. -/
def State.accFail (s : State) (i : Issue) : AccErr → Attempt State
  | .busy => .error s
  | .fault cause detail => .ok (s.blockFault i.at_ cause detail)

/-- The body of a load of n bytes. -/
def runLoad (f : Fields) (n : Nat) (sext : Bool) (i : Issue) (s : State) : Attempt State :=
  let c := i.at_.core
  if s.acquireWaits i.at_ then .error s else
  match s.places c i.block n .load (f.m 12 2 = 1) (effAddr i.group f) i.active with
  | (s, .error e) => s.accFail i e
  | (s, .ok ps) =>
    match s.fetchLines c i.block (memPieces ps) (linesOf (memPieces ps)) with
    | (s, .error e) => s.accFail i e
    | (s, .ok ds) =>
      let s := s.settleLocal c i.block (ownRanges n ps)
      let k := s.core c
      match ps.findSome? (placePoison k i.block ds n) with
      | some d => .ok (s.blockFault i.at_ 0x0C d)
      | none =>
        let vals := ps.filterMap (localOrMem k i.block ds n)
        let g := vals.foldl (fun g (l, v) => g.write l { regs := loadRegs f.dst.toNat n v sext }) i.group
        let s := s.modGroup c i.at_.block i.at_.group fun _ => g.advance i.lanes
        .ok (s.sendXbar i (memberPlaces ps) n .load (fun _ => (0, 0)) (some f.dst.toNat) sext (f.m 12 2 = 1))

/-- Registers of a value of n bytes. -/
def sizeRegs (n : Nat) : Nat := if n = 16 then 4 else if n = 8 then 2 else 1

/-- LD (R124, R125): op[2:0] is the size, op[3] SEXT. -/
def execLd (g : GroupAt) (op : BitVec 6) (f : Fields) (s : State) : Res :=
  let o := op.toNat
  let n := 2 ^ (o % 8)
  let w := sizeRegs n
  let sext := bit op 3
  s.issueM (rd := w) g 6 o f
    (fun a => decide (o % 8 ≤ 4) && decide (o < 16) && (!sext || decide (o % 8 ≤ 1)) && orderOk f [0, 1] && regOk a f.dst w &&
      regOk a f.src1 2 && regOk a f.src2 0 && regOk a f.src3 0)
    (regList f.dst w ++ regList f.src1 2)
    (runLoad f n sext)

/-! ## Stores -/

/-- The pieces of one instruction that are performed on one line together, under one PBMT. -/
structure Batch where
  line : Nat
  pbmt : Nat
  pieces : List Piece
deriving DecidableEq, Repr

/-- A piece joins the last batch of its line where that has its PBMT, and begins a new one otherwise. -/
def addPiece : List Batch → Piece → List Batch
  | [], p => [{ line := p.line, pbmt := p.pbmt, pieces := [p] }]
  | b :: bs, p =>
    if b.line = p.line && b.pbmt = p.pbmt && bs.all (·.line ≠ p.line) then { b with pieces := b.pieces ++ [p] } :: bs
    else b :: addPiece bs p

/-- The pieces of a list, in batches that keep the order of those of one line. -/
def batchesOf (ps : List Piece) : List Batch := ps.foldl addPiece []

/-- The bytes that a line receives from the stores of a batch, in ascending lane order; val gives a thread's value. -/
def storeLine (val : Nat → Nat) (ps : List Piece) : LineData × BitVec 128 :=
  ps.foldl (fun (d, m) p =>
    let b := lineOfBytes p.o p.n (val p.lane / 256 ^ p.from_)
    (d.merge b (maskOfBytes p.o p.n), m ||| maskOfBytes p.o p.n)) ({ data := 0, poison := 0 }, 0)

/-- One batch stored: a coherent line in the L1, in M (R247); a stream line at its home, one whole sector through the KSP
(R58, R226). -/
def State.storeTo (s : State) (c : Nat) (b : Block) (val : Nat → Nat) (x : Batch) : State × Except AccErr Unit :=
  let (d, m) := storeLine val x.pieces
  let pa := firstPa x.pieces x.line
  if x.pbmt = 0 then
    match s.getOwned c x.line (some b.context) with
    | (s, .error e) => (s, .error (memFault e pa))
    | (s, .ok _) => (s.putOwned c x.line d m (some b.context), .ok ())
  else
    let ksp := x.pbmt = 1 && [0, 1, 2, 3].any fun i => m = maskOfBytes (32 * i) 32
    match s.ncWrite (s.streamReq c b ksp) x.line d m with
    | (s, .error e) => (s, .error (memFault e pa))
    | (s, .ok _) => (s, .ok ())

/-- The batches of a list stored in order. -/
def State.storeAll (s : State) (c : Nat) (b : Block) (val : Nat → Nat) : List Batch → State × Except AccErr Unit
  | [] => (s, .ok ())
  | x :: xs =>
    match s.storeTo c b val x with
    | (s, .error e) => (s, .error e)
    | (s, .ok _) => s.storeAll c b val xs

/-- The body of a store of n bytes; val gives a thread's value. -/
def runStore (f : Fields) (n : Nat) (val : Nat → Nat) (i : Issue) (s : State) : Attempt State :=
  let c := i.at_.core
  if s.acquireWaits i.at_ || (f.m 12 2 = 2 && s.releaseWaits i.at_ i.block (f.m 14 2)) then .error s else
  match s.places c i.block n .store (f.m 12 2 = 2) (effAddr i.group f) i.active with
  | (s, .error e) => s.accFail i e
  | (s, .ok ps) =>
    match s.storeAll c i.block val (batchesOf (memPieces ps)) with
    | (s, .error e) => s.accFail i e
    | (s, .ok _) =>
      let s := s.modGroup c i.at_.block i.at_.group fun g => g.advance i.lanes
      let s := ps.foldl (fun s p => match p.2 with
        | .own l x => s.writeLocal c i.at_.block i.block x n (val l)
        | .member _ _ _ => s
        | .mem _ => s) s
      .ok (s.sendXbar i (memberPlaces ps) n .store (fun l => (val l, 0)) none false false)

/-- ST (R124, R125): DATA is stored; DST and AUX are zero. -/
def execSt (g : GroupAt) (op : BitVec 6) (f : Fields) (s : State) : Res :=
  let o := op.toNat
  let n := 2 ^ (o % 8)
  let w := sizeRegs n
  s.issueM g 7 o f
    (fun a => decide (o ≤ 4) && orderOk f [0, 2] && regOk a f.src2 w && regOk a f.src1 2 && regOk a f.dst 0 && regOk a f.src3 0)
    (regList f.src2 w ++ regList f.src1 2)
    (fun i s => runStore f n (fun l => i.group.regs' l f.src2.toNat w % 256 ^ n) i s)

end Sys2Proof.Machine
end

