-- ==== Sys2Proof/Machine/Atom.lean ====
section
/-! DEFINITION. Atomics of threads (R60, R126, R252, R254), the group operations (R49, R128, R158), and the gathering of a
group operation or group-combined atomic until every live thread of its mask has arrived. -/

namespace Sys2Proof

open Machine

/-- ATYPE, RET and COMBINE of an ATOM instruction (R126). -/
def Fields.atype (f : Fields) : Nat := f.m 0 4
def Fields.ret (f : Fields) : Bool := f.m 4 1 = 1
def Fields.combine (f : Fields) : Bool := f.m 5 1 = 1

end Sys2Proof

namespace Sys2Proof.Machine

/-- Registers of a value of an ATYPE. -/
def atypeRegs (t : Nat) : Nat := if atypeBytes t = 8 then 2 else 1

/-- DATA of a thread, and the new value of CAS that follows it (R126). -/
def atomData (g : Group) (f : Fields) (l : Nat) : Nat × Nat :=
  let w := atypeRegs f.atype
  (g.regs' l f.src2.toNat w % 256 ^ atypeBytes f.atype, g.regs' l (f.src2.toNat + w) w % 256 ^ atypeBytes f.atype)

/-- R254: the threads that name bytes of one line applied in ascending lane order: the line afterwards and the old values. -/
def atomLine (op t : Nat) (data : Nat → Nat × Nat) (d : LineData) : List Piece → LineData × List (Nat × Nat)
  | [] => (d, [])
  | p :: ps =>
    let n := atypeBytes t
    let old := d.get p.o n
    let (x, y) := data p.lane
    let d := d.merge (lineOfBytes p.o n (atomNew op t old x y)) (maskOfBytes p.o n)
    let (d, olds) := atomLine op t data d ps
    (d, (p.lane, old) :: olds)

/-- The pieces of a list in ascending address order, those of one address in the order they have. -/
def insPiece (p : Piece) : List Piece → List Piece
  | [] => [p]
  | q :: ps => if p.line * 128 + p.o ≤ q.line * 128 + q.o then p :: q :: ps else q :: insPiece p ps
def sortPieces (ps : List Piece) : List Piece := ps.foldr insPiece []

/-- R254: updates in ascending address order, line by line; the line is held in M meanwhile, and written back and dropped
on a stream page (R60, R252). The first poisoned address stops the instruction; the updates below it are performed. -/
def State.atomLines (s : State) (c : Nat) (b : Block) (op t : Nat) (data : Nat → Nat × Nat) :
    List Batch → State × Except AccErr (List (Nat × Nat))
  | [] => (s, .ok [])
  | x :: xs =>
    match s.getOwned c x.line (some b.context) with
    | (s, .error e) => (s, .error (memFault e (firstPa x.pieces x.line)))
    | (s, .ok d) =>
      let bad := x.pieces.foldl (fun m p => if (d.poisonedAt p.o p.n).isSome then min m p.o else m) 128
      let mine := x.pieces.filter fun p => p.o < bad
      let (d', olds) := atomLine op t data d mine
      let m := mine.foldl (fun m p => m ||| maskOfBytes p.o p.n) 0
      let s := if mine.isEmpty then s else s.putOwned c x.line d' m (some b.context)
      let s := if x.pbmt = 0 then s else s.dropStream c x.line
      if bad < 128 then (s, .error (.fault 0x0C (x.line * 128 + (d.poisonedAt bad (atypeBytes t)).getD bad / 4 * 4)))
      else
        match s.atomLines c b op t data xs with
        | (s, .error e) => (s, .error e)
        | (s, .ok more) => (s, .ok (olds ++ more))

/-- Atomics on the block's own local memory, in ascending lane order. -/
def Core.atomLocal (k : Core) (bi : Nat) (b : Block) (op t : Nat) (data : Nat → Nat × Nat) :
    List (Nat × Place) → Core × List (Nat × Nat)
  | [] => (k, [])
  | (l, .own _ x) :: ps =>
    let n := atypeBytes t
    let old := k.localRead b x n
    let (u, v) := data l
    let k := (k.localWrite b x n (atomNew op t old u v)).taint bi x n
    let (k, olds) := k.atomLocal bi b op t data ps
    (k, (l, old) :: olds)
  | (_, .member _ _ _) :: ps => k.atomLocal bi b op t data ps
  | (_, .mem _) :: ps => k.atomLocal bi b op t data ps

/-- R254: whether an update comes after one on another member's local memory, in ascending order of the threads' addresses: the block's own
local memory after a lower member's, and memory above the aperture (log 42). -/
def atomLater (b : Block) (ps : List (Nat × Place)) (addr : Nat → Nat) (p : Nat × Place) : Bool :=
  match p.2 with
  | .member _ _ _ => true
  | .own _ _ => (memberPlaces ps).any fun m => decide (m.2.1 < b.member)
  | .mem _ => !(memberPlaces ps).isEmpty && decide (b.aperture.toNat ≤ addr p.1)

/-- The updates of a list on the local memory of the team's members, the block's own among them: lane, member and offset. -/
def localPlaces (b : Block) (ps : List (Nat × Place)) : List (Nat × Nat × Nat) :=
  ps.filterMap fun p => match p.2 with
    | .member l m x => some (l, m, x)
    | .own l x => some (l, b.member, x)
    | .mem _ => none

/-- An atomic of the threads of a list: the old values of the updates performed here and now. Those on other members' local memory are
sent (R104), and those on higher addresses follow them (R254). -/
def State.atomOn (s : State) (op : Nat) (f : Fields) (i : Issue) (lanes : List Nat) :
    State × Except AccErr (List (Nat × Nat)) :=
  let c := i.at_.core
  let n := atypeBytes f.atype
  let data := atomData i.group f
  let addr := fun (l : Nat) => (i.group.pair l f.src1.toNat).toNat
  match s.places c i.block n .atomic true addr lanes with
  | (s, .error e) => (s, .error e)
  | (s, .ok all) =>
    let ps := all.filter fun p => !atomLater i.block all addr p
    let later := all.filter (atomLater i.block all addr)
    let s := s.settleLocal c i.block (ownRanges n ps)
    match ps.findSome? (placePoison (s.core c) i.block [] n) with
    | some d => (s, .error (.fault 0x0C d))
    | none =>
      match s.atomLines c i.block op f.atype data (batchesOf (sortPieces (memPieces ps))) with
      | (s, .error e) => (s, .error e)
      | (s, .ok olds) =>
        let (k, own) := (s.core c).atomLocal i.at_.block i.block op f.atype data ps
        let s := s.modCore c fun _ => k
        let s := s.sendXbar i (localPlaces i.block later) n (.atomic op f.atype) data (if f.ret then some f.dst.toNat else none) false
          (f.m 12 2 % 2 = 1) ((batchesOf (sortPieces (memPieces later))).map (·.pieces))
        (s, .ok (olds ++ own))

/-- Old values returned in DST, as bits (R139). -/
def retWrites (f : Fields) (olds : List (Nat × Nat)) (g : Group) : Group :=
  if f.ret then olds.foldl (fun g (l, v) => g.write l { regs := regWrites f.dst (atypeRegs f.atype) v }) g else g

/-! ## Group operations (R128) -/

/-- R158: GRED over the contributing lanes. -/
def groupReduce (f : Fields) (g : Group) (contrib : List Nat) : Nat :=
  let t := f.atype
  let op := f.m 4 3
  let vals := lanes32.map fun l =>
    if contrib.contains l then g.regs' l f.src1.toNat (atypeRegs t) % 256 ^ atypeBytes t else redIdentity op t
  redTree (fun a b => atomNew op t a b 0) 5 vals

/-- R128: the lane whose value a shuffle takes. -/
def shflLane (op l n : Nat) : Option Nat :=
  let k := match op with
    | 3 => some n
    | 4 => if n ≤ l then some (l - n) else none
    | 5 => some (l + n)
    | _ => some (l ^^^ n)
  k.bind fun k => if k < 32 then some k else none

/-- What a thread of a group operation receives; contrib are the live threads of the mask whose guard is true (R115). A live thread of the
mask whose guard is false contributes nothing to VOTE.ALL, and so does not make it false (DESIGN CHOICE, log 95). -/
def groupResult (op : Nat) (f : Fields) (g : Group) (contrib : List Nat) (l : Nat) : Writes :=
  let votes := contrib.filter fun k => g.pred k f.src1.toNat
  match op with
  | 0 => { preds := [(f.dst.toNat, decide (votes.length = contrib.length))] }
  | 1 => { preds := [(f.dst.toNat, !votes.isEmpty)] }
  | 2 => { regs := [(f.dst.toNat, maskOf 32 votes)] }
  | 7 => { regs := regWrites f.dst (atypeRegs f.atype) (groupReduce f g contrib) }
  | _ =>
    let w := if f.m 0 1 = 1 then 2 else 1
    let src := shflLane op l (fld (g.reg l f.src2.toNat) 0 5)
    let v := match src with
      | some k => if contrib.contains k then g.regs' k f.src1.toNat w else 0
      | none => 0
    { regs := regWrites f.dst w v }

/-! ## Gathering (R49, R94, R128) -/

/-- R49: every live thread of the mask has arrived. -/
def Group.gathered (g : Group) (x : Gather) : Bool :=
  g.live.all fun l => !x.mask.getLsbD l || x.arrived.getLsbD l

/-- The group operation or combined atomic performed once it has gathered: its threads receive their results and go on.
It may have to wait. -/
def State.perform (s : State) (c b g : Nat) (x : Gather) : Attempt State :=
  let blk := s.block c b
  let grp := blk.group g
  let lanes := grp.live.filter fun l => x.arrived.getLsbD l
  let contrib := lanes.filter fun l => x.active.getLsbD l
  let finish := fun (k : Group) =>
    let k := { k with gathers := k.gathers.filter (· ≠ x) }
    (lanes.foldl (fun k l => k.modThread l fun t => { t with wait := .none }) k).advance lanes
  if x.cls = 8 then
    let i : Issue := { at_ := { core := c, block := b, group := g, lanes := x.arrived, pc := x.pc }
                       lanes := lanes, active := contrib, block := blk, group := grp }
    match s.atomOn x.op x.fields i contrib with
    | (s, .error e) => s.accFail i e
    | (s, .ok olds) => .ok (s.modGroup c b g fun k => finish (retWrites x.fields olds k))
  else
    let k := contrib.foldl (fun k l => k.write l (groupResult x.op x.fields grp contrib l)) grp
    .ok (s.modGroup c b g fun _ => finish k)

/-- The gathers of a group that have become complete, performed in order. -/
def State.settleGathers (s : State) (c b g : Nat) : List Gather → Attempt State
  | [] => .ok s
  | x :: xs =>
    let blk := s.block c b
    if decide (blk.phase = .running) && (blk.group g).gathered x then
      match s.perform c b g x with
      | .error u => .error u
      | .ok s => s.settleGathers c b g xs
    else s.settleGathers c b g xs

/-- R128: a subset arrives at a group operation; its mask is read from its lowest thread. -/
def State.arriveGather (s : State) (cls op : Nat) (f : Fields) (mask : BitVec 32) (i : Issue) : Attempt State :=
  let first := i.group.gathers.find? fun x => x.pc = i.at_.pc
  let fm := (first.map (·.mask)).getD mask
  if i.lanes.any (fun l => !mask.getLsbD l) || fm ≠ mask then
    .ok (s.blockFault i.at_ 0x02 (mask.toNat + fm.toNat * 2 ^ 32))
  else
    let x := first.getD { cls := cls, op := op, fields := f, mask := mask, pc := i.at_.pc, start := s.coreCycles i.at_.core }
    let x' := { x with arrived := x.arrived ||| maskOf 32 i.lanes, active := x.active ||| maskOf 32 i.active }
    let gs := if first.isSome then i.group.gathers.map fun y => if y = x then x' else y else i.group.gathers ++ [x']
    let g := { i.group with gathers := gs }
    let g := i.lanes.foldl (fun g l => g.modThread l fun t => { t with wait := .groupOp }) g
    let s := s.modGroup i.at_.core i.at_.block i.at_.group fun _ => g
    s.settleGathers i.at_.core i.at_.block i.at_.group [x']

/-- The lowest thread of a subset. -/
def Issue.low (i : Issue) : Nat := i.lanes.headD 0

/-- R126: the checks of an ATOM instruction. -/
def atomLegal (op : Nat) (f : Fields) (a : Nat) : Bool :=
  let t := f.atype
  let w := atypeRegs t
  atomAllowed op t && f.m 6 6 = 0 && orderOk f [0, 1, 2, 3] && regOk a f.src1 2 &&
  (if f.ret then regOk a f.dst w else f.dst = 0) &&
  (if op = 7 then (if w = 2 then regOk a f.src2 4 else decide (f.src2.toNat + 2 ≤ a)) else regOk a f.src2 w) &&
  (if f.combine then decide (op ≠ 7) && regOk a f.src3 1 else f.src3 = 0)

def atomUses (op : Nat) (f : Fields) : List Nat :=
  let w := atypeRegs f.atype
  (if f.ret then regList f.dst w else []) ++ regList f.src1 2 ++ regList f.src2 (if op = 7 then 2 * w else w) ++
  (if f.combine then [f.src3.toNat] else [])

/-- The body of an ATOM instruction. -/
def runAtom (op : Nat) (f : Fields) (i : Issue) (s : State) : Attempt State :=
  if s.acquireWaits i.at_ || (f.m 12 2 / 2 = 1 && s.releaseWaits i.at_ i.block (f.m 14 2)) then .error s
  else if f.combine then s.arriveGather 8 op f (i.group.reg i.low f.src3.toNat) i
  else
    match s.atomOn op f i i.active with
    | (s, .error e) => s.accFail i e
    | (s, .ok olds) =>
      .ok (s.modGroup i.at_.core i.at_.block i.at_.group fun g => (retWrites f olds g).advance i.lanes)

/-- An ATOM instruction. -/
def atomInstr (op : Nat) (g : GroupAt) (f : Fields) (s : State) : Res :=
  s.issueM (rd := if f.ret then atypeRegs f.atype else 0) g 8 op f (atomLegal op f) (atomUses op f) (runAtom op f)

/-- ATOM.ADD (Table 4.11). -/
def execAtomAdd (g : GroupAt) (f : Fields) (s : State) : Res := atomInstr 0 g f s
/-- ATOM.MIN. -/
def execAtomMin (g : GroupAt) (f : Fields) (s : State) : Res := atomInstr 1 g f s
/-- ATOM.MAX. -/
def execAtomMax (g : GroupAt) (f : Fields) (s : State) : Res := atomInstr 2 g f s
/-- ATOM.AND. -/
def execAtomAnd (g : GroupAt) (f : Fields) (s : State) : Res := atomInstr 3 g f s
/-- ATOM.OR. -/
def execAtomOr (g : GroupAt) (f : Fields) (s : State) : Res := atomInstr 4 g f s
/-- ATOM.XOR. -/
def execAtomXor (g : GroupAt) (f : Fields) (s : State) : Res := atomInstr 5 g f s
/-- ATOM.EXCH. -/
def execAtomExch (g : GroupAt) (f : Fields) (s : State) : Res := atomInstr 6 g f s
/-- ATOM.CAS. -/
def execAtomCas (g : GroupAt) (f : Fields) (s : State) : Res := atomInstr 7 g f s

/-- R128: a GRP instruction; the thread mask is in SRC3, and the first rd registers of uses are only written. -/
def groupInstr (op : Nat) (legal : Nat → Bool) (uses : List Nat) (g : GroupAt) (f : Fields) (s : State) (rd : Nat := 0) : Res :=
  s.issueM (rd := rd) g 10 op f (fun a => regOk a f.src3 1 && legal a) (uses ++ [f.src3.toNat])
    fun i s => s.arriveGather 10 op f (i.group.reg i.low f.src3.toNat) i

/-- A vote on predicate SRC1. -/
def voteInstr (op : Nat) (g : GroupAt) (f : Fields) (s : State) : Res :=
  groupInstr op (fun _ => f.mod = 0 && predOk f.dst && predOk f.src1 && f.src2 = 0) [] g f s

/-- VOTE.ALL (Table 4.12). -/
def execVoteAll (g : GroupAt) (f : Fields) (s : State) : Res := voteInstr 0 g f s
/-- VOTE.ANY. -/
def execVoteAny (g : GroupAt) (f : Fields) (s : State) : Res := voteInstr 1 g f s
/-- BALLOT. -/
def execBallot (g : GroupAt) (f : Fields) (s : State) : Res :=
  groupInstr 2 (fun a => f.mod = 0 && regOk a f.dst 1 && predOk f.src1 && f.src2 = 0) (regList f.dst 1) g f s (rd := 1)

/-- A shuffle; WIDE moves pairs. -/
def shflInstr (op : Nat) (g : GroupAt) (f : Fields) (s : State) : Res :=
  let w := if f.m 0 1 = 1 then 2 else 1
  groupInstr op (fun a => f.m 1 15 = 0 && regOk a f.dst w && regOk a f.src1 w && regOk a f.src2 1)
    (regList f.dst w ++ regList f.src1 w ++ [f.src2.toNat]) g f s (rd := w)

/-- SHFL.IDX. -/
def execShflIdx (g : GroupAt) (f : Fields) (s : State) : Res := shflInstr 3 g f s
/-- SHFL.UP. -/
def execShflUp (g : GroupAt) (f : Fields) (s : State) : Res := shflInstr 4 g f s
/-- SHFL.DOWN. -/
def execShflDown (g : GroupAt) (f : Fields) (s : State) : Res := shflInstr 5 g f s
/-- SHFL.XOR. -/
def execShflXor (g : GroupAt) (f : Fields) (s : State) : Res := shflInstr 6 g f s

/-- GRED (R128, R158): AND, OR and XOR take integer types. -/
def execGred (g : GroupAt) (f : Fields) (s : State) : Res :=
  let w := atypeRegs f.atype
  groupInstr 7 (fun a => f.m 7 9 = 0 && decide (f.atype < 8) && decide (f.m 4 3 ≤ 5) && (decide (f.atype < 4) || decide (f.m 4 3 < 3)) &&
      regOk a f.dst w && regOk a f.src1 w && f.src2 = 0)
    (regList f.dst w ++ regList f.src1 w) g f s (rd := w)

end Sys2Proof.Machine
end

