-- ==== Sys2Proof/Machine/Sync.lean ====
section
/-! DEFINITION. Barriers (R90 to R95), tokens (R108, R109), control flow (R118, R119), fences (R129), matrix and tile issue
(R106, R107, R130) and special registers (R131). -/

namespace Sys2Proof.Machine

/-! ## Completion of barriers -/

/-- R90: a group has arrived: every live thread waits at the slot. -/
def Group.arrivedAt (g : Group) (w : WaitFor) : Bool := g.live.all fun l => decide ((g.thread l).wait = w)

/-- Threads that wait at a slot go on. -/
def Group.release (g : Group) (w : WaitFor) : Group :=
  let ls := g.live.filter fun l => decide ((g.thread l).wait = w)
  (ls.foldl (fun g l => g.modThread l fun t => { t with wait := .none }) g).advance ls

/-- R90: every group of a block arrived at a wait. -/
def Block.allArrived (b : Block) (w : WaitFor) : Bool := b.groups.all fun g => g.2.arrivedAt w

def Block.releaseAll (b : Block) (w : WaitFor) : Block := { b with groups := b.groups.map fun (k, g) => (k, g.release w) }

/-- The threads of a group that wait at a slot, as a position. -/
def Group.waiters (g : Group) (c b gi : Nat) (w : WaitFor) : Where :=
  { core := c, block := b, group := gi, lanes := maskOf 32 (g.live.filter fun l => decide ((g.thread l).wait = w)), pc := 0 }

/-- R50, R53: whether the release that a barrier implies, at a scope, still waits for an access of the threads at a slot. -/
def State.slotWaits (s : State) (c b : Nat) (blk : Block) (w : WaitFor) (scope : Nat) : Bool :=
  blk.groups.any fun (gi, g) => s.releaseWaits (g.waiters c b gi w) blk scope

/-- R50, R90: a block barrier slot completes when every group of its mask has arrived and the release at block scope has completed. -/
def State.settleSlot (s : State) (c b k : Nat) : State :=
  let blk := s.block c b
  let x := kget {} blk.bars k
  if x.open_ && (setBits x.mask).all (fun g => (blk.group g).arrivedAt (.blockBarrier k)) && !s.slotWaits c b blk (.blockBarrier k) 0 then
    s.modBlock c b fun blk => { blk.releaseAll (.blockBarrier k) with bars := kset blk.bars k {} }
  else s

/-- R91: whether a member of a team has arrived at a slot: its block is still there, every live thread waits, and the release at team
scope has completed. -/
def State.memberArrived (s : State) (team k : Nat) (p : Nat × Nat) : Bool :=
  match kfind (s.core p.1).blocks p.2 with
  | none => true
  | some blk => decide (blk.team ≠ team) || (blk.allArrived (.teamBarrier k) && !s.slotWaits p.1 p.2 blk (.teamBarrier k) 1)

/-- R91: a team barrier slot completes when every member of its mask has arrived. -/
def State.settleTeamSlot (s : State) (team k : Nat) : State :=
  let t := kget {} s.teams team
  let x := kget {} t.bars k
  let ms := (setBits x.mask).filterMap fun m => t.members[m]?
  if x.open_ && ms.all (s.memberArrived team k) then
    let s := { s with teams := kset s.teams team { t with bars := kset t.bars k {} } }
    t.members.foldl (fun s (c, b) => match kfind (s.core c).blocks b with
      | some x => if x.team = team then s.modBlock c b fun x => x.releaseAll (.teamBarrier k) else s
      | none => s) s
  else s

/-- Everything of a running block that may have become complete: gathered group operations, block barriers, team
barriers. -/
def State.settle (s : State) (c b : Nat) : Attempt State :=
  match kfind (s.core c).blocks b with
  | none => .ok s
  | some blk =>
    if blk.phase ≠ .running then .ok s else
    let gathers := blk.groups.foldl (fun (o : Attempt State) (g, x) => o.bind fun s => s.settleGathers c b g x.gathers) (.ok s)
    gathers.map fun s =>
      let s := if decide ((s.block c b).phase = .running) then (List.range 4).foldl (fun s k => s.settleSlot c b k) s else s
      (s.settleTeamSlot blk.team 0).settleTeamSlot blk.team 1

/-! ## Barriers -/

/-- R90, R93: a subset arrives at a block barrier slot with a mask. -/
def arriveBlockBarrier (k : Nat) (mask : BitVec 32) (i : Issue) (s : State) : Attempt State :=
  let x := kget {} i.block.bars k
  let first := if x.open_ then x.mask else mask
  if !mask.getLsbD i.at_.group || first ≠ mask || mask.toNat / 2 ^ i.block.groupCount ≠ 0 then
    .ok (s.blockFault i.at_ 0x02 (mask.toNat + first.toNat * 2 ^ 32))
  else
    let now := s.coreCycles i.at_.core
    let s := s.modBlock i.at_.core i.at_.block fun b =>
      let b := if x.open_ then b else { b with bars := kset b.bars k { mask := mask, open_ := true, start := now, pc := i.at_.pc } }
      b.modGroup i.at_.group fun g => i.lanes.foldl (fun g l => g.modThread l fun t => { t with wait := .blockBarrier k }) g
    s.settle i.at_.core i.at_.block

/-- R91 to R93, R129: a subset arrives at a team barrier slot with a mask. -/
def arriveTeamBarrier (k : Nat) (mask : BitVec 32) (i : Issue) (s : State) : Attempt State :=
  let t := kget {} s.teams i.block.team
  let x := kget {} t.bars k
  let first := if x.open_ then x.mask else mask
  if mask.toNat / 256 ≠ 0 || !mask.getLsbD i.block.member || first ≠ mask || mask.toNat / 2 ^ i.block.teamBlocks ≠ 0 then
    .ok (s.blockFault i.at_ 0x02 (fld mask 0 8 + fld first 0 8 * 2 ^ 32))
  else
    let now := s.arithCycles (i.at_.core / 128)
    let s := if x.open_ then s else
      { s with teams := kset s.teams i.block.team { t with bars := kset t.bars k { mask := mask, open_ := true, start := now, pc := i.at_.pc } } }
    let s := s.modGroup i.at_.core i.at_.block i.at_.group fun g =>
      i.lanes.foldl (fun g l => g.modThread l fun t => { t with wait := .teamBarrier k }) g
    s.settle i.at_.core i.at_.block

/-- BAR.BLOCK: slot IMM16[1:0], mask in SRC1 (Table 4.13). -/
def execBarBlock (g : GroupAt) (f : Fields) (s : State) : Res :=
  s.issueM g 0xB 0x00 f (fun a => f.mod = 0 && decide (f.imm16 < 4) && f.dst = 0 && regOk a f.src1 1) [f.src1.toNat]
    fun i s => arriveBlockBarrier f.imm16 (i.group.reg i.low f.src1.toNat) i s

/-- BAR.TEAM: slot IMM16[0], mask in SRC1[7:0]. -/
def execBarTeam (g : GroupAt) (f : Fields) (s : State) : Res :=
  s.issueM g 0xB 0x01 f (fun a => f.mod = 0 && decide (f.imm16 < 2) && f.dst = 0 && regOk a f.src1 1) [f.src1.toNat]
    fun i s => arriveTeamBarrier f.imm16 (i.group.reg i.low f.src1.toNat) i s

/-- R53: whether a fence must wait: for unanswered reads and writes of its predecessor set. -/
def State.fenceWaits (s : State) (w : Where) (b : Block) (pre scope : Nat) : Bool :=
  (fldN pre 1 1 = 1 && s.writesWait w b scope) || (fldN pre 0 1 = 1 && s.readsWait w b scope)

/-- FENCE (R129): it completes once its predecessors have been performed at its scope. -/
def execFence (g : GroupAt) (f : Fields) (s : State) : Res :=
  s.issueM g 0xB 0x02 f
    (fun _ => f.m 0 14 = 0 && decide (f.imm16 < 16) && decide (f.imm16 % 4 ≠ 0) && decide (f.imm16 / 4 ≠ 0) && f.dst = 0 && f.src1 = 0)
    [] fun i s =>
      if !i.active.isEmpty && s.fenceWaits i.at_ i.block (f.imm16 % 4) (f.m 14 2) then .error s
      else .ok (s.modGroup i.at_.core i.at_.block i.at_.group fun g => g.advance i.lanes)

/-! ## Tokens (R108, R109) -/

/-- R109: whether a wait on a token of a block completes. A slot that was never allocated holds no instruction, so that a wait on it
completes whatever the generation (DESIGN CHOICE, log 74). -/
def Core.tokenDone (k : Core) (b : Nat) (tok : BitVec 32) : Bool :=
  let t := kget {} k.tokens (fld tok 0 6)
  tok = 0 || decide (t.gen.toNat ≠ fld tok 6 26) || !t.used || decide (t.block ≠ b) || !t.busy

/-- R85: threads of a block whose token wait has completed go on; the wait timer of a group without waits stops. While waits of a group
overlap, its one timer runs from the first of them (DESIGN CHOICE, log 75). -/
def State.wakeTokens (s : State) (c b : Nat) : State :=
  let k := s.core c
  if (kfind k.blocks b).isNone then s else
  s.modBlock c b fun x => { x with groups := x.groups.map fun (gi, g) =>
    let woken := g.live.filter fun l => match (g.thread l).wait with
      | .token t => k.tokenDone b t
      | .none => false
      | .blockBarrier _ => false
      | .teamBarrier _ => false
      | .groupOp => false
    let g := (woken.foldl (fun g l => g.modThread l fun t => { t with wait := .none }) g).advance woken
    let still := g.live.any fun l => match (g.thread l).wait with
      | .token _ => true
      | .none => false
      | .blockBarrier _ => false
      | .teamBarrier _ => false
      | .groupOp => false
    (gi, if still then g else { g with waitStart := none }) }

/-- TWAIT (R109): the threads wait until the token's instruction has completed. Where their tokens differ, the lowest active thread's is
the one that the subset waits on (DESIGN CHOICE, log 76). -/
def execTwait (g : GroupAt) (f : Fields) (s : State) : Res :=
  s.issue g 0xB 0x03 f (fun a => f.mod = 0 && f.imm16 = 0 && f.dst = 0 && regOk a f.src1 1) [f.src1.toNat] fun i s =>
    let tok := i.group.reg (i.active.headD 0) f.src1.toNat
    if i.active.isEmpty || (s.core i.at_.core).tokenDone i.at_.block tok then
      s.modGroup i.at_.core i.at_.block i.at_.group fun g => g.advance i.lanes
    else
      let now := s.coreCycles i.at_.core
      s.modGroup i.at_.core i.at_.block i.at_.group fun g =>
        let g := i.active.foldl (fun g l => g.modThread l fun t => { t with wait := .token tok }) g
        let g := { g with waitStart := match g.waitStart with | some t => some t | none => some now }
        g.advance (i.lanes.filter fun l => !i.active.contains l)

/-- TPOLL: predicate DST := the token is complete (R129). -/
def execTpoll (g : GroupAt) (f : Fields) (s : State) : Res :=
  s.issue g 0xB 0x04 f (fun a => f.mod = 0 && f.imm16 = 0 && predOk f.dst && regOk a f.src1 1) [f.src1.toNat] fun i s =>
    perThread (fun t l => { preds := [(f.dst.toNat, (s.core i.at_.core).tokenDone i.at_.block (t.reg l f.src1.toNat))] }) i s

/-- R108: the lowest-numbered free slot. -/
def Core.freeToken (k : Core) : Option Nat := (List.range 64).find? fun n => !(kget {} k.tokens n).busy

/-- R108: the generation after one: it skips 0. -/
def nextGen (g : BitVec 26) : BitVec 26 := if g + 1 = 0 then 1 else g + 1

/-- R108: a slot allocated to a block: the core and the token. -/
def Core.takeToken (k : Core) (n b : Nat) : Core × BitVec 32 :=
  let g := nextGen (kget {} k.tokens n).gen
  ({ k with tokens := kset k.tokens n { gen := g, busy := true, used := true, block := b } }, BitVec.ofNat 32 (n + g.toNat * 64))

/-- R106, R107, R130: an instruction issued once, by the lowest active thread, into its queue; its token goes to every active
thread. With a full queue it waits (R80). -/
def runMtx (f : Fields) (tile : Bool) (i : Issue) (s : State) : Attempt State :=
  let go := fun (s : State) => s.modGroup i.at_.core i.at_.block i.at_.group fun g => g.advance i.lanes
  match i.active with
  | [] => .ok (go s)
  | l :: _ =>
    let k := s.core i.at_.core
    let q := i.group.quarter
    let full := if tile then decide (8 ≤ (kget [] k.tileQ q).length) else decide (16 ≤ k.matrixQ.length)
    match k.freeToken with
    | none => .error s
    | some n =>
      if full || s.acquireWaits i.at_ then .error s else
      let (k, tok) := k.takeToken n i.at_.block
      let op : EngineOp := { token := tok, block := i.at_.block, group := i.at_.group, lanes := i.at_.lanes, pc := i.at_.pc
                             desc := i.group.reg l f.src1.toNat, accepted := s.coreCycles i.at_.core
                             side := if !tile && f.m 0 1 = 1 then some (i.group.reg l f.src2.toNat) else none }
      let k := if tile then { k with tileQ := kset k.tileQ q (kget [] k.tileQ q ++ [op]) } else { k with matrixQ := k.matrixQ ++ [op] }
      let s := s.modCore i.at_.core fun _ => k
      let s := s.modGroup i.at_.core i.at_.block i.at_.group fun g =>
        i.active.foldl (fun g l => g.write l { regs := [(f.dst.toNat, tok)] }) g
      .ok (go s)

/-- MMA (R130). -/
def execMma (g : GroupAt) (f : Fields) (s : State) : Res :=
  s.issueM (rd := 1) g 0xC 0x00 f (fun a => f.m 1 15 = 0 && regOk a f.dst 1 && regOk a f.src1 1 && regOk a f.src2 (f.m 0 1) && f.src3 = 0)
    (regList f.dst 1 ++ regList f.src1 1 ++ regList f.src2 (f.m 0 1)) (runMtx f false)

/-- TILE (R130). -/
def execTile (g : GroupAt) (f : Fields) (s : State) : Res :=
  s.issueM (rd := 1) g 0xC 0x01 f (fun a => f.mod = 0 && regOk a f.dst 1 && regOk a f.src1 1 && f.src2 = 0 && f.src3 = 0)
    (regList f.dst 1 ++ regList f.src1 1) (runMtx f true)

/-! ## Control flow (Table 4.5) -/

/-- R119: active threads take their targets, the others fall through. -/
def branchTo (target : Nat → BitVec 64) (g : Group) (i : Issue) : Group :=
  i.active.foldl (fun g l => g.modThread l fun t => { t with pc := target l })
    (g.advance (i.lanes.filter fun l => !i.active.contains l))

/-- R119: PC + 8 x TGT, TGT signed. -/
def relTarget (pc : BitVec 64) (f : Fields) : BitVec 64 := pc + BitVec.ofInt 64 (8 * sgn f.imm32 32)

/-- NOP (R118); and R114: a word whose class or opcode is unassigned faults with ILLEGAL_INSTRUCTION. Bits [9:0] of another row come
with that row, and do nothing here. -/
def execNop (g : GroupAt) (f : NopWord) (s : State) : Res :=
  let x := f.fields
  if f.head = 0 then s.vector g 0 0x00 x (fun _ => x.dst = 0 && x.src1 = 0 && x.src2 = 0 && x.src3 = 0 && x.mod = 0) [] fun _ _ => {}
  else if (rowOf (fld f.head 0 4) (fld f.head 4 6)).isSome then .next s
  else s.vector g (fld f.head 0 4) (fld f.head 4 6) x (fun _ => false) [] fun _ _ => {}

/-- BRA. -/
def execBra (g : GroupAt) (f : Fields) (s : State) : Res :=
  s.issue g 0 0x01 f (fun _ => f.dst = 0 && f.src1 = 0) [] fun i s =>
    s.modGroup i.at_.core i.at_.block i.at_.group fun k => branchTo (fun _ => relTarget i.at_.pc f) k i

/-- The return address written to the DST pair of the active threads. -/
def linkPair (f : Fields) (i : Issue) (g : Group) : Group :=
  i.active.foldl (fun g l => g.write l { regs := regWrites f.dst 2 (i.at_.pc + 8).toNat }) g

/-- CALL. -/
def execCall (g : GroupAt) (f : Fields) (s : State) : Res :=
  s.issue (rd := 2) g 0 0x02 f (fun a => regOk a f.dst 2 && f.src1 = 0) (regList f.dst 2) fun i s =>
    s.modGroup i.at_.core i.at_.block i.at_.group fun k => branchTo (fun _ => relTarget i.at_.pc f) (linkPair f i k) i

/-- R119: the first active thread whose target is misaligned. -/
def badTarget (f : Fields) (i : Issue) : Option (BitVec 64) :=
  (i.active.map fun l => i.group.pair l f.src1.toNat).find? fun t => decide (fld t 0 3 ≠ 0)

/-- JMP (R119): a misaligned target faults. -/
def execJmp (g : GroupAt) (f : Fields) (s : State) : Res :=
  s.issue g 0 0x03 f (fun a => f.dst = 0 && regOk a f.src1 2 && f.src2 = 0 && f.src3 = 0 && f.mod = 0) (regList f.src1 2) fun i s =>
    match badTarget f i with
    | some t => s.blockFault i.at_ 0x07 t.toNat
    | none => s.modGroup i.at_.core i.at_.block i.at_.group fun k => branchTo (fun l => i.group.pair l f.src1.toNat) k i

/-- CALLR. -/
def execCallr (g : GroupAt) (f : Fields) (s : State) : Res :=
  s.issue (rd := 2) g 0 0x04 f (fun a => regOk a f.dst 2 && regOk a f.src1 2 && f.src2 = 0 && f.src3 = 0 && f.mod = 0)
    (regList f.dst 2 ++ regList f.src1 2) fun i s =>
    match badTarget f i with
    | some t => s.blockFault i.at_ 0x07 t.toNat
    | none => s.modGroup i.at_.core i.at_.block i.at_.group fun k =>
        branchTo (fun l => i.group.pair l f.src1.toNat) (linkPair f i k) i

/-- EXIT: the active threads exit, and from then on count as arrived (R49, R90). -/
def execExit (g : GroupAt) (f : Fields) (s : State) : Res :=
  s.issueM g 0 0x05 f (fun _ => f.dst = 0 && f.src1 = 0 && f.src2 = 0 && f.src3 = 0 && f.mod = 0) [] fun i s =>
    let s := s.modGroup i.at_.core i.at_.block i.at_.group fun g =>
      i.active.foldl (fun g l => g.modThread l fun t => { t with exited := true })
        (g.advance (i.lanes.filter fun l => !i.active.contains l))
    s.settle i.at_.core i.at_.block

/-- YIELD (R86): the subset is held until every other eligible subset has issued; alone it has no effect. A subset that this very issue
releases was not eligible when it executed (DESIGN CHOICE, log 94). -/
def execYield (g : GroupAt) (f : Fields) (s : State) : Res :=
  s.issue g 0 0x06 f (fun _ => f.dst = 0 && f.src1 = 0 && f.src2 = 0 && f.src3 = 0 && f.mod = 0) [] fun i s =>
    let others := i.group.eligible.filter (· ≠ i.at_.pc)
    s.modGroup i.at_.core i.at_.block i.at_.group fun g =>
      let g := g.advance i.lanes
      if i.active.isEmpty || others.isEmpty then g else { g with held := g.held ++ [(maskOf 32 i.active, others)] }

/-- TRAP: block fault SOFTWARE_TRAP with the immediate. -/
def execTrap (g : GroupAt) (f : Fields) (s : State) : Res :=
  s.issue g 0 0x07 f (fun _ => f.dst = 0 && f.src1 = 0 && f.mod = 0) [] fun i s =>
    if i.active.isEmpty then s.modGroup i.at_.core i.at_.block i.at_.group fun g => g.advance i.lanes
    else s.blockFault i.at_ 0x0D f.imm16

/-! ## Special registers (R131, Table 4.16) -/

/-- Width in registers of a special register; none: not in the table. -/
def sregRegs (n : Nat) : Option Nat :=
  if n ≤ 0x0D then some 1 else if n = 0x0E || n = 0x0F then some 2 else if n = 0x10 then some 1
  else if n = 0x20 || n = 0x21 || n = 0x22 then some 1
  else if n = 0x28 || n = 0x29 || n = 0x2A || n = 0x2B then some 2 else none

/-- R131: the value of a special register for a lane. -/
def State.sreg (s : State) (i : Issue) (n l : Nat) : Nat :=
  let b := i.block
  match n with
  | 0x00 => l
  | 0x01 => i.at_.group
  | 0x02 => i.at_.group * 32 + l
  | 0x03 => b.groupCount
  | 0x04 => b.member
  | 0x05 => b.teamBlocks
  | 0x06 => b.teamX.toNat
  | 0x07 => b.teamY.toNat
  | 0x08 => b.teamZ.toNat
  | 0x09 => b.gridX.toNat
  | 0x0A => b.gridY.toNat
  | 0x0B => b.gridZ.toNat
  | 0x0C => i.at_.lanes.toNat
  | 0x0D => b.localBytes
  | 0x0E => b.args.toNat
  | 0x0F => b.aperture.toNat
  | 0x10 => b.flags.toNat
  | 0x20 => i.at_.core
  | 0x21 => i.group.quarter
  | 0x22 => i.group.slot
  | 0x28 => (s.die (i.at_.core / 128)).time.toNat
  | 0x29 => s.coreCycles i.at_.core
  | 0x2A => i.group.issued.toNat
  | _ => (kget 0 (s.die (i.at_.core / 128)).satCell (i.at_.core / 8 % 16)).toNat

/-- SRD. -/
def execSrd (g : GroupAt) (f : Fields) (s : State) : Res :=
  let n := f.imm16
  let w := (sregRegs n).getD 1
  s.issue (rd := w) g 0xD 0x00 f (fun a => f.mod = 0 && f.src1 = 0 && decide (n < 256) && (sregRegs n).isSome && regOk a f.dst w) (regList f.dst w)
    fun i s => perThread (fun _ l => { regs := regWrites f.dst w (s.sreg i n l) }) i s

end Sys2Proof.Machine
end

