-- ==== Sys2Proof/Machine/CoreEvents.lean ====
section
/-! DEFINITION. Events of the compute core (R94 to R105, R488), its retirement (R461, R462), the local store's conversions
(R99, R100), instruction-cache misses (R110) and the low-power states of quarters, regions and dies (R26 to R28). An event
whose condition does not hold does not occur: the state stays. -/

namespace Sys2Proof.Machine

/-! ## Release of a block (R97 step 5, R488) -/

/-- The granules of a block's local memory. -/
def Block.granules (b : Block) : List Nat := (List.range (b.localBytes / 1024)).map (b.localBase / 1024 + ·)

/-- R100: sections in which no granule is allocated, from now on. -/
def Core.markIdle (k : Core) (now : Nat) (freed : Block) : Core :=
  let free := fun (sec : Nat) => k.blocks.all fun (_, b) => b.granules.all fun g => 11 - g / 32 ≠ sec
  { k with sections := (freed.granules.map fun g => 11 - g / 32).eraseDups.foldl (fun m sec =>
      if free sec then kmod {} m sec fun x => { x with idleSince := now } else m) k.sections }

/-- R343: all teams of a launch. -/
def Launch.teams (l : Launch) : Nat := l.gridX * l.gridY * l.gridZ

/-- R70, R343: a launch of which a block has ended. -/
def Run.blockEnded (r : Run) (n : Nat) : Run :=
  { r with launches := r.launches.mapIdx fun k l =>
      if k = n then
        let live := l.live - 1
        { l with live := live, done := l.done || (live = 0 && (l.placed = l.teams || decide (r.stage ≠ .running))) }
      else l }

/-- A block's position, registers, barrier slots and local memory are released; the team goes with its last block (R92). -/
def State.releaseBlock (s : State) (c b : Nat) : State :=
  match kfind (s.core c).blocks b with
  | none => s
  | some blk =>
    let now := s.coreCycles c
    let s := s.modCore c fun k =>
      let k := { k with blocks := kdel k.blocks b, lastOwner := blk.granules.foldl (fun m g => kset m g blk.context) k.lastOwner
                        tokens := k.tokens.map fun (p : Nat × TokenSlot) => (p.1, if p.2.block = b then { p.2 with busy := false } else p.2) }
      k.markIdle now blk
    let team := kget {} s.teams blk.team
    let gone := team.members.all fun (c', b') => match kfind (s.core c').blocks b' with
      | some x => decide (x.team ≠ blk.team)
      | none => true
    let s := if gone then { s with teams := kdel s.teams blk.team } else s
    let s := s.modTile (c / 128) fun k => { k with remotes := k.remotes.map fun (n, x) =>
      (n, if x.core = c && x.block = b then { x with dead := true } else x) }
    s.modRun blk.queue fun r => if r.index = blk.index then r.blockEnded blk.launch else r

/-! ## Termination (R97) -/

/-- R97 step 3: instructions of a block that have not started leave their queues. -/
def EngineOp.waits (o : EngineOp) : Bool := match o.stage with
  | .queued => true | .checked => true | .started _ _ => false | .written _ => false

/-- Whether a block has matrix or tile instructions in a queue. -/
def Core.engineBusy (k : Core) (b : Nat) : Bool :=
  k.matrixQ.any (fun o => o.block = b) || k.tileQ.any fun q => q.2.any fun o => o.block = b

def Core.dropWaiting (k : Core) (b : Nat) : Core :=
  let keep := fun (o : EngineOp) => !(decide (o.block = b) && o.waits)
  { k with matrixQ := k.matrixQ.filter keep, tileQ := k.tileQ.map fun (q, l) => (q, l.filter keep) }

/-- R97 step 4: the record of a block's fault, where it has one still to be written; the record of the member that faulted
first comes first. None: it must wait for that record. -/
def State.recordFault (s : State) (c b : Nat) (cause : BitVec 8) (blk : Block) : Option State :=
  match blk.fault with
  | none => some s
  | some p =>
    let team := kget {} s.teams blk.team
    if cause = 0x0B && team.unrecorded.isSome then none else
    let (s, at_) := s.recordAt (c / 128) { typ := 0x01, cls := if cause = 0x0C then 2 else 0, source := c / 128, unit := s.coreUnit c, payload := p.toNat }
    let s := s.modBlock c b fun x => { x with fault := none, recorded := at_ }
    if team.unrecorded = some blk.member then
      some { s with teams := kmod {} s.teams blk.team fun t => { t with unrecorded := none } }
    else some s

/-- Whether a crossbar request of the block's team still has to be served in its local memory. -/
def State.xbarTargets (s : State) (c b : Nat) (blk : Block) : Bool :=
  s.xbar.any fun x => x.2.tcore = c && x.2.tblock = b && x.2.team = blk.team && x.2.done.isNone

/-- BLOCK_TERMINATE (R97 steps 2 to 5): the block's waiting engine instructions are removed and its record is written; once
its started instructions and crossbar requests have ended, and those of its team that are still to be performed in its local memory
(DEDUCED, log 42), it is released. -/
def execBlockTerminate (core : Fin 1536) (block : Fin 16) (s : State) : Res :=
  match kfind (s.core core).blocks block with
  | none => .next s
  | some blk =>
    match blk.phase with
    | .running => .next s
    | .terminating cause _ =>
      let s := s.modCore core fun k => k.dropWaiting block
      match s.recordFault core block cause blk with
      | none => .next s
      | some s =>
        if (s.core core).engineBusy block || decide (blk.xbarOut ≠ 0) || s.xbarTargets core block blk then .next s
        else .next (s.releaseBlock core block)

/-- The members of a team that are still resident: (core, position, block). -/
def State.residents (s : State) (team : Nat) : List (Nat × Nat × Block) :=
  (kget {} s.teams team).members.filterMap fun (c, b) => match kfind (s.core c).blocks b with
    | some x => if x.team = team then some (c, b, x) else none
    | none => none

/-! ## Retirement (R461, R462) -/

/-- R97: the record of a block that is released at once, after the one of the member of its team that faulted first. -/
def State.recordNow (s : State) (c b : Nat) (blk : Block) : State :=
  match blk.phase with
  | .running => s
  | .terminating cause _ =>
    let first : Option (Nat × Nat × Block) := if cause = 0x0B then
        (kget {} s.teams blk.team).unrecorded.bind fun m => (s.residents blk.team).find? fun r => r.2.2.member = m
      else none
    let s := match first with
      | some (c', b', x) => (match x.phase with
        | .terminating cause' _ => (s.recordFault c' b' cause' x).getD s
        | .running => s)
      | none => s
    (s.recordFault c b cause blk).getD s

/-- R462 for reasons 1 and 3: the core's blocks are terminated at once: each that ran gets cause CORE_RETIRED with the old position;
their records are written and they are released. No instruction raised the fault: the record names group 0 with an empty mask and
program counter 0 (DESIGN CHOICE, log 77). -/
def State.retireAtOnce (s : State) (c reason : Nat) : State :=
  let k := s.core c
  if !k.present then s else
  let now := s.coreCycles c
  let at_ := fun (b : Nat) => ({ core := c, block := b, group := 0, lanes := 0, pc := 0 } : Where)
  let s := s.modCore c fun k => { k with
    retiring := some reason
    blocks := k.blocks.map fun (b, x) => (b, x.fail 0x0F (blockFaultPayload (at_ b) x 0x0F k.position.toNat) now) }
  let s := k.blocks.foldl (fun s (_, x) => if x.phase = .running then s.spreadFault c x 0x0F else s) s
  let s := k.blocks.foldl (fun s (b, _) => s.recordNow c b (s.block c b)) s
  let s := s.modCore c fun k => { k with matrixQ := [], tileQ := [] }
  k.blocks.foldl (fun s (b, _) => s.releaseBlock c b) s

/-- R462 step 3: every M and O line of a cache is written back, every other dropped. -/
def State.flushCache (s : State) (n : Nat) : State :=
  let ks := kkeys (s.cache n).lines
  ks.foldl (fun s key => match kfind (s.cache n).lines key with
    | some l => s.evictLine n l.line (key % 16)
    | none => s) s

/-- R21: the lowest-numbered unused spare of region r of a die. -/
def Die.spare (k : Die) (r : Nat) : Option Nat :=
  [r * 34 + 32, r * 34 + 33].find? fun p => !k.used.contains p && !k.failed.contains p

/-- CORE_RETIRED (R462 steps 3 to 5): once the last block has ended, the L1 is written back and a spare takes the logical
core, or it becomes absent. -/
def execCoreRetired (core : Fin 1536) (s : State) : Res :=
  let c : Nat := core
  let k := s.core c
  match k.retiring with
  | none => .next s
  | some reason =>
    if !k.blocks.isEmpty then .next s else
    let s := s.flushCache c
    let d := c / 128
    let old := k.position.toNat
    let spare := (s.die d).spare (c % 128 / 32)
    let fresh : Core := { position := BitVec.ofNat 8 (spare.getD 0xFF), present := spare.isSome, resetAt := s.arithCycles d
                          barrierExp := k.barrierExp, remoteExp := k.remoteExp }
    let s := s.modCore c fun _ => fresh
    let s := s.modDie d fun x => { x with used := x.used ++ spare.toList, failed := x.failed ++ [old] }
    let s := s.repairEntry 0 (d * 136 + old)
    let s := s.modHub fun h => { h with windows := h.windows.filter fun w => !w.is (unitOf 0x01 (d * 136 + old)) d }
    .next (s.record d { typ := 0x02, cls := 3, source := d, unit := unitOf 0x01 (d * 136 + old), flags := if reason = 1 || reason = 3 then 2 else 0
                        payload := pack [(0, 1, old), (1, 1, spare.getD 0xFF), (2, 1, reason)] })

/-- R450, R452: an ESCALATION record for the record of a unit, whose ring and SEQ are given (free values where there is none, log 36): the
original's window closes, and one of CLASS 3 opens a window of its own. -/
def State.escalation (s : State) (cls unit source : Nat) (orig : Option (Nat × Nat)) : State :=
  let (v, s) := s.draw
  let (ring, seq) := orig.getD (fld v 60 4, fld v 0 60)
  let s := s.modHub fun h => { h with windows := h.windows.filter fun w => !w.is unit source }
  s.record 12 { typ := 0x28, cls := cls, source := 12, unit := unit, payload := pack [(0, 4, unit), (8, 8, seq), (16, 1, ring)] }

/-- BLOCK_TERMINATION_TIMEOUT (Table 15.7): a block not terminated within 2^20 cycles retires its core at once. -/
def execBlockTerminationTimeout (core : Fin 1536) (block : Fin 16) (s : State) : Res :=
  match kfind (s.core core).blocks block with
  | none => .next s
  | some blk =>
    match blk.phase with
    | .running => .next s
    | .terminating _ since =>
      if s.coreCycles core < since + 2 ^ 20 then .next s
      else .next ((s.escalation 3 (s.coreUnit core) (core / 128) blk.recorded).retireAtOnce core 1)

/-- R488: every group of a running block has exited, and its memory requests, engine instructions and remote transactions have
completed. -/
def State.blockDone (s : State) (c b : Nat) (blk : Block) : Bool :=
  decide (blk.phase = .running) && blk.groups.all (fun g => g.2.live.isEmpty) && decide (blk.xbarOut = 0) &&
  decide (blk.remote = 0) && !(s.core c).engineBusy b

/-- BLOCK_END (R488): a block that is done ends. The blocks of a team stay resident until the last of them is done, and then end
together (Table 2.2). -/
def execBlockEnd (core : Fin 1536) (block : Fin 16) (s : State) : Res :=
  match kfind (s.core core).blocks block with
  | none => .next s
  | some blk =>
    if !s.blockDone core block blk then .next s
    else if blk.teamBlocks ≤ 1 then .next (s.releaseBlock core block)
    else
      let rs := s.residents blk.team
      if rs.all fun (c, b, x) => s.blockDone c b x then .next (rs.foldl (fun s (c, b, _) => s.releaseBlock c b) s) else .next s

/-! ## Timeouts (R94, R105) -/

/-- R94: T for a block. -/
def State.barrierExpOf (s : State) (c : Nat) (b : Block) : Nat :=
  if bit b.flags 3 then b.timeoutExp else (s.core c).barrierExp.toNat

/-- R94: whether a timer that began at start has expired at the latest check. R95: an arrival or exit of the check's own cycle comes
first, so that the check shows in the next cycle. -/
def timerExpired (cycles start t : Nat) : Bool := start + 2 ^ t ≤ (cycles - 1) / 1024 * 1024

/-- The live threads at a program counter, as the active mask of a record. -/
def Group.subsetAt (g : Group) (pc : BitVec 64) : BitVec 32 := maskOf 32 (g.live.filter fun l => (g.thread l).pc = pc)

/-- R94: the first expired barrier or token wait of a block, as a fault: (position, detail). The record names the lowest group that waits
at a barrier, and its threads at the first arrival's program counter; of a team barrier, those of the member whose core is checked
first (DESIGN CHOICE, log 78). -/
def State.expiredWait (s : State) (c b : Nat) (blk : Block) : Option (Where × Nat) :=
  let now := s.coreCycles c
  let t := s.barrierExpOf c blk
  let at_ := fun (g : Nat) (pc : BitVec 64) => ({ core := c, block := b, group := g, lanes := ((blk.group g).subsetAt pc), pc := pc } : Where)
  let bar := (List.range 4).findSome? fun k =>
    let x := kget {} blk.bars k
    if x.open_ && timerExpired now x.start t then
      let arrived := maskOf 32 ((setBits x.mask).filter fun g => (blk.group g).arrivedAt (.blockBarrier k))
      let g := ((kkeys blk.groups).find? fun g => (blk.group g).live.any fun l => ((blk.group g).thread l).wait = .blockBarrier k).getD 0
      some (at_ g x.pc, arrived.toNat + x.mask.toNat * 2 ^ 32)
    else none
  let tm := kget {} s.teams blk.team
  let team := (List.range 2).findSome? fun k =>
    let x := kget {} tm.bars k
    if x.open_ && x.mask.getLsbD blk.member && decide (x.start + 2 ^ t ≤ (s.core c).resetAt + (now - 1) / 1024 * 1024) then
      let arrived := maskOf 8 ((setBits x.mask).filter fun m => match tm.members[m]? with
        | some (mc, mb) => decide ((s.block mc mb).team = blk.team) && (s.block mc mb).allArrived (.teamBarrier k)
        | none => false)
      let g := ((kkeys blk.groups).find? fun g => (blk.group g).live.any fun l => ((blk.group g).thread l).wait = .teamBarrier k).getD 0
      some (at_ g x.pc, arrived.toNat + fld x.mask 0 8 * 2 ^ 8 + k * 2 ^ 16)
    else none
  let tok := (kkeys blk.groups).findSome? fun g =>
    let grp := blk.group g
    match grp.waitStart with
    | some st =>
      if timerExpired now st t then
        grp.live.findSome? fun l => match (grp.thread l).wait with
          | .token tok => some (at_ g (grp.thread l).pc, tok.toNat)
          | .none => none
          | .blockBarrier _ => none
          | .teamBarrier _ => none
          | .groupOp => none
      else none
    | none => none
  bar.orElse fun _ => team.orElse fun _ => tok

/-- BARRIER_TIMEOUT (R94): the check of a core's barrier and token-wait timers. -/
def execBarrierTimeout (core : Fin 1536) (s : State) : Res :=
  .next ((s.core core).blocks.foldl (fun s (b, blk) =>
    if blk.phase ≠ .running then s else
    match s.expiredWait core b blk with
    | some (w, detail) => s.blockFault w 0x01 detail
    | none => s) s)

/-- GROUP_OP_TIMEOUT (R94): the check of a core's group-operation timers. -/
def execGroupOpTimeout (core : Fin 1536) (s : State) : Res :=
  let now := s.coreCycles core
  .next ((s.core core).blocks.foldl (fun s (b, blk) =>
    if blk.phase ≠ .running then s else
    let t := s.barrierExpOf core blk
    let hit := (kkeys blk.groups).findSome? fun g =>
      ((blk.group g).gathers.find? fun x => timerExpired now x.start t).map fun x => (g, x)
    match hit with
    | some (g, x) => s.blockFault { core := core, block := b, group := g, lanes := x.arrived, pc := x.pc } 0x03
        (x.arrived.toNat + x.mask.toNat * 2 ^ 32)
    | none => s) s)

/-! ## Other members' local memory (R104, R105) -/

/-- R53, R59, R254: whether an earlier request must be served before request id: one of its group to the same sector of the same
target, or, for an atomic, any of its own instruction (DEDUCED, log 42). -/
def State.xbarBehind (s : State) (id : Nat) (x : XbarReq) : Bool :=
  s.xbar.any fun (j, y) => decide (j < id) && y.done.isNone && y.core = x.core && y.block = x.block && y.group = x.group &&
    y.team = x.team &&
    ((y.tcore = x.tcore && y.tblock = x.tblock && y.sector = x.sector) || (y.instr = x.instr && decide (x.kind ≠ .load)))

/-- What one thread's part of a request does at the target: the state and the value that was read. -/
def State.servePart (s : State) (x : XbarReq) (tb : Block) (p : XbarPart) : State × Nat :=
  let s := match x.kind with
    | .load => s.settleLocal x.tcore tb [(p.off, p.size)]
    | .store => s
    | .atomic _ _ => s.settleLocal x.tcore tb [(p.off, p.size)]
  let old := (s.core x.tcore).localRead tb p.off p.size
  match x.kind with
  | .load => (s, old)
  | .store => (s.writeLocal x.tcore x.tblock tb p.off p.size (p.data.1 / 256 ^ p.from_), old)
  | .atomic op t => (s.writeLocal x.tcore x.tblock tb p.off p.size (atomNew op t old p.data.1 p.data.2), old)

/-- The parts of a request in ascending lane order. -/
def State.serveParts (s : State) (x : XbarReq) (tb : Block) : List XbarPart → State × List Nat
  | [] => (s, [])
  | p :: ps =>
    let (s, v) := s.servePart x tb p
    let (s, vs) := s.serveParts x tb ps
    (s, v :: vs)

/-- Where the instruction of a request stands, for a record (R96). -/
def XbarReq.place (x : XbarReq) : Where := { core := x.core, block := x.block, group := x.group, lanes := x.lanes, pc := x.pc }

/-- A fault of the block that a request belongs to, where that block is still there. -/
def State.xbarFault (s : State) (x : XbarReq) (cause detail : Nat) : State :=
  match kfind (s.core x.core).blocks x.block with
  | none => s
  | some b => if b.team = x.team then s.blockFault x.place cause detail else s

/-- The values of the threads of one instruction, put together from the requests that served it: (lane, value). -/
def xbarValues (xs : List XbarReq) : List (Nat × Nat) :=
  let parts := xs.flatMap fun x => x.parts.zip (x.done.getD [])
  ((parts.map fun p => p.1.lane).foldl numIns []).map fun l =>
    (l, (parts.filter fun p => p.1.lane = l).foldl (fun v p => v + p.2 * 256 ^ p.1.from_) 0)

/-- The answer of a request that was served: it no longer counts as outstanding. Once all the requests of a load or of a returning
atomic have been answered, its registers are written (a terminated block's results are discarded, R97). -/
def State.answerXbar (s : State) (id : Nat) (x : XbarReq) : State :=
  let s := { s with xbar := kset s.xbar id { x with back := true } }
  let mine := s.xbar.filter fun y => y.2.instr = x.instr
  let whole := mine.all (·.2.back)
  let s := if whole then { s with xbar := s.xbar.filter fun y => y.2.instr ≠ x.instr } else s
  match kfind (s.core x.core).blocks x.block with
  | none => s
  | some blk =>
    if blk.team ≠ x.team then s else
    let vs := if whole && x.dst.isSome then xbarValues (mine.map (·.2)) else []
    let regs := if whole then (match x.dst with | some d => (List.range ((x.size + 3) / 4)).map (d + ·) | none => []) else []
    let s := s.modBlock x.core x.block fun b =>
      let b := { b with xbarOut := b.xbarOut - 1 }
      b.modGroup x.group fun g =>
        let g := if b.phase = .running then vs.foldl (fun g (l, v) => g.write l { regs := loadRegs (x.dst.getD 0) x.size v x.sext }) g else g
        { g with pending := regs.foldl (fun p r => p.erase r) g.pending }
    s.landed (s.settle x.core x.block)

/-- An update of an atomic on its core's own local memory, performed in turn. -/
def State.ownUpdate (s : State) (id : Nat) (x : XbarReq) (blk : Block) : State :=
  let s := s.settleLocal x.core blk (x.parts.map fun p => (p.off, p.size))
  match x.parts.findSome? fun p => (s.core x.core).localPoison blk p.off p.size with
  | some w => (s.answerXbar id { x with done := some (x.parts.map fun _ => 0) }).xbarFault x 0x0C (2 ^ 63 + w)
  | none =>
    let (s, vs) := s.serveParts x blk x.parts
    s.answerXbar id { x with done := some vs }

/-- R254: the next update of instruction instr that its own core performs, once those on lower addresses are done: on its local memory, or
on a line. One of a block that no longer runs is discarded (R97 step 2); one whose line must be waited for stays. -/
def State.performHere (s : State) (instr : Nat) : State :=
  match s.xbar.find? fun y => y.2.instr = instr && y.2.done.isNone with
  | none => s
  | some (id, x) =>
    if !x.here then s else
    let drop := s.answerXbar id { x with done := some (x.parts.map fun _ => 0) }
    match kfind (s.core x.core).blocks x.block, x.kind with
    | none, _ => drop
    | some _, .load => drop
    | some _, .store => drop
    | some blk, .atomic op t =>
      if blk.team ≠ x.team || blk.phase ≠ .running then drop
      else match x.pieces with
        | [] => s.ownUpdate id x blk
        | p :: _ =>
          let data := fun (l : Nat) => ((x.parts.find? fun y => y.lane = l).map (·.data)).getD (0, 0)
          match s.atomLines x.core blk op t data [{ line := p.line, pbmt := p.pbmt, pieces := x.pieces }] with
          | (u, .error .busy) => s.woken u
          | (s, .error (.fault cause detail)) => (s.answerXbar id { x with done := some (x.parts.map fun _ => 0) }).xbarFault x cause detail
          | (s, .ok olds) => s.answerXbar id { x with done := some (olds.map (·.2)) }

/-- The updates of an instruction that its own core performs now, up to n of them. -/
def State.performAllHere (s : State) (instr : Nat) : Nat → State
  | 0 => s
  | n + 1 => (s.performHere instr).performAllHere instr n

/-- R254: the updates that waited for lower addresses or for their line, tried again. -/
def State.retryHere (s : State) : State :=
  ((s.xbar.filter fun y => y.2.here && y.2.done.isNone).map (·.2.instr)).eraseDups.foldl (fun s n => s.performAllHere n s.xbar.length) s

/-- TEAM_LOCAL_ACCESS: the request is served at the target core's thread port, in one pass. A load or an atomic that meets a poisoned
word faults the requesting block. The updates on higher addresses of the atomic follow. -/
def execTeamLocalAccess (id : Nat) (s : State) : Res :=
  match kfind s.xbar id with
  | none => .next s
  | some x =>
    if x.here || x.done.isSome || !s.coreRuns x.tcore || s.xbarBehind id x then .next s else
    match kfind (s.core x.tcore).blocks x.tblock with
    | none => .next s
    | some tb =>
      if tb.team ≠ x.team then .next s else
      let reads := decide (x.kind ≠ .store)
      let s := if reads then s.settleLocal x.tcore tb (x.parts.map fun p => (p.off, p.size)) else s
      let bad := if reads then x.parts.findSome? fun p => (s.core x.tcore).localPoison tb p.off p.size else none
      match bad with
      | some w => .next ({ s with xbar := kset s.xbar id { x with done := some (x.parts.map fun _ => 0) } }.xbarFault x 0x0C (2 ^ 63 + w))
      | none =>
        let (s, vs) := s.serveParts x tb x.parts
        .next ({ s with xbar := kset s.xbar id { x with done := some vs } }.performAllHere x.instr s.xbar.length)

/-- TEAM_LOCAL_RESPONSE: the answer returns. -/
def execTeamLocalResponse (id : Nat) (s : State) : Res :=
  match kfind s.xbar id with
  | none => .next s
  | some x => if x.done.isNone || x.back then .next s else .next (s.answerXbar id x)

/-- REMOTE_LOCAL_TIMEOUT (R105): a request whose response has not returned faults its block, and the team ends with it. The request
stays on the crossbar, where it is still performed (R97 step 2). -/
def execRemoteLocalTimeout (id : Nat) (s : State) : Res :=
  match kfind s.xbar id with
  | none => .next s
  | some x =>
    if x.back || x.late || x.here || s.coreCycles x.core < x.sent + 2 ^ (s.core x.core).remoteExp.toNat then .next s else
    let s := { s with xbar := kset s.xbar id { x with late := true } }
    let off := ((x.parts.head?).map (·.off)).getD 0
    .next (s.xbarFault x 0x0A (x.member + off * 2 ^ 32))

/-! ## The local store (R99, R100) -/

/-- The lines of a way leave the L1. -/
def State.flushWay (s : State) (n w : Nat) : State :=
  (kkeys (s.cache n).lines).foldl (fun s key =>
    if key % 16 ≠ w then s else
    match kfind (s.cache n).lines key with
    | some l => s.evictLine n l.line w
    | none => s) s

/-- LOCAL_SECTION_CONVERT (R99): the lines of a converting way have left, and it becomes local memory. -/
def execLocalSectionConvert (core : Fin 1536) (way : Fin 12) (s : State) : Res :=
  match (kget {} (s.core core).sections way).use with
  | .toLocal _ =>
    if !s.coreRuns core then .next s else
    let s := s.flushWay core way
    .next (s.modCore core fun k => { k with sections := kset k.sections way { use := .localMem, idleSince := s.coreCycles core } })
  | .way => .next s
  | .localMem => .next s

/-- LOCAL_SECTION_RETURN (R100): a local section without an allocated granule for 4,096 cycles becomes an empty way. -/
def execLocalSectionReturn (core : Fin 1536) (way : Fin 12) (s : State) : Res :=
  let k := s.core core
  let x := kget {} k.sections way
  let idle := k.blocks.all fun (_, b) => b.granules.all fun g => 11 - g / 32 ≠ way
  if decide (x.use = .localMem) && idle && decide (x.idleSince + 4096 ≤ s.coreCycles core) then
    .next (s.modCore core fun k => { k with sections := kset k.sections way {} })
  else .next s

/-! ## Instruction fetch (R110) -/

/-- A list of cached lines with one more; at most n are kept. -/
def icacheAdd (n : Nat) (l : List (Nat × BitVec 1024)) (x : Nat × BitVec 1024) : List (Nat × BitVec 1024) :=
  tlbAdd n (l.filter fun y => y.1 ≠ x.1) x

/-- Whether a group's current subset fetches from a line: its program counter, as the core's translation of a fetch gives it. -/
def State.fetchesFrom (s : State) (c : Nat) (blk : Block) (pc : BitVec 64) (line : Nat) : Bool :=
  match (s.coreXlat c blk pc.toNat .fetch).2 with
  | .ok p => decide (p.pa / 128 = line)
  | .error _ => false

/-- R30, R97: each running block of the context with a group in the quarter that fetches from the line faults, at that group's current
subset. -/
def State.fetchFault (s : State) (c q ctx line cause detail : Nat) : State :=
  (s.core c).blocks.foldl (fun s (b, blk) =>
    if blk.context ≠ ctx || blk.phase ≠ .running then s else
    let hit := blk.groups.findSome? fun (g, grp) => if grp.quarter = q then
      (grp.prune.current blk.progress).bind fun pc => if s.fetchesFrom c blk pc line then some (g, pc, maskOf 32 (grp.subset pc)) else none
      else none
    match hit with
    | some (g, pc, lanes) => s.blockFault { core := c, block := b, group := g, lanes := lanes, pc := pc } cause detail
    | none => s) s

/-- ICACHE_MISS: a miss of a quarter's cache is served from the core's cache, or by a coherent read through L1, which also refetches a
line whose parity fails (R488). A read that
fails faults the blocks of the context on the core that fetch from that line (R30, R97). -/
def execIcacheMiss (core : Fin 1536) (quarter : Fin 4) (context : Fin 32) (pa : BitVec 52) (s : State) : Res :=
  let line := pa.toNat / 128
  let k := s.core core
  let fill := fun (s : State) (d : BitVec 1024) (deep : Bool) => s.modCore core fun k => { k with
    icache := if deep then icacheAdd 1024 k.icache (line, d) else k.icache
    qcache := kset k.qcache quarter (icacheAdd 128 (kget [] k.qcache quarter) (line, d)) }
  let bad := fun (u : Upset) => decide (u.mem = .icache) && decide (u.unit = core.val) && decide (u.word = line)
  let parity := s.upsets.any bad
  let s := { s with upsets := s.upsets.filter fun u => !bad u }
  match if parity then none else k.icache.find? fun x => x.1 = line with
  | some x => .next (fill s x.2 false)
  | none =>
    match s.getShared core line (some context) with
    | (u, .error .busy) => .next (s.woken u)
    | (s, .error _) => .next (s.fetchFault core quarter context line 0x05 pa.toNat)
    | (s, .ok d) =>
      match d.poisonedAt (pa.toNat % 128) 8 with
      | some i => .next (s.fetchFault core quarter context line 0x0C (line * 128 + i / 4 * 4))
      | none => .next (fill s d.data true)
/-! ## Low-power states (R26 to R28) -/

/-- QUARTER_CLOCK_GATE: a quarter idle for 64 cycles gates itself. -/
def execQuarterClockGate (core : Fin 1536) (quarter : Fin 4) (s : State) : Res :=
  if kget 0 (s.core core).lastActive quarter + 64 ≤ s.coreCycles core then
    .next (s.modCore core fun k => { k with gated := setBit k.gated quarter true })
  else .next s

/-- The cores of region r of die d. -/
def regionCores (d r : Nat) : List Nat := (List.range 32).map (d * 128 + r * 32 + ·)

/-- Whether every core of a region is idle. -/
def State.regionIdle (s : State) (d r : Nat) : Bool := (regionCores d r).all fun c => (s.core c).blocks.isEmpty

/-- REGION_CLOCK_GATE: power control requests it of a region whose cores are all idle. -/
def execRegionClockGate (d : Fin 12) (r : Fin 4) (s : State) : Res :=
  if s.regionIdle d r && decide (kget .on (s.die d).regions r = .on) then
    .next (s.modDie d fun k => { k with regions := kset k.regions r .clockGated })
  else .next s

/-- R14, R27: the cores of a region that fails are retired at once, and the die goes on without it. -/
def State.retireRegion (s : State) (d r : Nat) : State :=
  let cs := (regionCores d r).filter fun c => (s.core c).present
  (cs.foldl (fun s c => s.retireAtOnce c 3) s).modDie d fun k => { k with regions := kset k.regions r .powerGated }

/-- REGION_POWER_GATE: power control gates an idle region, which is written back first; no core state is kept. Where the region's supply
fails its cores are retired (R14; the reason recorded is that of a wake failure, log 97). -/
def execRegionPowerGate (d : Fin 12) (g : RegionGate) (s : State) : Res :=
  let r := g.region
  let st := kget .on (s.die d).regions r
  if g.lost then .next (s.retireRegion d r)
  else if s.regionIdle d r && (st = .on || st = .clockGated) then
    let s := (regionCores d r).foldl (fun s c => s.flushCache c) s
    let s := s.dropUpsets fun u => decide (u.mem ≠ .slice) && decide (u.mem ≠ .reserve) && (regionCores d r).contains u.unit
    let s := (regionCores d r).foldl (fun s c => s.modCore c fun k =>
      { position := k.position, present := k.present, retiring := k.retiring, resetAt := s.arithCycles d
        barrierExp := k.barrierExp, remoteExp := k.remoteExp, corrected := k.corrected }) s
    .next (s.modDie d fun k => { k with regions := kset k.regions r .powerGated })
  else .next s

/-- DIE_PLL_OFF: every region is power-gated; the L2s of the host cores are written back first, as they keep nothing (log 62). -/
def execDiePllOff (d : Fin 12) (s : State) : Res :=
  if (List.range 4).all fun r => kget .on (s.die d).regions r = .powerGated then
    let s := (List.range 8).foldl (fun s h => s.flushCache (1536 + d.val * 8 + h)) s
    .next (s.modDie d fun k => { k with pll := false })
  else .next s

/-- REGION_WAKE_COMPLETE: the handshake of a waking region completes. -/
def execRegionWakeComplete (d : Fin 12) (r : Fin 4) (s : State) : Res :=
  match kget .on (s.die d).regions r with
  | .waking _ _ => .next (s.modDie d fun k => { k with regions := kset k.regions r .on })
  | .on => .next s
  | .clockGated => .next s
  | .powerGated => .next s

/-- REGION_WAKE_TIMEOUT: a handshake not complete within 100 µs is retried once; then the region's cores are retired and
REGION_WAKE is written. -/
def execRegionWakeTimeout (d : Fin 12) (r : Fin 4) (s : State) : Res :=
  match kget .on (s.die d).regions r with
  | .waking t retried =>
    if !s.elapsed t (100 * usTicks) then .next s
    else if !retried then .next (s.modDie d fun k => { k with regions := kset k.regions r (.waking s.ticks true) })
    else
      let n := ((regionCores d r).filter fun c => (s.core c).present).length
      let s := (s.escalation 3 (unitOf 0x02 (d * 4 + r)) d none).retireRegion d r
      .next (s.record d { typ := 0x03, cls := 3, source := d, flags := 2, unit := unitOf 0x02 (d * 4 + r), payload := pack [(0, 1, r), (1, 1, n)] })
  | .on => .next s
  | .clockGated => .next s
  | .powerGated => .next s

end Sys2Proof.Machine
end

