-- ==== Sys2Proof/Machine/Bulk.lean ====
section
/-! DEFINITION. Reads and writes of a run of bytes by an agent without a cache, line by line (R250), and of the management
reserve, whose bytes the hub holds (R414). -/

namespace Sys2Proof.Machine

/-- Why a run of bytes could not be read: its access failed at an address, or it must wait. -/
inductive BulkErr where
  | busy
  | failed (pa : Nat)
deriving DecidableEq, Repr

/-- Bytes read, each with whether its sector is poisoned. -/
abbrev Bulk := List (Byte × Bool)

def Bulk.data (b : Bulk) : List Byte := b.map (·.1)
def Bulk.poisoned (b : Bulk) : Bool := b.any (·.2)

/-- Whether a range of physical addresses lies in the management reserve, for a requester that may reach it (R193, R414). -/
def inReserve (r : Req) (pa n : Nat) : Bool := r.hub && decide (reserveBase ≤ pa) && decide (pa + n ≤ reserveBase + 0x10000)

/-- The bytes of one line from offset o, n of them. -/
def LineData.slice (d : LineData) (o n : Nat) : Bulk :=
  (List.range n).map fun i => (BitVec.ofNat 8 (fld d.data (8 * (o + i)) 8), d.poison.getLsbD ((o + i) / 32))

/-- n bytes from pa, in at most k lines. -/
def State.readLines (s : State) (r : Req) : Nat → Nat → Nat → State × Except BulkErr Bulk
  | 0, _, _ => (s, .ok [])
  | k + 1, pa, n =>
    if n = 0 then (s, .ok []) else
    let o := pa % 128
    let m := Nat.min n (128 - o)
    match s.ncRead r (pa / 128) true with
    | (s, .error .busy) => (s, .error .busy)
    | (s, .error _) => (s, .error (.failed pa))
    | (s, .ok d) =>
      match s.readLines r k (pa + m) (n - m) with
      | (s, .error e) => (s, .error e)
      | (s, .ok more) => (s, .ok (d.slice o m ++ more))

/-- Whether an error stands in a word of the management reserve that n bytes at offset x touch; whole: that they cover. -/
def Upset.inReserve (u : Upset) (x n : Nat) (whole : Bool) : Bool :=
  decide (u.mem = .reserve) && (if whole then decide (x ≤ 8 * u.word) && decide (8 * u.word + 8 ≤ x + n)
    else decide (x < 8 * u.word + 8) && decide (8 * u.word < x + n))

/-- R414: no word of the management reserve that n bytes at offset x touch holds a bit error. -/
def State.reserveSound (s : State) (x n : Nat) : Prop := ∀ u ∈ s.upsets, u.inReserve x n false = false

/-- R414: words of the management reserve are read: a single-bit error is corrected and counted in the hub's window, and a double-bit
error leaves its sector poisoned, as in the module's other memories (DEDUCED, log 73). -/
def State.settleReserve (s : State) (x n : Nat) : State :=
  (s.upsets.filter (·.inReserve x n false)).foldl (fun s u =>
    if u.double then { s with poison := numIns s.poison (reserveKey (8 * u.word) / 32) }
    else s.modErrs 12 fun e => { e with ce := e.ce + 1 }) (s.dropUpsets (·.inReserve x n false))

/-- Bytes of the management reserve are written: a word written whole loses its error, and one written in part is read first. -/
def State.overwriteReserve (s : State) (x n : Nat) : State := (s.dropUpsets (·.inReserve x n true)).settleReserve x n

/-- n bytes from physical address pa. -/
def State.readBulk (s : State) (r : Req) (pa n : Nat) : State × Except BulkErr Bulk :=
  if inReserve r pa n then
    let s := s.settleReserve (pa - reserveBase) n
    (s, .ok ((List.range n).map fun i =>
      let k := reserveKey (pa - reserveBase + i)
      (cellGet s.mem k, s.poison.contains (k / 32))))
  else s.readLines r (n / 128 + 2) pa n

/-- A line's part of the bytes bs, and the mask; a sector with a poisoned byte is poisoned. -/
def bulkLine (o : Nat) (bs : Bulk) : LineData × BitVec 128 :=
  let n := bs.length
  let v := leNat bs.data * 256 ^ o
  ({ data := BitVec.ofNat 1024 v
     poison := maskOf 4 ((List.range 4).filter fun i =>
       (List.range n).any fun j => decide ((o + j) / 32 = i) && ((bs[j]?).getD (0, false)).2) },
   BitVec.ofNat 128 ((2 ^ n - 1) * 2 ^ o))

/-- The bytes bs written from pa, in at most k lines. -/
def State.writeLines (s : State) (r : Req) : Nat → Nat → Bulk → State × Except BulkErr Unit
  | 0, _, _ => (s, .ok ())
  | k + 1, pa, bs =>
    if bs.isEmpty then (s, .ok ()) else
    let o := pa % 128
    let m := Nat.min bs.length (128 - o)
    let (d, mask) := bulkLine o (bs.take m)
    match s.ncWrite r (pa / 128) d mask with
    | (s, .error .busy) => (s, .error .busy)
    | (s, .error _) => (s, .error (.failed pa))
    | (s, .ok ()) => s.writeLines r k (pa + m) (bs.drop m)

/-- The poison of the sectors of the management reserve after the bytes bs are written from key k on: a sector with a poisoned byte
is poisoned, one written whole without is not, and any other is as before. -/
def reservePoison (p : List Nat) (k : Nat) (bs : Bulk) : List Nat :=
  (List.range (bs.length / 32 + 2)).foldl (fun p i =>
    let x := k / 32 + i
    let mine := (List.range 32).filterMap fun j => if k ≤ 32 * x + j then (bs[32 * x + j - k]?).map (·.2) else none
    if mine.any id then numIns p x else if mine.length = 32 then numDel p x else p) p

/-- Bytes written from physical address pa. -/
def State.writeBulk (s : State) (r : Req) (pa : Nat) (bs : Bulk) : State × Except BulkErr Unit :=
  if inReserve r pa bs.length then
    let s := s.overwriteReserve (pa - reserveBase) bs.length
    let k := reserveKey (pa - reserveBase)
    ({ s with mem := cellsWrite s.mem k bs.data, poison := reservePoison s.poison k bs }, .ok ())
  else s.writeLines r (bs.length / 128 + 2) pa bs

/-- Bytes without poison. -/
def cleanBytes (l : List Byte) : Bulk := l.map fun b => (b, false)

end Sys2Proof.Machine
end

