-- ==== Sys2Proof/Machine/Home.lean ====
section
/-! DEFINITION. Floor messages (R187 to R192), the home's transactions on them (R245, R246), the miss entries of the slices
(R201), and the caches that ask and answer (R247, R248, R260). A request command stands for a message that its sender has put
on the floor and that now arrives; answers of the home and of caches are put on the floor as messages in flight, whose own
commands are their arrival. -/

namespace Sys2Proof

/-- A request that reads or writes with ownership for a cache. -/
def FloorOp.isCache (op : FloorOp) : Bool := op = .rdS || op = .rdX || op = .upg

/-- Physical line number (address div 128) of a message. -/
def FloorMsg.line (m : FloorMsg) : Nat := m.addr.toNat / 128

end Sys2Proof

namespace Sys2Proof.Machine

/-! ## The header's checks (R190) -/

/-- The channel of an opcode (Tables 7.4 and 8.3). -/
def opVc : FloorOp → Nat
  | .rdLineNc => 0 | .rdSector => 0 | .wrLine => 0 | .wrMasked => 0 | .wrSector => 0 | .regRd => 0 | .regWr => 0
  | .rdS => 0 | .rdX => 0 | .upg => 0 | .wb => 0 | .atomH => 0 | .purgeWb => 0
  | .snpS => 1 | .snpX => 1 | .snpNc => 1 | .snpInv => 1 | .snpInvWb => 1 | .purge => 1
  | .compS => 2 | .compE => 2 | .compM => 2 | .cack => 2 | .wbAck => 2 | .snpMiss => 2 | .snpAckS => 2 | .snpAckI => 2
  | .snpFwdO => 2 | .snpFwdI => 2 | .snpFwdKeep => 2 | .purgeDone => 2 | .snpAckKeep => 2 | .ack => 2
  | .dataClean => 3 | .dataDirty => 3 | .atomOld => 3

/-- The LENGTHs that an opcode's payload allows (Table 7.2). -/
def opLens : FloorOp → List Nat
  | .rdLineNc => [0] | .rdSector => [0] | .wrLine => [8] | .wrMasked => [9] | .wrSector => [2] | .regRd => [0] | .regWr => [1]
  | .rdS => [0] | .rdX => [0] | .upg => [0] | .wb => [8] | .atomH => [2] | .purgeWb => [8]
  | .snpS => [1] | .snpX => [1] | .snpNc => [1] | .snpInv => [0] | .snpInvWb => [0] | .purge => [0]
  | .compS => [0] | .compE => [0] | .compM => [0] | .cack => [0] | .wbAck => [0] | .snpMiss => [0] | .snpAckS => [0]
  | .snpAckI => [0] | .snpFwdO => [0] | .snpFwdI => [0] | .snpFwdKeep => [0] | .purgeDone => [0] | .snpAckKeep => [0] | .ack => [0]
  | .dataClean => [8, 2, 1] | .dataDirty => [8] | .atomOld => [1]

/-- Table 7.3: an agent number that a tile has. -/
def agentOk (tile a : Nat) : Bool := if tile = 12 then decide (a < 5) else decide (tile < 12) && decide (a < 268)

/-- R190: a message that is discarded. -/
def badMessage (op : FloorOp) (m : FloorMsg) : Bool :=
  m.odd.isSome || decide (m.vc.toNat ≠ opVc op) || !(opLens op).contains m.length.toNat || decide (m.rsv ≠ 0) ||
  !agentOk m.dstTile.toNat m.dstAgent.toNat

/-- R190: FLR_PROTO_ERR counts a discarded message; it saturates. -/
def Tile.countProto (k : Tile) : Tile := { k with protoErr := if k.protoErr = BitVec.allOnes 64 then k.protoErr else k.protoErr + 1 }

/-- R258: a message from a fenced tile to a tile. -/
def State.fromFenced (s : State) (m : FloorMsg) : Bool :=
  (s.tile m.srcTile.toNat).fenced && decide (m.srcTile.toNat < 12) && decide (m.dstTile.toNat < 12)

/-- A message arrives. One that is behind another of its channel stays in flight (R191), and one between tiles that fenced tiles cut off is
lost (R17). One from a fenced tile is discarded and counted (R258), a malformed one too (R190); any other is handled. -/
def State.receive (s : State) (op : FloorOp) (m : FloorMsg) (k : State → State) : Res :=
  if s.floorBehind op m then .next s else
  let s := s.takeFloor op m
  if s.fromFenced m then
    .next (s.modTile m.dstTile.toNat fun x => { x with discarded := x.discarded + 1 })
  else if !s.connected m.srcTile.toNat m.dstTile.toNat then .next s
  else if badMessage op m then
    .next (if m.dstTile.toNat < 12 then s.modTile m.dstTile.toNat Tile.countProto else s)
  else .next (k s)

/-- An answer to a message: the way back, the TAG kept (R189). -/
def reply (m : FloorMsg) (vc len : Nat) : FloorMsg :=
  { m with vc := BitVec.ofNat 2 vc, length := BitVec.ofNat 4 len, srcTile := m.dstTile, srcAgent := m.dstAgent
           dstTile := m.srcTile, dstAgent := m.srcAgent, status := 0, poison := 0, data := 0, mask := 0, stream := 0, rsv := 0
           reqSector := false, odd := none, writer := none }

/-- An answer that carries no data: RSP ACK, with a STATUS. -/
def ackOf (m : FloorMsg) (status : Nat) : FloorMsg := { reply m 2 0 with status := BitVec.ofNat 3 status }

/-- A line or a sector to a requester. -/
def dataOf (m : FloorMsg) (sector : Bool) (d : LineData) : FloorMsg :=
  if sector then { reply m 3 2 with data := BitVec.ofNat 1024 (fld d.data (256 * m.sector.toNat) 256)
                                    poison := BitVec.ofNat 4 (fld d.poison m.sector.toNat 1) }
  else { reply m 3 8 with data := d.data, poison := d.poison }

/-! ## Requests -/

/-- The requester that a message names (R192, R213); a sector access has class 4 (R227). -/
def requesterOf (op : FloorOp) (m : FloorMsg) : Req :=
  let hub := decide (m.srcTile.toNat = 12)
  let ksp := decide (op = .rdSector) || decide (op = .wrSector)
  { tile := if hub then m.part.toNat else m.srcTile.toNat, part := m.part.toNat, cls := if ksp then 4 else m.cls.toNat
    stream := m.stream = 1, ksp := ksp, hub := hub }


/-- The bytes that a write carries. -/
def writeOf (op : FloorOp) (m : FloorMsg) : LineData × BitVec 128 :=
  match op with
  | .wrMasked => ({ data := m.data, poison := m.poison }, m.mask)
  | .wrSector =>
    ({ data := BitVec.ofNat 1024 (fld m.data 0 256 * 2 ^ (256 * m.sector.toNat)), poison := BitVec.ofNat 4 (fld m.poison 0 1 * 2 ^ m.sector.toNat) },
      maskOfBytes (32 * m.sector.toNat) 32)
  | _ => ({ data := m.data, poison := m.poison }, allBytes)

/-- R188: the request is no longer outstanding. -/
def State.settleRequest (s : State) (tile agent tag : Nat) : State :=
  { s with outstanding := s.outstanding.filter fun x =>
      !(x.1.msg.srcTile.toNat = tile && x.1.msg.srcAgent.toNat = agent && x.1.msg.tag.toNat = tag) }

def State.settleOf (s : State) (m : FloorMsg) : State := s.settleRequest m.srcTile.toNat m.srcAgent.toNat m.tag.toNat

/-- An answer with an error STATUS. -/
def State.refuse (s : State) (m : FloorMsg) (e : MemErr) : State :=
  (s.settleOf m).sendFloor .ack (ackOf m e.status)

/-- The cache that a message's sender is. -/
def senderCache (m : FloorMsg) : Option Nat := agentCache m.srcTile.toNat m.srcAgent.toNat


/-- Two flights of one message. -/
def Flight.same (f g : Flight) : Bool := f.op = g.op && f.msg = g.msg

/-- R214: the tile memory address that a request was decoded to, or that it is decoded to now. -/
def State.decodedAt (s : State) (f : Flight) : Option Nat :=
  match f.home with
  | some tma => some tma
  | none => match s.decodePa (requesterOf f.op f.msg) (f.msg.line * 128) with
    | .ok (.dram _ tma) => some tma
    | .ok (.scratch _ j w o) => some (scratchTma j w o)
    | .ok (.reserve _) => none
    | .ok (.reg _) => none
    | .error _ => none

/-- The tile memory address of a request that was accepted at its home. -/
def State.tmaAt (s : State) (f : Flight) : Nat := (s.decodedAt f).getD 0

/-- A request that must wait is held at the home (R218, R245, R261). -/
def State.hold (s : State) (t : Nat) (f : Flight) (since reason : Nat) : State :=
  s.modTile t fun k => { k with held := k.held ++ [(f, since, reason)] }

/-! ## Data of a miss (R201) -/

/-- A running transaction changed. -/
def State.modTxn (s : State) (t l : Nat) (f : Txn → Txn) : State :=
  s.modTile t fun k => { k with txns := k.txns.map fun x => if x.line = l then f x else x }

def State.endTxn (s : State) (t l : Nat) : State :=
  s.modTile t fun k => { k with txns := k.txns.filter fun x => x.line ≠ l }

/-- The home's line given to a requester: a cache awaits its CACK, a cacheless agent's own transaction ends. -/
def State.giveData (s : State) (t l : Nat) (f : Flight) (d : LineData) : State :=
  let s := s.sendFloor .dataClean (dataOf f.msg (f.op = .rdSector) d)
  if f.op.isCache then s else
  (s.settleOf f.msg).modTile t fun k => { k with txns := k.txns.filter fun x => !(decide (x.line = l) && x.req.same f) }

/-- The sectors that a request reads. -/
def secsOf (f : Flight) : BitVec 4 := if f.op = .rdSector then BitVec.ofNat 4 (2 ^ f.msg.sector.toNat) else 0xF

/-- R201: a request joins the park buffer of its slice. The buffer has 16 entries; those from the 17th on stand for requests whose REQ
credits the slice withholds (State.withheld). -/
def State.park (s : State) (t tma : Nat) (f : Flight) : State :=
  s.modSlice t (homeSlice tma).1 fun sl => { sl with parked := sl.parked ++ [f] }

/-- R201: requests that wait for REQ credits which a tile's slices withhold. -/
def Tile.withheld (k : Tile) : Bool := k.slices.any fun x => decide (16 < x.2.parked.length)

/-- R201, R218, R220: whether a request that misses must wait for a miss entry, or for a device that takes no access. -/
def State.missWaits (s : State) (t tma : Nat) : Bool := s.behindMiss t tma || (!s.llmHas t tma && s.deviceHeld t tma)

/-- R199, R201, R218: whether a write or an atomic whose snoops are answered must wait; given: the owner's line has come with an answer. A
write that the stream detector will bypass takes no entry of the victim buffer. -/
def State.writeWaits (s : State) (t tma : Nat) (f : Flight) (given : Bool) : Bool :=
  (!given && s.missWaits t tma) ||
  (s.fillWaits t tma (requesterOf f.op f.msg) (decide (f.op ≠ .wrSector) || given) && !(decide (f.op = .wrLine) && (s.watch t tma).2))

/-- R227: whether a miss of this very line is outstanding. -/
def State.fillRuns (s : State) (t tma : Nat) : Bool :=
  let (j, set, _) := homeSlice tma
  ((kfind ((s.tile t).slice j).misses set).map fun g => decide (s.tmaAt g = tma)) = some true

/-- R201, R227: the home's line for a request: from the cache ways on a hit; a miss takes the set's miss entry, or is parked
behind the one outstanding. A sector that misses, with no miss of its set outstanding, is one burst. -/
def State.homeData (s : State) (t tma : Nat) (f : Flight) : State :=
  let l := tma / 128
  let r := requesterOf f.op f.msg
  let sector := decide (f.op = .rdSector)
  let (j, set, _) := homeSlice tma
  let now := fun (s : State) =>
    let (s, d) := s.homeRead t tma r (!sector) f.bypass (secsOf f)
    s.giveData t l f d
  if s.llmHas t tma then now s
  else if s.behindMiss t tma || (sector && s.deviceHeld t tma) then s.park t tma f
  else if sector then now s
  else s.modSlice t j fun sl => { sl with misses := kset sl.misses set f }

/-! ## Grants and performed accesses (Table 8.4) -/

/-- A COMP to the requester. -/
def State.sendComp (s : State) (m : FloorMsg) (op : FloorOp) : State := s.sendFloor op (reply m 2 0)

/-- R247: what the requester must still receive. -/
def State.needData (s : State) (f : Flight) (need : Bool) : State :=
  match senderCache f.msg with
  | none => s
  | some n => s.modCache n fun ca => { ca with reqs := ca.reqs.map fun q => if q.line = f.msg.line then { q with needData := need } else q }

/-- Everything snooped has answered: the request is granted or performed. -/
def State.finishTxn (s : State) (t : Nat) (x : Txn) : State :=
  let l := x.line
  let tma := l * 128
  let f := x.req
  let m := f.msg
  let r := requesterOf f.op m
  let e := ((s.tile t).dirFind l).map (·.2)
  let n := (senderCache m).getD 0
  let s := s.modTxn t l fun x => { x with granted := true }
  let own := fun (s : State) => if x.fwd then s else s.homeData t tma f
  let sole := (e.map fun e => e.toX n).getD (dirX n)
  match f.op with
  | .rdS =>
    let s := s.needData f true
    (match e with
    | none => own ((s.dirStore t l (some (dirX n))).sendComp m .compE)
    | some e => own ((s.dirStore t l (some (e.addSharer n))).sendComp m .compS))
  | .rdX => own (((s.needData f true).dirStore t l (some sole)).sendComp m .compM)
  | .upg =>
    if x.owner = some n then ((s.needData f false).dirStore t l (some sole)).sendComp m .compM
    else own (((s.needData f true).dirStore t l (some sole)).sendComp m .compM)
  | .rdLineNc => if x.fwd then (s.settleOf m).endTxn t l else s.homeData t tma f
  | .rdSector => if x.fwd then (s.settleOf m).endTxn t l else s.homeData t tma f
  | .atomH =>
    if s.writeWaits t tma f x.ret.isSome then s.park t tma f else
    let v := m.data
    let od := x.ret.map fun d => ({ data := d.1, poison := d.2 } : LineData)
    let s := s.dirSetEntry t l none
    let (s, old, bad) := s.finishAtom t tma r (m.addr.toNat % 128) (byteFld v 16 1) (byteFld v 17 1) (byteFld v 0 8) (byteFld v 8 8) od
    let s := if byteFld v 18 1 = 1 then s.sendFloor .atomOld { reply m 3 1 with data := BitVec.ofNat 1024 old, poison := if bad then 1 else 0 } else s.sendFloor .ack (ackOf m 0)
    (s.settleOf m).endTxn t l
  | op =>
    if s.writeWaits t tma f x.ret.isSome then s.park t tma f else
    let (d, mask) := writeOf op m
    let od := x.ret.map fun d => ({ data := d.1, poison := d.2 } : LineData)
    let s := (s.dirSetEntry t l none).finishWrite t tma d mask r (op = .wrSector && od.isNone) od
    ((s.sendFloor .ack (ackOf m 0)).settleOf m).endTxn t l

/-- A snoop on its way (R244). -/
def snoopMsg (t tma n line : Nat) (k : Snoop) (m : FloorMsg) (sector : Bool) : Flight :=
  let op := match k with | .s => FloorOp.snpS | .x => .snpX | .nc => .snpNc | .inv => .snpInv | .invWb => .snpInvWb
  let (j, _, _) := homeSlice tma
  let j := if isScratch tma then (tma - 2 ^ 38) / 2 ^ 21 else j
  { op := op
    msg := { m with vc := 1, srcTile := BitVec.ofNat 4 t, srcAgent := BitVec.ofNat 9 j, dstTile := BitVec.ofNat 4 (cacheTile n)
                    dstAgent := BitVec.ofNat 9 (cacheAgent n), addr := BitVec.ofNat 52 (line * 128), status := 0, poison := 0
                    length := BitVec.ofNat 4 (if k = .inv || k = .invWb then 0 else 1), data := 0, mask := 0, stream := 0, rsv := 0
                    reqTile := m.srcTile, reqAgent := m.srcAgent, reqTag := m.tag, reqSector := sector, odd := none, writer := none } }

/-- R246: the snoops of Table 8.4 for a request, by cache, and whether it names its requester exactly. -/
def snoopsFor (op : FloorOp) (n : Nat) (e : DirEntry) (exactUpg : Bool) : List (Nat × Snoop) :=
  let sh := e.sharers.filter fun c => some c ≠ e.holder
  let own := fun (k : Snoop) => e.holder.toList.map fun o => (o, k)
  let inv := (sh.filter (· ≠ n)).map fun c => (c, Snoop.inv)
  match op with
  | .rdS => own .s
  | .rdX => own .x ++ inv
  | .upg => if exactUpg then (((e.holder.toList ++ sh).eraseDups).filter (· ≠ n)).map fun c => (c, Snoop.inv) else own .x ++ inv
  | .rdLineNc => own .nc
  | .rdSector => own .nc
  | _ => own .invWb ++ sh.map fun c => (c, Snoop.inv)

/-- R245, R246: a transaction begins: the entry without its requester chooses the row; its snoops are sent, or it is granted or
performed at once. The stream detector watches a request for ownership (R200). -/
def State.beginTxn (s : State) (t tma : Nat) (f : Flight) : State :=
  let l := tma / 128
  let n := (senderCache f.msg).getD 0
  let e0 := ((s.tile t).dirFind l).map (·.2)
  let exact := f.op = .upg && (match e0 with | some e => e.exact n | none => false)
  let e := if f.op.isCache && !exact then e0.bind fun e => e.remove n else e0
  let s := if f.op.isCache && !exact then s.dirSetEntry t l e else s
  let (s, bypass) := if f.op = .rdX || f.op = .upg then s.watch t tma else (s, false)
  let f := { f with bypass := bypass }
  let snoops : List (Nat × Snoop) := match e with
    | none => []
    | some e => (snoopsFor f.op n e exact).filter fun c => !(s.tile (cacheTile c.1)).fenced
  let x : Txn := { line := l, req := f, waiting := snoops.map (·.1), owner := if exact then some n else e.bind (·.holder), start := s.floorCycles }
  let s := s.modTile t fun k => { k with txns := k.txns ++ [x] }
  if snoops.isEmpty then s.finishTxn t x
  else { s with floor := s.floor ++ snoops.map fun c => snoopMsg t tma c.1 f.msg.line c.2 f.msg (f.op = .rdSector) }

/-- R243: the recall that a request waits for: SNP_INV_WB to the owner, SNP_INV to every sharer. A fenced owner is dealt with
first (R259), and where the entry goes with it, the request proceeds. -/
def State.beginRecall (s : State) (t tma v : Nat) (f : Flight) : State :=
  let s := s.scanned t v
  match (s.tile t).dirFind v with
  | none => s.beginTxn t tma f
  | some (_, e) =>
    let live := fun c => !(s.tile (cacheTile c)).fenced
    let snoops := ((e.holder.toList.map fun o => (o, Snoop.invWb)) ++ (e.sharers.filter fun c => some c ≠ e.holder).map fun c => (c, Snoop.inv)).filter
      fun c => live c.1
    let line := (s.paOf t (v * 128)).getD 0 / 128
    let x : Txn := { line := tma / 128, req := f, waiting := snoops.map (·.1), start := s.floorCycles, recallOf := some v }
    let s := s.modTile t fun k => { k with txns := k.txns ++ [x] }
    { s with floor := s.floor ++ snoops.map fun c => snoopMsg t (v * 128) c.1 line c.2 f.msg false }

/-- R245, R246, R261: a WB at its home: accepted at once, also on a line in a transaction; its data counts only from the OWNER. One to a
unit that is being taken over is held. -/
def State.acceptWb (s : State) (t since : Nat) (m : FloorMsg) : State :=
  match senderCache m with
  | none => s.refuse m .decode
  | some n =>
    let r := { requesterOf .wb m with ctx := (s.cache n).writerOf n m.line }
    let perform := fun (s : State) (tma : Nat) =>
      if r.part ≠ s.partOf t then s.refuse m .decode else
      let s := (s.lookupEntry t (tma / 128)).homeWb t tma n { data := m.data, poison := m.poison } r
      let s := s.modTxn t (tma / 128) fun x => { x with wbFrom := x.wbFrom ++ [n] }
      s.sendFloor .wbAck (reply m 2 0)
    match s.decodePa r (m.line * 128) with
    | .error e => s.refuse m e
    | .ok (.reserve _) => s.refuse m .decode
    | .ok (.reg _) => s.refuse m .decode
    | .ok (.scratch _ j w o) => perform s (scratchTma j w o)
    | .ok (.dram _ tma) => if s.beingTaken t tma then s.hold t { op := .wb, msg := m } since 2 else perform s tma

/-- R227: whether a sector's request waits in the park buffer for the fill of its line, which is in a transaction: no other request to the
line waits before it (R230). -/
def State.joinsFill (s : State) (t tma : Nat) (f : Flight) : Bool :=
  decide (f.op = .rdSector) && s.fillRuns t tma && !(s.tile t).held.any fun h => h.1.msg.line = f.msg.line

/-- A request reaches its home tile at a hub count: refused, held, or begun (R192, R202, R218, R243, R245, R261). It keeps
the target that it was decoded to (R214). -/
def State.arrive (s : State) (t since : Nat) (f : Flight) : State :=
  let m := f.msg
  if f.op = .wb then s.acceptWb t since m else
  let r := requesterOf f.op m
  let whole := decide (f.op = .wrLine)
  let place := match f.home with
    | some tma => s.homeTakes r t tma whole
    | none => s.homeOf r (m.line * 128) whole
  let f := { f with home := s.decodedAt f }
  match place with
  | .error .stopped => s.hold t f since 1
  | .error .busy => s.hold t f since 3
  | .error .decode => s.refuse m .decode
  | .error .fenced => s.refuse m .fenced
  | .error .timeout => s.refuse m .timeout
  | .ok (t', tma) =>
    if t' ≠ t then s.refuse m .decode
    else if s.beingTaken t tma then s.hold t f since 2
    else if (s.tile t).inTxn (tma / 128) then (if s.joinsFill t tma f then s.park t tma f else s.hold t f since 0)
    else
      let s := s.lookupEntry t (tma / 128)
      if f.op.isCache && (s.tile t).dirFull (tma / 128) then
        match (s.tile t).dirVictim (tma / 128) with
        | none => s.hold t f since 0
        | some v => s.beginRecall t tma v f
      else s.beginTxn t tma f

/-- R201: a parked request is looked up again; it is parked again where it must still wait. -/
def State.serveParked (s : State) (t : Nat) (f : Flight) : State :=
  if f.op.isCache || f.op = .rdLineNc || f.op = .rdSector then s.homeData t (s.tmaAt f) f
  else match (s.tile t).txns.find? fun x => x.req.same f with
    | none => s
    | some x => s.finishTxn t x

/-- R201: the parked requests of a tile's slices are looked up again, in order. -/
def State.unpark (s : State) (t : Nat) : State :=
  (kkeys ((s.tile t).slices.filter fun x => !x.2.parked.isEmpty)).foldl (fun s j =>
    let ps := ((s.tile t).slice j).parked
    ps.foldl (fun s f => s.serveParked t f) (s.modSlice t j fun sl => { sl with parked := [] })) s

/-- Parked and held requests whose reason may have gone are presented again, in arrival order. -/
def State.retryHeld (s : State) (t : Nat) : State :=
  let s := s.unpark t
  let hs := (s.tile t).held
  let s := s.modTile t fun k => { k with held := [] }
  hs.foldl (fun s h => s.arrive t h.2.1 h.1) s

/-- R251: an ATOM_H that is answered with DECODE_ERROR. -/
def badAtom (m : FloorMsg) : Bool :=
  let v := m.data
  let op := byteFld v 16 1
  let at_ := byteFld v 17 1
  !(decide (op < 8) && decide (at_ < 16) && decide (byteFld v 18 1 < 2) && decide (byteFld v 19 13 = 0) && atomAllowed op at_ &&
    (decide (op = 7) || decide (byteFld v 8 8 = 0)) && decide (m.addr.toNat % atypeBytes at_ = 0))

/-- R188, R247: the sender's record of its request. -/
def State.noteRequest (s : State) (f : Flight) : State :=
  let s := { s with outstanding := s.outstanding ++ [(f, s.floorCycles)] }
  match f.op.isCache, senderCache f.msg with
  | true, some n => s.modCache n fun ca => { ca with reqs := ca.reqs.filter (fun q => q.line ≠ f.msg.line) ++ [{ line := f.msg.line, home := f.msg.dstTile.toNat, tag := f.msg.tag, agent := f.msg.dstAgent }] }
  | _, _ => s

/-- A request arrives. Its sender awaits the answer, whether or not the message is discarded (R190); one that fenced tiles cut off from its
destination completes with FENCED (R17). -/
def State.asked (s : State) (op : FloorOp) (m : FloorMsg) (k : State → State) : Res :=
  let s := if s.fromFenced m then s else s.noteRequest { op := op, msg := m }
  if !s.fromFenced m && !s.connected m.srcTile.toNat m.dstTile.toNat then .next (s.refuse m .fenced) else s.receive op m k

/-- A request of Table 7.4 or 8.3 at its home. The requests that were held before it are presented first, so that two accesses of one core to
a sector keep their order (R230). -/
def State.request (s : State) (op : FloorOp) (m : FloorMsg) : Res :=
  s.asked op m fun s =>
    if op.isCache && (senderCache m).isNone then s.refuse m .decode
    else if op = .atomH && badAtom m then s.refuse m .decode
    else
      let t := m.dstTile.toNat
      let s := s.retryHeld t
      (s.arrive t s.floorCycles { op := op, msg := m }).retryHeld t

/-- RD_LINE_NC (R250). -/
def execRdLineNc (m : FloorMsg) (s : State) : Res := s.request .rdLineNc m
/-- RD_SECTOR (R227). -/
def execRdSector (m : FloorMsg) (s : State) : Res := s.request .rdSector m
/-- WR_LINE (R250). -/
def execWrLine (m : FloorMsg) (s : State) : Res := s.request .wrLine m
/-- WR_MASKED (R197, R250). -/
def execWrMasked (m : FloorMsg) (s : State) : Res := s.request .wrMasked m
/-- WR_SECTOR (R228). -/
def execWrSector (m : FloorMsg) (s : State) : Res := s.request .wrSector m
/-- RD_S (R246). -/
def execRdS (m : FloorMsg) (s : State) : Res := s.request .rdS m
/-- RD_X (R246). -/
def execRdX (m : FloorMsg) (s : State) : Res := s.request .rdX m
/-- UPG (R246). -/
def execUpg (m : FloorMsg) (s : State) : Res := s.request .upg m
/-- ATOM_H (R251). -/
def execAtomH (m : FloorMsg) (s : State) : Res := s.request .atomH m

/-! ## Write-backs (R239, R245, R246, R260) -/

/-- The sender's line moves from its ways to its write-back buffer, where it is not there yet. -/
def State.toBuffer (s : State) (n line : Nat) : State :=
  match (s.cache n).find n line with
  | some (w, l) =>
    if l.st = .m || l.st = .o then s.modCache n fun ca => { ca.drop n line w with wbuf := ca.wbuf ++ [l] } else s
  | none => s

/-- WB: the line moves to its cache's write-back buffer, and the WB is accepted at its home. -/
def execWb (m : FloorMsg) (s : State) : Res :=
  s.asked .wb m fun s => match senderCache m with
    | none => s.refuse m .decode
    | some n => (s.toBuffer n m.line).acceptWb m.dstTile.toNat s.floorCycles m

/-- WB_ACK: the cache frees the line's write-back buffer entry. -/
def execWbAck (m : FloorMsg) (s : State) : Res :=
  s.receive .wbAck m fun s =>
    let s := s.settleRequest m.dstTile.toNat m.dstAgent.toNat m.tag.toNat
    match agentCache m.dstTile.toNat m.dstAgent.toNat with
    | none => s
    | some n => s.modCache n fun ca => { ca with wbuf := ca.wbuf.filter fun x => x.line ≠ m.line }

/-- PURGE_WB: a mirrored unit's new home writes the line; anywhere else it completes with FENCED. -/
def execPurgeWb (m : FloorMsg) (s : State) : Res :=
  s.asked .purgeWb m fun s =>
    let r := requesterOf .purgeWb m
    match s.decodePa r (m.line * 128) with
    | .ok (.dram t tma) =>
      if s.partOf t ≠ r.part then s.refuse m .decode else
      if t = m.dstTile.toNat && s.takenOver t tma then
        ((s.homeWrite t tma { data := m.data, poison := m.poison } allBytes r false true).settleOf m).sendFloor .ack (ackOf m 0)
      else s.refuse m .fenced
    | .ok (.scratch _ _ _ _) => s.refuse m .fenced
    | .ok (.reserve _) => s.refuse m .fenced
    | .ok (.reg _) => s.refuse m .fenced
    | .error _ => s.refuse m .fenced

/-! ## Snoops at a cache (R248, Table 8.5) -/

/-- A cache's answer to the home. -/
def answerOp : Answer → FloorOp
  | .miss => .snpMiss | .ackS => .snpAckS | .ackI => .snpAckI | .fwdO => .snpFwdO | .fwdI => .snpFwdI | .fwdKeep => .snpFwdKeep
  | .ackKeep => .snpAckKeep | .wbData => .dataDirty

/-- R27: a well-formed snoop of a cache that must be woken first; it stays in flight meanwhile. -/
def State.snoopSleeps (s : State) (op : FloorOp) (m : FloorMsg) : Bool :=
  !s.floorBehind op m && !s.fromFenced m && !badMessage op m &&
  (match agentCache m.dstTile.toNat m.dstAgent.toNat with
   | none => false
   | some n => s.cacheAsleep n && !s.cacheSilent n)

/-- A snoop arrives at its cache. For a sector's request the data is the sector (R248). -/
def State.snoopArrives (s : State) (op : FloorOp) (k : Snoop) (m : FloorMsg) : Res :=
  let c := agentCache m.dstTile.toNat m.dstAgent.toNat
  if s.snoopSleeps op m then .next (c.toList.foldl (fun s n => s.wakeCache n) s) else
  s.receive op m fun s =>
    match c with
    | none => s
    | some n =>
      if s.cacheSilent n then s else
      let w := (s.cache n).writerOf n m.line
      let (ca, a, d) := (s.cache n).snoop n m.line k
      let s := s.modCache n fun _ => ca
      let toReq := fun (d : LineData) => { dataOf m m.reqSector d with dstTile := m.reqTile, dstAgent := m.reqAgent, tag := m.reqTag }
      match a, d with
      | .wbData, some d => s.sendFloor .dataDirty { dataOf m false d with writer := w }
      | .fwdI, some d => (s.sendFloor .dataDirty (toReq d)).sendFloor .snpFwdI (reply m 2 0)
      | a, some d => (s.sendFloor .dataClean (toReq d)).sendFloor (answerOp a) (reply m 2 0)
      | a, none => s.sendFloor (answerOp a) (reply m 2 0)

/-- SNP_S. -/
def execSnpS (m : FloorMsg) (s : State) : Res := s.snoopArrives .snpS .s m
/-- SNP_X. -/
def execSnpX (m : FloorMsg) (s : State) : Res := s.snoopArrives .snpX .x m
/-- SNP_NC. -/
def execSnpNc (m : FloorMsg) (s : State) : Res := s.snoopArrives .snpNc .nc m
/-- SNP_INV. -/
def execSnpInv (m : FloorMsg) (s : State) : Res := s.snoopArrives .snpInv .inv m
/-- SNP_INV_WB. -/
def execSnpInvWb (m : FloorMsg) (s : State) : Res := s.snoopArrives .snpInvWb .invWb m

/-- R244: a message between cache n and the hub, or from it to another tile: of the cache's class and partition where the cache sends it,
of the hub's class for the cache's partition otherwise (Table 7.2). -/
def State.cacheMsg (s : State) (n addr vc : Nat) (fromCache : Bool) : FloorMsg :=
  let h := BitVec.ofNat 4 12
  let t := cacheTile n
  let here := BitVec.ofNat 4 t
  let agent := BitVec.ofNat 9 (cacheAgent n)
  { vc := BitVec.ofNat 2 vc, srcTile := if fromCache then here else h, dstTile := if fromCache then h else here
    srcAgent := if fromCache then agent else 0, dstAgent := if fromCache then 0 else agent, tag := 0
    cls := if fromCache then BitVec.ofNat 3 (cacheClass n) else 6, part := BitVec.ofNat 4 (s.partOf t)
    sector := 0, status := 0, poison := 0, length := 0, addr := BitVec.ofNat 52 addr, stream := 0, rsv := 0, data := 0
    mask := 0, reqTile := 0, reqAgent := 0, reqTag := 0 }

/-- A PURGE_WB of a line of cache n. -/
def State.sendPurgeWb (s : State) (n : Nat) (l : CacheLine) : State :=
  let pa := l.line * 128
  let (t, j) := match s.decodePa (s.cacheReq n none) pa with
    | .ok (.dram t tma) => (t, (homeSlice tma).1)
    | .ok (.scratch t j _ _) => (t, j)
    | .ok (.reserve _) => (l.home, 0)
    | .ok (.reg _) => (l.home, 0)
    | .error _ => (cacheTile n, 0)
  s.sendFloor .purgeWb { s.cacheMsg n pa 0 true with
    dstTile := BitVec.ofNat 4 t, dstAgent := BitVec.ofNat 9 j, writer := l.writer, length := 8, data := l.data, poison := l.poison }

/-- PURGE: every line whose home was the fenced tile leaves the cache and its write-back buffer, M and O lines by PURGE_WB; then
PURGE_DONE. -/
def execPurge (m : FloorMsg) (s : State) : Res :=
  let c := agentCache m.dstTile.toNat m.dstAgent.toNat
  if s.snoopSleeps .purge m then .next (c.toList.foldl (fun s n => s.wakeCache n) s) else
  s.receive .purge m fun s =>
    match c with
    | none => s
    | some n =>
      if s.cacheSilent n then s else
      let f := m.addr.toNat % 16
      let hit := (s.cache n).lines.filter fun x => x.2.home = f
      let gone := (s.cache n).wbuf.filter fun l => l.home = f
      let s := (hit.map (·.2) ++ gone).foldl (fun s l => if l.st = .m || l.st = .o then s.sendPurgeWb n l else s) s
      let s := s.modCache n fun ca => { ca with
        lines := ca.lines.filter fun x => x.2.home ≠ f
        wbuf := ca.wbuf.filter fun l => l.home ≠ f
        reserved := if hit.any fun x => ca.reserved = some x.2.line then none else ca.reserved }
      s.sendFloor .purgeDone (s.cacheMsg n f 2 true)

/-- R261: once no PURGE_DONE for a fenced tile is awaited, the tiles that took over its units release what they hold. -/
def State.purged (s : State) (f : Nat) : State :=
  if s.hub.purges.any fun p => p.2 = f then s else
  (List.range 12).foldl (fun s t =>
    if (s.tile t).taking.contains f then (s.modTile t fun k => { k with taking := k.taking.filter (· ≠ f) }).retryHeld t else s) s

/-- PURGE_DONE (R260, R261). -/
def execPurgeDone (m : FloorMsg) (s : State) : Res :=
  s.receive .purgeDone m fun s =>
    match senderCache m with
    | none => s
    | some n =>
      let f := m.addr.toNat % 16
      (s.modHub fun h => { h with purges := h.purges.filter (· ≠ (n, f)) }).purged f

/-! ## Answers at the home -/

/-- The transaction of a tile that awaits an answer about a physical line from a cache. -/
def State.txnFor (s : State) (t line n : Nat) : Option Txn :=
  (s.tile t).txns.find? fun x =>
    x.waiting.contains n && decide ((s.paOf t (x.recallOf.getD x.line * 128)).getD 0 / 128 = line)

/-- R242, R246: an answer updates the entry; one that stays keeps its format. -/
def DirEntry.answered (e : DirEntry) (n : Nat) (a : Answer) : Option DirEntry :=
  match a with
  | .miss => e.remove n
  | .ackI => e.remove n
  | .fwdI => e.remove n
  | .wbData => e.remove n
  | .ackS => some (((e.remove n).getD { e with st := DirState.s, ptrs := [], bits := 0 }).addSharer n)
  | .fwdO => if e.st = .x && e.owner = n then some { e with st := .o } else some e
  | .fwdKeep => some e
  | .ackKeep => some e

/-- R243: a recall whose snoops are answered: returned data is written, the victim's entry freed, and the request goes on. -/
def State.finishRecall (s : State) (t : Nat) (x : Txn) : State :=
  match x.recallOf with
  | none => s
  | some v =>
    let s := match x.ret with
      | none => s
      | some d => s.homeWrite t (v * 128) { data := d.1, poison := d.2 } allBytes { tile := t, part := s.partOf t, cls := 1, ctx := x.retWriter } false false
    let s := (s.dirSetEntry t v none).endTxn t x.line
    (s.beginTxn t (x.line * 128) x.req).retryHeld t

/-- R246: an answer of cache n about a line, with the data it returns to the home. -/
def State.answered (s : State) (t line n : Nat) (a : Answer) (ret : Option LineData) (writer : Option Nat := none) : State :=
  match s.txnFor t line n with
  | none => s
  | some x =>
    let el := x.recallOf.getD x.line
    let a' := if x.wbFrom.contains n then Answer.ackI else a
    let s := match (s.tile t).dirFind el with
      | some (_, e) => s.dirSetEntry t el (e.answered n a')
      | none => s
    let x' := { x with
      waiting := x.waiting.filter (· ≠ n)
      retWriter := if ret.isSome && !x.wbFrom.contains n then writer else x.retWriter
      fwd := x.fwd || a = .fwdO || a = .fwdI || a = .fwdKeep
      ret := match ret with | some d => if x.wbFrom.contains n then x.ret else some (d.data, d.poison) | none => x.ret }
    let s := s.modTxn t x.line fun _ => x'
    if x'.waiting.isEmpty && x'.recallOf.isNone then (s.finishTxn t x').retryHeld t else s

/-- An answer message arrives at the home. -/
def State.answerArrives (s : State) (op : FloorOp) (a : Answer) (m : FloorMsg) : Res :=
  s.receive op m fun s =>
    match senderCache m with
    | none => s
    | some n => s.answered m.dstTile.toNat m.line n a none

/-- SNP_MISS. -/
def execSnpMiss (m : FloorMsg) (s : State) : Res := s.answerArrives .snpMiss .miss m
/-- SNP_ACK_S. -/
def execSnpAckS (m : FloorMsg) (s : State) : Res := s.answerArrives .snpAckS .ackS m
/-- SNP_ACK_I. -/
def execSnpAckI (m : FloorMsg) (s : State) : Res := s.answerArrives .snpAckI .ackI m
/-- SNP_FWD_O. -/
def execSnpFwdO (m : FloorMsg) (s : State) : Res := s.answerArrives .snpFwdO .fwdO m
/-- SNP_FWD_I. -/
def execSnpFwdI (m : FloorMsg) (s : State) : Res := s.answerArrives .snpFwdI .fwdI m
/-- SNP_FWD_KEEP. -/
def execSnpFwdKeep (m : FloorMsg) (s : State) : Res := s.answerArrives .snpFwdKeep .fwdKeep m
/-- SNP_ACK_KEEP. -/
def execSnpAckKeep (m : FloorMsg) (s : State) : Res := s.answerArrives .snpAckKeep .ackKeep m

/-- CACK: the requester's transaction ends (R245), and the next on the line begins. -/
def execCack (m : FloorMsg) (s : State) : Res :=
  s.receive .cack m fun s =>
    let t := m.dstTile.toNat
    match (s.tile t).txns.find? fun x => x.granted && x.req.op.isCache && decide (x.req.msg.srcTile = m.srcTile) &&
        decide (x.req.msg.srcAgent = m.srcAgent) && decide (x.req.msg.line = m.line) with
    | none => s
    | some x => (s.endTxn t x.line).retryHeld t

/-- DIRECTORY_RECALL: the recall of a directory line completes, its snoops answered, and the waiting request proceeds. -/
def execDirectoryRecall (t : Fin 12) (line : Nat) (s : State) : Res :=
  match (s.tile t).txns.find? fun x => x.recallOf = some line && x.waiting.isEmpty with
  | none => .next s
  | some x => .next (s.finishRecall t x)

/-! ## Answers at a requester (R247) -/

/-- The line is installed once the grant and the data have come; CACK ends the transaction. -/
def State.tryInstall (s : State) (n line : Nat) : State :=
  match (s.cache n).reqs.find? (·.line = line) with
  | none => s
  | some q =>
    match q.grant with
    | none => s
    | some g =>
      if q.needData && q.data.isNone then s else
      let st := if q.dirty then LineState.m else g
      let s := s.modCache n fun ca => { ca with reqs := ca.reqs.filter fun x => x.line ≠ line }
      let s := match q.data, (s.cache n).find n line with
        | some d, some (w, _) => s.modCache n fun ca => ca.setLine n line w fun x => { x with st := st, data := d.1, poison := d.2, home := q.home }
        | some d, none => s.install n line st q.home { data := d.1, poison := d.2 }
        | none, some (w, _) => s.modCache n fun ca => ca.setLine n line w fun x => { x with st := st }
        | none, none => s
      let s := s.settleRequest (cacheTile n) (cacheAgent n) q.tag.toNat
      s.sendFloor .cack { s.cacheMsg n (line * 128) 2 true with dstTile := BitVec.ofNat 4 q.home, dstAgent := q.agent, tag := q.tag }

/-- A grant arrives. -/
def State.grantArrives (s : State) (op : FloorOp) (g : LineState) (m : FloorMsg) : Res :=
  s.receive op m fun s =>
    match agentCache m.dstTile.toNat m.dstAgent.toNat with
    | none => s
    | some n =>
      let s := s.modCache n fun ca => { ca with
        reqs := ca.reqs.map fun q => if q.line = m.line then { q with grant := some g, home := m.srcTile.toNat } else q }
      s.tryInstall n m.line

/-- COMP_S. -/
def execCompS (m : FloorMsg) (s : State) : Res := s.grantArrives .compS .s m
/-- COMP_E. -/
def execCompE (m : FloorMsg) (s : State) : Res := s.grantArrives .compE .e m
/-- COMP_M. -/
def execCompM (m : FloorMsg) (s : State) : Res := s.grantArrives .compM .m m

/-- Data arrives at a cache with a request for the line; another agent's request is complete with it (R188). -/
def State.dataArrives (s : State) (m : FloorMsg) (dirty : Bool) : State :=
  match agentCache m.dstTile.toNat m.dstAgent.toNat with
  | none => s.settleRequest m.dstTile.toNat m.dstAgent.toNat m.tag.toNat
  | some n =>
    if (s.cache n).reqs.any (·.line = m.line) then
      let s := s.modCache n fun ca => { ca with
        reqs := ca.reqs.map fun q => if q.line = m.line then { q with data := some (m.data, m.poison), dirty := q.dirty || dirty } else q }
      s.tryInstall n m.line
    else s.settleRequest m.dstTile.toNat m.dstAgent.toNat m.tag.toNat

/-- DATA_CLEAN. -/
def execDataClean (m : FloorMsg) (s : State) : Res := s.receive .dataClean m fun s => s.dataArrives m false

/-- DATA_DIRTY: at a requester it makes the line M; at the home it is the answer to SNP_INV_WB. -/
def execDataDirty (m : FloorMsg) (s : State) : Res :=
  s.receive .dataDirty m fun s =>
    if m.dstAgent.toNat < 128 then
      match senderCache m with
      | none => s
      | some n => s.answered m.dstTile.toNat m.line n .wbData (some { data := m.data, poison := m.poison }) m.writer
    else s.dataArrives m true

/-- ATOM_OLD: the requester's atomic is complete. -/
def execAtomOld (m : FloorMsg) (s : State) : Res :=
  s.receive .atomOld m fun s => s.settleRequest m.dstTile.toNat m.dstAgent.toNat m.tag.toNat

/-! ## Timeouts -/

/-- R16, R456: a fence of a die begins; one that is under way absorbs it. -/
def State.startFence (s : State) (d cause : Nat) : State :=
  let k := s.tile d
  if k.fenced || k.fence.isSome then s else s.modTile d fun k => { k with fence := some (cause, s.floorCycles) }

/-- SNOOP_TIMEOUT (R454, R455): a snoop unanswered for 1 ms: the silent caches' dies are fenced. -/
def execSnoopTimeout (t : Fin 12) (line : Nat) (s : State) : Res :=
  match (s.tile t).txns.find? fun x => (x.line = line || x.recallOf = some line) && !x.waiting.isEmpty && s.floorLate x.start with
  | none => .next s
  | some x =>
    let pa := (s.paOf t (x.recallOf.getD x.line * 128)).getD 0
    let dies := (x.waiting.map cacheTile).eraseDups
    .next (dies.foldl (fun s d =>
      if (s.tile d).fenced || (s.tile d).fence.isSome then s else
      let n := (x.waiting.find? fun n => cacheTile n = d).getD 0
      let s := s.record t { typ := 0x0D, cls := 3, source := t, unit := unitOf 0x0B d, payload := pack [(0, 8, pa), (8, 2, n)] }
      s.startFence d 1) s)

/-- R218: whether a request waits at tile t for a device in the critical stage. -/
def State.heldCritical (s : State) (t : Nat) (f : Flight) : Bool :=
  let k := s.tile t
  (k.held.any fun h => h.1.same f && decide (h.2.2 = 1)) ||
  k.slices.any fun x => ((x.2.misses.map (·.2)) ++ x.2.parked).any fun g => g.same f && s.critical t (s.tmaAt g)

/-- FLOOR_REQUEST_TIMEOUT (R190, R218, R454): a request unanswered for 1 ms completes with TIMEOUT, with FENCED, or, where it waited for a
critical device, with MEM_STOPPED; its transaction ends with it. -/
def execFloorRequestTimeout (srcTile : Fin 13) (srcAgent : BitVec 9) (tag : BitVec 10) (s : State) : Res :=
  match s.outstanding.find? fun x => x.1.msg.srcTile.toNat = srcTile.val && x.1.msg.srcAgent = srcAgent && x.1.msg.tag = tag with
  | none => .next s
  | some (f, at_) =>
    if !s.floorLate at_ then .next s else
    let t := f.msg.dstTile.toNat
    let fenced := (s.tile t).fenced || (s.tile t).fence.isSome
    let stopped := s.heldCritical t f
    let s := s.settleOf f.msg
    let s := match senderCache f.msg with
      | some n => s.modCache n fun ca => { ca with reqs := ca.reqs.filter fun q => q.line ≠ f.msg.line }
      | none => s
    let s := s.sendFloor .ack (ackOf f.msg (if fenced then 2 else if stopped then 4 else 3))
    .next ((s.modTile t fun k => { k with
      held := k.held.filter fun h => !h.1.same f
      txns := k.txns.filter fun x => !x.req.same f
      slices := k.slices.map fun (j, sl) => (j, { sl with parked := sl.parked.filter (!f.same ·), misses := sl.misses.filter fun x => !x.2.same f }) }).retryHeld t)

/-- MEM_STOPPED (R218): a request held for a critical device for 1 ms completes with MEM_STOPPED. -/
def execMemStopped (srcTile : Fin 13) (srcAgent : BitVec 9) (tag : BitVec 10) (s : State) : Res :=
  let mine := fun (h : Flight × Nat × Nat) => h.1.msg.srcTile.toNat = srcTile.val && h.1.msg.srcAgent = srcAgent && h.1.msg.tag = tag &&
    h.2.2 = 1 && s.floorLate h.2.1
  match (List.range 12).findSome? fun t => ((s.tile t).held.find? mine).map fun h => (t, h) with
  | none => .next s
  | some (t, h) =>
    let s := match senderCache h.1.msg with
      | some n => s.modCache n fun ca => { ca with reqs := ca.reqs.filter fun q => q.line ≠ h.1.msg.line }
      | none => s
    .next ((s.modTile t fun k => { k with held := k.held.filter (· ≠ h) }).refuse h.1.msg .stopped)

/-- DIRECTORY_FENCE_SCAN (R259): the scan of a surviving slice for the entries that name the fenced die's caches completes. -/
def execDirectoryFenceScan (t : Fin 12) (d : Fin 12) (s : State) : Res :=
  if !(s.tile t).scans.contains d then .next s else
  let s := ((s.tile t).dir.map fun x => x.2.line).foldl (fun s l => s.fenceEntry t l) s
  .next (s.modTile t fun k => { k with scans := k.scans.filter (· ≠ d) })

/-! ## Fills and victims (R199 to R201) -/

/-- LINE_FILL_COMPLETE: the fill of a set's miss returns from DRAM and serves its request, and the parked requests of the set
go on. A full victim buffer, a critical device or a bank under repair delays it. -/
def execLineFillComplete (t : Fin 12) (j : Fin 128) (set : Fin 1024) (s : State) : Res :=
  let sl := (s.tile t).slice j
  match kfind sl.misses set with
  | none => .next s
  | some f =>
    let tma := s.tmaAt f
    if 8 ≤ sl.victims.length || s.deviceHeld t tma then .next s else
    let s := s.modSlice t j fun sl => { sl with misses := kdel sl.misses set }
    let (s, d) := s.homeRead t tma (requesterOf f.op f.msg) true f.bypass
    let s := s.giveData t (tma / 128) f d
    let same := fun (g : Flight) => decide (s.tmaAt g = tma) && (g.op.isCache || g.op = .rdLineNc || g.op = .rdSector)
    let ps := ((s.tile t).slice j).parked.filter same
    let s := s.modSlice t j fun sl => { sl with parked := sl.parked.filter fun g => !same g }
    .next ((ps.foldl (fun s g => s.giveData t (tma / 128) g d) s).retryHeld t)

/-- VICTIM_WRITEBACK: the oldest dirty victim of a slice is written to its device, unless that is stopped (R218); what waited for its entry
goes on. -/
def execVictimWriteback (t : Fin 12) (j : Fin 128) (s : State) : Res :=
  match ((s.tile t).slice j).victims with
  | [] => .next s
  | v :: _ => if s.deviceHeld t (v.1 * 128) then .next s else .next ((s.flushVictim t j).retryHeld t)

/-- STREAM_ENTRY_RESET (R200): an entry without a match for more than 2^GAP_EXP floor cycles has its count set to 0. -/
def execStreamEntryReset (t : Fin 12) (e : Fin 16) (s : State) : Res :=
  match kfind (s.tile t).streamEntries e with
  | none => .next s
  | some x =>
    if x.last + 2 ^ (s.tile t).gapExp.toNat < s.floorCycles then
      .next (s.modTile t fun k => { k with streamEntries := kset k.streamEntries e { x with count := 0 } })
    else .next s

end Sys2Proof.Machine
end

