-- ==== Sys2Proof/Machine/Frames.lean ====
section
/-! DEFINITION. Frames (R276): their bytes and checks, link addresses and routes (R277 to R279), slowness and stopping (R288,
R289), and what is put on a link to be sent. -/

namespace Sys2Proof

/-- The header of Table 9.7. -/
def Frame.header (f : Frame) : Nat :=
  f.typ.toNat + f.vc.toNat * 2 ^ 8 + f.plen.toNat * 2 ^ 10 + f.hops.toNat * 2 ^ 16 + f.status.toNat * 2 ^ 19 +
  f.slow.toNat * 2 ^ 22 + f.poison.toNat * 2 ^ 24 + f.pid.toNat * 2 ^ 32 + f.dst.toNat * 2 ^ 64 + f.src.toNat * 2 ^ 96 +
  f.tag.toNat * 2 ^ 128 + f.reason.toNat * 2 ^ 144 + f.size.toNat * 2 ^ 152 + f.aop.toNat * 2 ^ 155 +
  f.atype.toNat * 2 ^ 158 + f.ret.toNat * 2 ^ 162 + f.rsvA.toNat * 2 ^ 163 + f.chan.toNat * 2 ^ 176 +
  f.addr.toNat * 2 ^ 192 + f.rsvB.toNat * 2 ^ 244

/-- PLEN in bytes, and the bytes of the payload that PLEN gives. -/
def Frame.plenBytes (f : Frame) : Nat := f.plen.toNat * 8
def Frame.body (f : Frame) : List Byte := (f.payload ++ List.replicate f.plenBytes 0).take f.plenBytes

/-- R276: header and payload. -/
def Frame.bytes (f : Frame) : List Byte := Machine.leBytes 32 f.header ++ f.body

/-- R275: the credits a frame needs. -/
def Frame.need (f : Frame) : Nat := (32 + f.plenBytes + 63) / 64

/-- A frame from its bytes. -/
def frameOf (bs : List Byte) : Frame :=
  let h := Machine.leNat (bs.take 32)
  let x := fun lo len => Machine.fldN h lo len
  { typ := BitVec.ofNat 8 (x 0 8), vc := BitVec.ofNat 2 (x 8 2), plen := BitVec.ofNat 6 (x 10 6), hops := BitVec.ofNat 3 (x 16 3)
    status := BitVec.ofNat 3 (x 19 3), slow := BitVec.ofNat 2 (x 22 2), poison := BitVec.ofNat 8 (x 24 8)
    pid := BitVec.ofNat 32 (x 32 32), dst := BitVec.ofNat 32 (x 64 32), src := BitVec.ofNat 32 (x 96 32)
    tag := BitVec.ofNat 16 (x 128 16), reason := BitVec.ofNat 8 (x 144 8), size := BitVec.ofNat 3 (x 152 3)
    aop := BitVec.ofNat 3 (x 155 3), atype := BitVec.ofNat 4 (x 158 4), ret := BitVec.ofNat 1 (x 162 1)
    rsvA := BitVec.ofNat 13 (x 163 13), chan := BitVec.ofNat 16 (x 176 16), addr := BitVec.ofNat 52 (x 192 52)
    rsvB := BitVec.ofNat 12 (x 244 12), payload := (bs.drop 32).take (x 10 6 * 8) }

/-- Table 9.8: the VC and the PLENs of a type. -/
def frameKind : Nat → Option (Nat × List Nat)
  | 0x01 => some (0, [0])
  | 0x02 => some (0, [1, 2])
  | 0x03 => some (0, [2])
  | 0x04 => some (0, [2])
  | 0x08 => some (1, [1, 2])
  | 0x09 => some (1, [0])
  | 0x0A => some (1, [1])
  | 0x0B => some (1, [0])
  | 0x0C => some (1, [4])
  | 0x10 => some (2, (List.range 32).map (· + 1))
  | 0x11 => some (2, [0])
  | _ => none

/-- R281 check 2, in the order of its clauses: the reason, where the frame is rejected. A STATUS that Table 9.7 reserves, or
that a request does not have, is a field that must be zero, and so are bits [31:21] of a link address (Table 9.9). -/
def Frame.badReason (f : Frame) : Option Nat :=
  match frameKind f.typ.toNat with
  | none => some 1
  | some (vc, plens) =>
    let lenOk := if f.typ = 2 then f.plen.toNat = (if f.size = 4 then 2 else 1) else plens.contains f.plen.toNat
    if f.vc.toNat ≠ vc || !lenOk then some 2
    else if f.rsvA ≠ 0 || f.rsvB ≠ 0 || 2 ^ 21 ≤ f.dst.toNat || 2 ^ 21 ≤ f.src.toNat || 3 < f.status.toNat || (f.typ.toNat ≤ 4 && f.status ≠ 0) then some 3
    else none

/-- A link address without the reserved bits of Table 9.9, which are zero in what the module sends (R9). -/
def plainAddr (a : BitVec 32) : BitVec 32 := a &&& 0x1FFFFF

/-- R282: the answer type of a request. -/
def answerType : Nat → Option Nat
  | 1 => some 0x08
  | 2 => some 0x09
  | 3 => some 0x0A
  | 4 => some 0x0B
  | _ => none

/-- Table 9.15. -/
def Frame.offset (f : Frame) : Nat := Machine.fld f.addr 0 32
def Frame.sliceIdx (f : Frame) : Nat := Machine.fld f.addr 32 4
def Frame.level (f : Frame) : Nat := Machine.fld f.addr 36 5
def Frame.phase (f : Frame) : Nat := Machine.fld f.addr 41 1
def Frame.virt (f : Frame) : Nat := Machine.fld f.addr 42 1
def Frame.seqNo (f : Frame) : Nat := Machine.fld f.addr 43 9

end Sys2Proof

namespace Sys2Proof.Machine

/-! ## Addresses (R277, R278) -/

/-- The link address of the partition of tile t; 0, LNK_SELF's reset value, where the tile has no partition (Table 9.20). -/
def State.selfAddr (s : State) (t : Nat) : BitVec 32 :=
  if (s.partition (s.partOf t)).dies = 0 then 0 else BitVec.ofNat 32 (s.hub.module.toNat + s.hub.pod.toNat * 2 ^ 7 + s.partOf t * 2 ^ 17)

/-- The PID of the partition of tile t. -/
def State.pidOf (s : State) (t : Nat) : BitVec 32 := (s.partition (s.partOf t)).pid

/-- Whether a link address names this module. -/
def State.ownDst (s : State) (a : BitVec 32) : Bool := fld a 0 7 = s.hub.module.toNat && fld a 7 10 = s.hub.pod.toNat

/-- POD and MODULE of an address. -/
def moduleKey (a : BitVec 32) : Nat := fld a 0 17

/-! ## Slowness and stopping (R288, R289) -/

/-- The level of a DRAM stage (Table 9.12). -/
def stageSlow (stage : Nat) : Nat := if stage < 2 then 0 else if stage < 5 then stage - 1 else 3

/-- R288: the level that the partition's present conditions give. -/
def State.slowNow (s : State) (part : Nat) : Nat :=
  let ds := s.partDies part
  let mem := ds.foldl (fun m d => (s.tile d).drams.foldl (fun m x => Nat.max m (stageSlow x.2.stage.toNat)) m) 0
  let run := ds.filter fun d => !(s.tile d).fenced && (s.die d).pll && !(s.die d).pllFailed
  let clk := run.foldl (fun n d => Nat.min n (s.pwr d).n) 64
  Nat.max mem (if clk < 8 then 3 else if clk < 16 then 2 else if clk < 32 then 1 else 0)

/-- R288: the level advertised: it rises with its cause and falls by SLOW_LEVEL_FALL. -/
def State.slowOf (s : State) (part : Nat) : Nat := Nat.max (s.partition part).slow (s.slowNow part)

/-- R288: the partition's level and the time since which a lower one has held are brought up to date. -/
def State.noteSlow (s : State) (part : Nat) : State :=
  let now := s.slowNow part
  s.modPartition part fun p =>
    if p.slow ≤ now then { p with slow := now, lowerSince := none }
    else { p with lowerSince := some (p.lowerSince.getD s.ticks) }

/-- SLOW_LEVEL_FALL (R288): a lower level has held for 1 ms. -/
def execSlowLevelFall (firstDie : Fin 12) (s : State) : Res :=
  let s' := s.noteSlow firstDie
  match (s'.partition firstDie).lowerSince with
  | none => .next s'
  | some t =>
    if s.elapsed t msTicks then .next (s'.modPartition firstDie fun p => { p with slow := s.slowNow firstDie, lowerSince := none })
    else .next s'

/-- R289: whether a partition advertises STOPPED. -/
def State.stoppedNow (s : State) (part : Nat) : Bool :=
  let ds := s.partDies part
  s.power.coolStop || s.power.standby ||
  ds.any (fun d => (s.tile d).drams.any fun x => x.2.stage = 5) ||
  (!ds.isEmpty && ds.all fun d => (s.tile d).fenced)

/-! ## Routes (R279, R304) -/

/-- R279: the number that chooses among an entry's links. -/
def routeKey (f : Frame) : Nat :=
  match f.typ.toNat with
  | 0x04 => f.chan.toNat
  | 0x10 => f.offset / 64
  | 0x11 => 0
  | 0x0C => 0
  | t => if t < 4 then f.addr.toNat / 4096 else f.tag.toNat

/-- R279: the link on which a frame bound for another module leaves tile t, none where there is no route. -/
def State.routeOf (s : State) (t : Nat) (f : Frame) : Option Nat :=
  let k := s.tile t
  let e : BitVec 32 := if fld f.dst 7 10 = s.hub.pod.toNat then kget 0 k.modRoutes (fld f.dst 0 7) else kget 0 k.podRoutes (fld f.dst 7 10)
  let n := fld e 0 3
  if n = 0 then none else
  let l := fld e (3 + 7 * (routeKey f % n)) 7
  if s.partOf (l / 8) = s.partOf t then some l else none

/-- R265: a frame queued on a link; it leaves the module with HOPS one higher. -/
def State.pushFrame (s : State) (l : Nat) (f : Frame) : State :=
  s.modLink l fun k => { k with txq := k.txq ++ [{ f with hops := f.hops + 1 }] }

/-- A frame that tile t's partition builds: the fields that no argument names are zero. -/
def State.frame (s : State) (t typ : Nat) (dst : BitVec 32) (tag : Nat) (payload : List Byte) : Frame :=
  { typ := BitVec.ofNat 8 typ, vc := BitVec.ofNat 2 ((frameKind typ).getD (0, [])).1, plen := BitVec.ofNat 6 (payload.length / 8)
    hops := 0, status := 0, slow := BitVec.ofNat 2 (s.slowOf (s.partOf t)), poison := 0, pid := s.pidOf t, dst := dst
    src := s.selfAddr t, tag := BitVec.ofNat 16 tag, reason := 0, size := 0, aop := 0, atype := 0, ret := 0, rsvA := 0
    chan := 0, addr := 0, rsvB := 0, payload := payload }

/-- R279: a frame sent from tile t: to the module itself (log 29), or on its route; without a route it is lost. -/
def State.sendFrame (s : State) (t : Nat) (f : Frame) : State :=
  if s.ownDst f.dst then { s with localFrames := s.localFrames ++ [(t, none, f)] }
  else match s.routeOf t f with
    | some l => s.pushFrame l f
    | none => s

/-- R276, R282: the answer to a request, sent from tile t. -/
def State.answerFrame (s : State) (t : Nat) (f : Frame) (status reason poison : Nat) (payload : List Byte) : State :=
  match answerType f.typ.toNat with
  | none => s
  | some a =>
    let n := if a = 0x08 then (if f.size = 4 then 16 else 8) else if a = 0x0A then 8 else 0
    let a := if f.typ = 3 && f.ret = 0 then 0x09 else a
    let n := if a = 0x09 then 0 else n
    let x := s.frame t a f.src f.tag.toNat ((payload ++ List.replicate n 0).take n)
    s.sendFrame t { x with pid := f.pid, src := f.dst, status := BitVec.ofNat 3 status, reason := BitVec.ofNat 8 reason
                           poison := BitVec.ofNat 8 poison }

/-! ## The receiving buffer of a link (R275, R281) -/

/-- R275: a frame leaves the link buffer: its credits are freed. -/
def State.freeCredits (s : State) (l : Nat) (f : Frame) : State :=
  let v := f.vc.toNat
  s.modLink l fun k => { k with crFreed := kmod 0 k.crFreed v (· + BitVec.ofNat 12 f.need), rxUsed := kmod 0 k.rxUsed v (· - f.need) }

/-- Credits of a VC (Table 9.6). -/
def vcCredits (v : Nat) : Nat := if v = 2 then 2048 else if v < 2 then 512 else 0

/-- R282: a frame rejected at checks 2 to 5: it is counted and logged, and answered with NAK, or with LINK_NAK to the
neighbour. -/
def State.rejectFrame (s : State) (t : Nat) (l : Option Nat) (f : Frame) (reason : Nat) : State :=
  let s := match l with
    | none => s
    | some l =>
      let k := s.link l
      let fresh := match kfind k.rejLogged reason with
        | none => true
        | some at_ => s.elapsed at_ secTicks
      let s := s.modLink l fun k => { k with rejects := satAdd k.rejects 1, rejLogged := if fresh then kset k.rejLogged reason s.ticks else k.rejLogged }
      if !fresh then s else
      s.record t { typ := 0x0B, cls := 1, source := t, unit := unitOf 0x05 l, payload := pack [(0, 1, l), (1, 1, reason), (8, 32, f.header)] }
  match answerType f.typ.toNat, l with
  | some _, _ => s.answerFrame t { f with dst := plainAddr f.dst, src := plainAddr f.src } 2 reason 0 []
  | none, none => s
  | none, some l =>
    let k := s.link l
    let due := match k.nakAt with
      | none => true
      | some at_ => s.elapsed at_ usTicks
    if !due then s else
    let n := s.frame t 0x0C k.peerSelf f.tag.toNat (leBytes 32 f.header)
    let s := s.modLink l fun k => { k with nakAt := some s.ticks }
    s.pushFrame l { n with reason := BitVec.ofNat 8 reason }

end Sys2Proof.Machine
end

