-- ==== Sys2Proof/Machine/Coll.lean ====
section
/-! DEFINITION. The collective engine (R291 to R299): the descriptor, the slices, blocks and roles of the wire schedule, the
element tree, the frames sent and received, and the ways a collective ends. -/

namespace Sys2Proof.Machine

/-! ## The descriptor (Table 9.13) -/

structure CollDesc where
  op : Nat
  red : Nat
  dtype : Nat
  chan : Nat
  count : Nat
  ranks : Nat
  firstRank : Nat
  localRanks : Nat
  seq : Nat
  timeoutMs : Nat
  sendBase : Nat
  sendStride : Nat
  recvBase : Nat
  peerTable : Nat
deriving DecidableEq, Repr

def collDesc (d : BitVec 512) : CollDesc :=
  let x := fun o w => byteFld d o w
  { op := x 2 1, red := x 3 1, dtype := x 4 1, chan := x 6 2, count := x 8 4, ranks := x 0xC 4, firstRank := x 0x10 4
    localRanks := x 0x14 2, seq := x 0x16 2, timeoutMs := x 0x18 2, sendBase := x 0x20 8, sendStride := x 0x28 8
    recvBase := x 0x30 8, peerTable := x 0x38 8 }

def CollDesc.q (d : CollDesc) : Nat := d.ranks / d.localRanks
def CollDesc.me (d : CollDesc) : Nat := d.firstRank / d.localRanks
def isPow2 (n : Nat) : Bool := decide (n ≠ 0) && decide (2 ^ ceilLog2 n = n)

/-- R291: the rules of a descriptor. Buffers are 64-byte aligned: the send buffer of every local rank is. -/
def collValid (v : BitVec 512) : Bool :=
  let d := collDesc v
  byteFld v 0 2 = 4 && byteFld v 5 1 = 0 && byteFld v 0x1A 6 = 0 &&
  decide (d.op < 4) && decide (d.red < 6) && decide (d.dtype < 8) && (decide (d.op < 2) || d.red = 0) &&
  (decide (d.red < 3) || decide (d.dtype < 4)) &&
  decide (1 ≤ d.count) && decide (d.count ≤ 2 ^ 31) && decide (1 ≤ d.ranks) && decide (d.ranks ≤ 2 ^ 20) &&
  isPow2 d.localRanks && decide (d.localRanks ≤ 4096) && d.ranks % d.localRanks = 0 && d.firstRank % d.localRanks = 0 &&
  decide (d.firstRank < d.ranks) && decide (1 ≤ d.timeoutMs) && decide (d.timeoutMs ≤ 60000) &&
  d.sendBase % 64 = 0 && d.recvBase % 64 = 0 && (d.localRanks = 1 || d.sendStride % 64 = 0) &&
  (d.op ≠ 1 || (isPow2 d.q && d.count % d.q = 0))

/-! ## Elements (R292) -/

/-- An element as it is carried, and whether it is poisoned. -/
abbrev CElem := Nat × Bool

/-- R292: the ATYPE in which partials are carried. -/
def carriedType (t : Nat) : Nat := if t = 6 || t = 7 then 4 else t

def CollDesc.reduces (d : CollDesc) : Bool := decide (d.op < 2)
def CollDesc.gathers (d : CollDesc) : Bool := d.op ≠ 1

/-- Bytes of an element of DTYPE, and of one as its frames carry it in a phase. -/
def CollDesc.width (d : CollDesc) : Nat := atypeBytes d.dtype
def CollDesc.carried (d : CollDesc) : Nat := if d.reduces then atypeBytes (carriedType d.dtype) else d.width

/-- R292: a send element widened exactly. -/
def widenElem (t x : Nat) : Nat := match t with
  | 6 => convert fp32 fp16 0 false x
  | 7 => convert fp32 bf16 0 false x
  | _ => x

/-- R292: the value written: rounded once where the carried type is wider, a NaN canonical. -/
def finalElem (t x : Nat) : Nat := match t with
  | 6 => convert fp16 fp32 0 false x
  | 7 => convert bf16 fp32 0 false x
  | 4 => if fp32.isNan x then fp32.nan else x
  | 5 => if fp64.isNan x then fp64.nan else x
  | _ => x

/-- R292, R298: one step of the tree: the lower rank's partial is the left operand, and poison spreads. -/
def collStep (d : CollDesc) (a b : CElem) : CElem := (atomNew d.red (carriedType d.dtype) a.1 b.1 0, a.2 || b.2)

def collIdentity (d : CollDesc) : CElem := (redIdentity d.red (carriedType d.dtype), false)

/-- R292, R294: the tree over the local ranks' elements, lowest rank first. -/
def collTree (d : CollDesc) : Nat → List CElem → CElem
  | 0, l => l.headD (collIdentity d)
  | n + 1, l => collStep d (collTree d n (l.take (2 ^ n))) (collTree d n (l.drop (2 ^ n)))

/-! ## Slices, blocks and roles (R294, R295) -/

def up64 (x : Nat) : Nat := (x + 63) / 64 * 64
def ceilDiv (a b : Nat) : Nat := (a + b - 1) / b

/-- The schedule of one engine: of die index i of n. -/
structure Geo where
  d : CollDesc
  n : Nat
  i : Nat
deriving DecidableEq, Repr

/-- R295: K. -/
def Geo.k (g : Geo) : Nat := ceilLog2 g.d.q
/-- R294: the elements that are divided among the dies. -/
def Geo.total (g : Geo) : Nat := if g.d.op = 1 then g.d.count / g.d.q else if g.d.op = 2 then g.d.localRanks * g.d.count else g.d.count
def Geo.z (g : Geo) : Nat := up64 (ceilDiv g.total g.n)
/-- Elements of the portion of this engine. -/
def Geo.len (g : Geo) : Nat := Nat.min ((g.i + 1) * g.z) g.total - g.i * g.z
/-- R295: B. A block of ALL_GATHER or BROADCAST is a whole contribution (log 30). -/
def Geo.b (g : Geo) : Nat := if g.d.op = 0 then up64 (ceilDiv g.len (2 ^ g.k)) else g.z
def Geo.blockLen (g : Geo) (b : Nat) : Nat := match g.d.op with
  | 0 => Nat.min ((b + 1) * g.b) g.len - b * g.b
  | 1 => g.len
  | 2 => if b < g.d.q then g.len else 0
  | _ => if b = 0 then g.len else 0
/-- R295: the role that a participant performs as itself (0) or virtually (1). -/
def Geo.role (g : Geo) (kind : Nat) : Nat := if kind = 0 then g.d.me else g.d.me + 2 ^ (g.k - 1)
def Geo.kinds (g : Geo) : List Nat :=
  let v := g.d.me + 2 ^ (g.k - 1)
  if g.k = 0 then [0] else if g.d.q ≤ v && v < 2 ^ g.k then [0, 1] else [0]
/-- R295: who performs a role. -/
def Geo.performer (g : Geo) (y : Nat) : Nat × Nat := if y < g.d.q then (y, 0) else (y - 2 ^ (g.k - 1), 1)

def collKey (kind b : Nat) : Nat := kind * 2 ^ 20 + b
def xchgKey (phase level kind b : Nat) : Nat := ((phase * 32 + level) * 2 + kind) * 2 ^ 20 + b

/-- What a role sends at one level: kind, phase, level, block and elements. -/
abbrev Exch := Nat × Nat × Nat × Nat × List CElem

def ofElems (l : List CElem) : List (BitVec 64 × Bool) := l.map fun (x, p) => (BitVec.ofNat 64 x, p)
def toElems (l : List (BitVec 64 × Bool)) : List CElem := l.map fun (x, p) => (x.toNat, p)

/-- All elements of a block have come from the partner. -/
def CollEngine.full (e : CollEngine) (g : Geo) (phase level kind b : Nat) : Bool :=
  decide ((kget [] e.recv (xchgKey phase level kind b)).length = g.blockLen b) && decide (g.blockLen b ≠ 0)

def CollEngine.received (e : CollEngine) (phase level kind b : Nat) : List CElem :=
  (kget [] e.recv (xchgKey phase level kind b)).map fun (_, x, p) => (x.toNat, p)

/-- The level that marks a block as final. -/
def finalLevel : Nat := 31

/-- R295, gather phase: a block becomes final at a role, and is sent at every lower level. -/
def CollEngine.obtain (e : CollEngine) (kind b : Nat) (vals : List CElem) (below : Nat) : CollEngine × List Exch :=
  let e := { e with parts := kset e.parts (collKey kind b) (ofElems vals), level := kset e.level (collKey kind b) finalLevel }
  let lv := (List.range below).reverse
  ({ e with sent := e.sent ++ lv.map fun l => xchgKey 1 l kind b }, lv.map fun l => (kind, 1, l, b, vals))

/-- R295, reduce phase: the levels of one block, as far as its operands are present. -/
def CollEngine.advance (g : Geo) (kind b : Nat) : Nat → CollEngine → CollEngine × List Exch
  | 0, e => (e, [])
  | n + 1, e =>
    let k := collKey kind b
    match kfind e.parts k with
    | none => (e, [])
    | some vals =>
      let lv := kget 0 e.level k
      let r := g.role kind
      if lv = finalLevel then (e, [])
      else if lv = g.k then
        if g.d.gathers then e.obtain kind b (toElems vals) g.k
        else ({ e with level := kset e.level k finalLevel }, [])
      else if b.testBit lv != r.testBit lv then
        ({ e with parts := kdel e.parts k, sent := e.sent ++ [xchgKey 0 lv kind b] }, [(kind, 0, lv, b, toElems vals)])
      else if e.full g 0 lv kind b then
        let other := e.received 0 lv kind b
        let mine := toElems vals
        let new := if r.testBit lv then List.zipWith (collStep g.d) other mine else List.zipWith (collStep g.d) mine other
        CollEngine.advance g kind b n { e with parts := kset e.parts k (ofElems new), level := kset e.level k (lv + 1) }
      else (e, [])

/-- A block of a role brought as far as it can go. -/
def CollEngine.settleBlock (g : Geo) (kind b : Nat) (e : CollEngine) : CollEngine × List Exch :=
  if g.blockLen b = 0 then (e, []) else
  let (e, out) := if g.d.reduces then CollEngine.advance g kind b (g.k + 1) e else (e, [])
  if !g.d.gathers || kget 0 e.level (collKey kind b) = finalLevel then (e, out) else
  match (List.range g.k).find? fun l => e.full g 1 l kind b with
  | none => (e, out)
  | some l =>
    let (e, more) := e.obtain kind b (e.received 1 l kind b) l
    (e, out ++ more)

def CollEngine.settleAll (g : Geo) (e : CollEngine) : CollEngine × List Exch :=
  g.kinds.foldl (fun x kind => (List.range (2 ^ g.k)).foldl (fun (x : CollEngine × List Exch) b =>
    let (e, out) := CollEngine.settleBlock g kind b x.1
    (e, x.2 ++ out)) x) (e, [])

/-- Whether the engine has done all it must: in a gather every block is final; in a reduce-scatter its own is, and every other
has been sent on. -/
def CollEngine.complete (g : Geo) (e : CollEngine) : Bool :=
  let isFinal := fun kind b => g.blockLen b = 0 || kget 0 e.level (collKey kind b) = finalLevel
  if g.d.op = 1 then (List.range (2 ^ g.k)).all fun b =>
    if b = g.d.me then isFinal 0 b else g.blockLen b = 0 || (kfind e.parts (collKey 0 b)).isNone
  else g.kinds.all fun kind => (List.range (2 ^ g.k)).all fun b => isFinal kind b

/-- R299: whether a level of a role is finished: all it sends is sent and all it receives has come. -/
def CollEngine.levelDone (g : Geo) (e : CollEngine) (kind phase level : Nat) : Bool :=
  let r := g.role kind
  let y := r ^^^ 2 ^ level
  let m := 2 ^ (level + 1)
  let inOf := if phase = 0 then r % m else y % m
  let outOf := if phase = 0 then y % m else r % m
  (List.range (2 ^ g.k)).all fun b => g.blockLen b = 0 ||
    ((b % m ≠ inOf || e.full g phase level kind b) && (b % m ≠ outOf || e.sent.contains (xchgKey phase level kind b)))

/-! ## The collective in the state -/

/-- The collective of a queue's command. -/
def State.collOf (s : State) (q : Nat) : Option Coll := s.colls.find? fun c => c.queue = q

def State.modColl (s : State) (q : Nat) (f : Coll → Coll) : State :=
  { s with colls := s.colls.map fun c => if c.queue = q then f c else c }

def Coll.geo (c : Coll) (i : Nat) : Geo := { d := collDesc c.desc, n := c.dies, i := i }
def Coll.engine (c : Coll) (i : Nat) : CollEngine := kget {} c.engines i
def Coll.peer (c : Coll) (x : Nat) : BitVec 32 := (c.peers[x]?).getD 0

/-- R296: a COLL frame of an engine to the performer of role y. -/
def State.collFrame (s : State) (c : Coll) (i typ y phase level off : Nat) (poison : Nat) (payload : List Byte) : State :=
  let g := c.geo i
  let (x, virt) := g.performer y
  let addr := off + i * 2 ^ 32 + level * 2 ^ 36 + phase * 2 ^ 41 + virt * 2 ^ 42 + g.d.seq % 512 * 2 ^ 43
  let f := s.frame (c.first + i) typ (c.peer x) 0 payload
  s.sendFrame (c.first + i) { f with chan := BitVec.ofNat 16 g.d.chan, addr := BitVec.ofNat 52 addr, poison := BitVec.ofNat 8 poison }

/-- R296: an exchange as frames of up to 256 bytes, in at most n of them; a payload is filled up to 8 bytes with zeros. -/
def State.sendElems (s : State) (c : Coll) (i y phase level : Nat) : Nat → Nat → List CElem → State
  | 0, _, _ => s
  | n + 1, off, vals =>
    if vals.isEmpty then s else
    let w := (c.geo i).d.carried
    let m := Nat.min vals.length (256 / w)
    let now := vals.take m
    let raw := (now.map fun x => leBytes w x.1).flatten
    let pad := List.replicate ((8 - raw.length % 8) % 8) 0
    let poison := (maskOf 8 ((List.range m).filter (fun j => ((now[j]?).getD (0, false)).2) |>.map fun j => j * w / 32)).toNat
    (s.collFrame c i 0x10 y phase level off poison (raw ++ pad)).sendElems c i y phase level n (off + m) (vals.drop m)

/-- The exchanges of an engine put on their links. -/
def State.sendExch (s : State) (c : Coll) (i : Nat) (x : Exch) : State :=
  let (kind, phase, level, b, vals) := x
  let g := c.geo i
  s.sendElems c i (g.role kind ^^^ 2 ^ level) phase level (vals.length + 1) (b * g.b) vals

/-- R299: COLL_ABORT to the role partner of every level that engine i has not finished. -/
def State.sendAborts (s : State) (c : Coll) (i : Nat) : State :=
  let g := c.geo i
  let e := c.engine i
  let phases := (if g.d.reduces then [0] else []) ++ (if g.d.gathers then [1] else [])
  g.kinds.foldl (fun s kind => phases.foldl (fun s phase => (List.range g.k).foldl (fun s level =>
    if CollEngine.levelDone g e kind phase level then s
    else s.collFrame c i 0x11 (g.role kind ^^^ 2 ^ level) phase level 0 0 []) s) s) s

/-- R299: a collective ends with a status other than OK and POISON at engine die: the other engines of the partition end with
PEER_ABORTED, and each sends COLL_ABORT to its partners; with FENCED or LINK_DOWN of R300 every engine has the status itself.
-/
def State.endColl (s : State) (q die code : Nat) : State :=
  match s.collOf q with
  | none => s
  | some c =>
    if c.code.isSome then s else
    let mine := fun i => if i = die || code = 8 then code else 5
    let s := s.modColl q fun c => { c with
      code := some code
      engines := (List.range c.dies).foldl (fun m i => kmod {} m i fun e => { e with status := mine i }) c.engines }
    if !c.running then s else
    (List.range c.dies).foldl (fun s i => if (s.tile (c.first + i)).fenced then s else s.sendAborts c i) s

/-- The requester that engine i of a collective is (Table 7.6). -/
def State.collReq (s : State) (c : Coll) (i : Nat) : Req :=
  { tile := c.first + i, part := c.first, cls := 3, ctx := some (s.queue c.queue).context }

/-- Table 9.14: where block b of engine i goes in the receive buffer, in elements. -/
def Geo.dest (g : Geo) (b : Nat) : Nat := match g.d.op with
  | 0 => g.i * g.z + b * g.b
  | 2 => b * g.total + g.i * g.z
  | _ => g.i * g.z

/-- The blocks that a participant writes. -/
def Geo.mine (g : Geo) : List Nat :=
  if g.d.op = 1 then (if g.len = 0 then [] else [g.d.me]) else (List.range (2 ^ g.k)).filter fun b => decide (g.blockLen b ≠ 0)

/-- Whether engine i has block b final and not yet in the receive buffer. -/
def Coll.unwritten (c : Coll) (i b : Nat) : Bool :=
  kget 0 (c.engine i).level (collKey 0 b) = finalLevel && !(c.engine i).written.contains b

/-- R295: a final block of engine i written to the receive buffer. -/
def State.writeBlock (s : State) (c : Coll) (i b : Nat) : State × Except BulkErr Unit :=
  let g := c.geo i
  let vals := toElems (kget [] (c.engine i).parts (collKey 0 b))
  let out : Bulk := (vals.map fun (x : CElem) =>
    (leBytes g.d.width (if g.d.reduces then finalElem g.d.dtype x.1 else x.1)).map fun y => (y, x.2)).flatten
  s.writeBulk (s.collReq c i) (g.d.recvBase + g.dest b * g.d.width) out

/-- R295: the receive buffer is written as blocks become final. A block whose memory is busy is written later, by
COLLECTIVE_COMPLETE at the latest; one whose write fails ends the collective with MEMORY. -/
def State.writeFinal (s : State) (q i : Nat) : State :=
  match s.collOf q with
  | none => s
  | some c => (c.geo i).mine.foldl (fun s b =>
      if (s.collOf q).all fun c => !c.unwritten i b || c.code.isSome then s else
      match s.writeBlock c i b with
      | (u, .error .busy) => s.woken u
      | (s, .error (.failed _)) => s.endColl q i 6
      | (s, .ok ()) => s.modColl q fun c => { c with engines := kmod {} c.engines i fun e => { e with written := e.written ++ [b] } }) s

/-- Engine i of a queue's collective brought as far as it can go; its blocks that are final now are
written, and it ends with OK once it has done all it must. -/
def State.driveEngine (s : State) (q i : Nat) : State :=
  match s.collOf q with
  | none => s
  | some c =>
    let e := c.engine i
    if e.status ≠ 0xFF then s else
    let g := c.geo i
    let (e, out) := CollEngine.settleAll g e
    let e := if CollEngine.complete g e then { e with status := 0 } else e
    let s := s.modColl q fun c => { c with engines := kset c.engines i e }
    (out.foldl (fun s x => s.sendExch c i x) s).writeFinal q i

/-- Every collective of a partition, ended with a status. -/
def State.endColls (s : State) (part code : Nat) : State :=
  s.colls.foldl (fun s c => if c.first = part then s.endColl c.queue 0 code else s) s

/-- R279, R290, R299: whether engine i of a collective reaches a role partner over a link: its tile's route entry lists it. -/
def State.collUses (s : State) (c : Coll) (i l : Nat) : Bool :=
  let g := c.geo i
  let ys := (g.kinds.map fun kind => (List.range g.k).map fun level => (g.performer (g.role kind ^^^ 2 ^ level)).1).flatten
  ys.any fun x =>
    let a := c.peer x
    let k := s.tile (c.first + i)
    let e : BitVec 32 := if fld a 7 10 = s.hub.pod.toNat then kget 0 k.modRoutes (fld a 0 7) else kget 0 k.podRoutes (fld a 7 10)
    !s.ownDst a && (List.range (fld e 0 3)).any fun n => fld e (3 + 7 * n) 7 = l

/-- A collective ends with a status at the first of its engines that uses a link, if one does. -/
def State.collLoses (s : State) (c : Coll) (l code : Nat) : State :=
  match (List.range c.dies).find? fun i => s.collUses c i l with
  | some i => s.endColl c.queue i code
  | none => s

/-- R290, R272: a link's partners are lost to the collectives that reach them over it. -/
def State.collLinkLost (s : State) (l code : Nat) : State :=
  s.colls.foldl (fun s c => if c.running then s.collLoses c l code else s) s

/-- R299: the SLOW of a control, for the engines with partners over that link. -/
def State.collSlow (s : State) (l slow : Nat) : State :=
  { s with colls := s.colls.map fun c => if c.running then
      { c with engines := ((List.range c.dies).filter fun i => s.collUses c i l).foldl (fun m i =>
          kmod {} m i fun e => { e with slow := Nat.max e.slow slow }) c.engines } else c }

/-- R286, R299: the highest SLOW that the links of an engine's partners report. -/
def State.collSlowNow (s : State) (c : Coll) (i : Nat) : Nat :=
  (List.range 96).foldl (fun m l => if s.collUses c i l then Nat.max m (s.link l).peerSlow.toNat else m) 0

/-! ## Received frames (R297, R299) -/

/-- The elements of a COLL_DATA frame taken into engine i; a frame that no agreeing descriptor would send has no effect
(R291). -/
def CollEngine.take (g : Geo) (f : Frame) (e : CollEngine) : CollEngine :=
  let kind := f.virt
  let b := f.offset / g.b
  let o := f.offset % g.b
  let n := g.blockLen b
  let w := g.d.carried
  if g.b = 0 || !g.kinds.contains kind || g.k ≤ f.level || 2 ^ g.k ≤ b || n ≤ o || (f.phase = 0 && !g.d.reduces) || (f.phase = 1 && !g.d.gathers) then e
  else
    let key := xchgKey f.phase f.level kind b
    let m := Nat.min (f.body.length / w) (n - o)
    let got := (List.range m).foldl (fun r j =>
      kset r (o + j) (BitVec.ofNat 64 (leNat ((f.body.drop (j * w)).take w)), f.poison.getLsbD (j * w / 32))) (kget [] e.recv key)
    { e with recv := kset e.recv key got }

/-- A COLL frame for the running collective of queue q. -/
def State.collReceives (s : State) (q : Nat) (f : Frame) : State :=
  match s.collOf q with
  | none => s
  | some c =>
    let i := f.sliceIdx
    if c.code.isSome || c.dies ≤ i then s else
    let s := s.modColl q fun c => { c with engines := kmod {} c.engines i fun e =>
      { e with lastFrame := s.ticks, slow := Nat.max e.slow f.slow.toNat } }
    if f.typ = 0x11 then s.endColl q i 5
    else (s.modColl q fun c => { c with engines := kmod {} c.engines i (CollEngine.take (c.geo i) f) }).driveEngine q i

/-- Bytes of frames held for a channel. -/
def Partition.heldBytes (p : Partition) (chan : BitVec 16) : Nat :=
  p.heldColl.foldl (fun n x => if x.2.chan = chan then n + 32 + x.2.plenBytes else n) 0

/-- R297, R289: a COLL frame for a partition, that came on a link or from the module itself, with its credits or without; true:
they are kept until its collective starts. -/
def State.collArrives (s : State) (part : Nat) (l : Option Nat) (f : Frame) (owned : Bool) : State × Bool :=
  let stale := fun (s : State) => match l with
    | some l => s.modLink l fun k => { k with stale := satAdd k.stale 1 }
    | none => s
  if s.stoppedNow part then (stale s, false) else
  let same := fun (c : Coll) => decide (c.first = part) && decide ((collDesc c.desc).chan = f.chan.toNat)
  let seq := fun (c : Coll) => (collDesc c.desc).seq % 512 = f.seqNo
  match s.colls.find? fun c => same c && seq c && c.running && c.code.isNone with
  | some c => (s.collReceives c.queue f, false)
  | none =>
    let p := s.partition part
    let next := match kfind p.lastSeq f.chan.toNat with
      | none => true
      | some x => (x.toNat + 1) % 512 = f.seqNo
    let awaited := s.colls.any fun c => same c && seq c && !c.running && c.code.isNone
    let free := !(s.colls.any fun c => same c && c.running)
    if awaited || (free && next) then
      let full := decide (262144 < p.heldBytes f.chan + 32 + f.plenBytes)
      let keep := full && owned && l.isSome
      let from_ := match l with
        | none => 0
        | some l => if keep then l + 1 else l + 97
      (s.modPartition part fun p => { p with heldColl := p.heldColl ++ [(from_, f)] }, keep)
    else (stale s, false)

/-! ## Start, end and timeout -/

/-- Elements from to from + n - 1 of one local rank's send buffer. -/
def State.sendElemsOf (s : State) (c : Coll) (i r from_ n : Nat) : State × Except BulkErr (List CElem) :=
  let d := collDesc c.desc
  let w := d.width
  match s.readBulk (s.collReq c i) (d.sendBase + r * d.sendStride + from_ * w) (n * w) with
  | (s, .error e) => (s, .error e)
  | (s, .ok bs) => (s, .ok ((List.range n).map fun j =>
      let x : Bulk := (bs.drop (j * w)).take w
      (leNat x.data, x.poisoned)))

/-- The same elements of several local ranks. -/
def State.sendRanks (s : State) (c : Coll) (i from_ n : Nat) : List Nat → State × Except BulkErr (List (List CElem))
  | [] => (s, .ok [])
  | r :: rs =>
    match s.sendElemsOf c i r from_ n with
    | (s, .error e) => (s, .error e)
    | (s, .ok l) =>
      match s.sendRanks c i from_ n rs with
      | (s, .error e) => (s, .error e)
      | (s, .ok ls) => (s, .ok (l :: ls))

/-- R294: the partial of this participant for n elements from from_. -/
def localPartial (d : CollDesc) (rows : List (List CElem)) (n : Nat) : List CElem :=
  (List.range n).map fun j => collTree d (ceilLog2 d.localRanks) (rows.map fun (row : List CElem) =>
    let x := (row[j]?).getD (0, false)
    (widenElem d.dtype x.1, x.2))

/-- Where a block's elements come from in a reduction: their place in the send buffers. -/
def Geo.place (g : Geo) (b : Nat) : Nat := if g.d.op = 1 then b * g.total + g.i * g.z else b * g.b + g.i * g.z

/-- R294, R295: the blocks with which engine i of a reduction begins. -/
def State.initReduce (s : State) (c : Coll) (i : Nat) (e : CollEngine) : List Nat → State × Except BulkErr CollEngine
  | [] => (s, .ok e)
  | b :: bs =>
    let g := c.geo i
    let n := g.blockLen b
    if n = 0 then s.initReduce c i e bs else
    match s.sendRanks c i (g.place b) n (List.range g.d.localRanks) with
    | (s, .error x) => (s, .error x)
    | (s, .ok rows) =>
      let p := kset e.parts (collKey 0 b) (ofElems (localPartial g.d rows n))
      let p := if g.kinds.contains 1 then kset p (collKey 1 b) (ofElems (List.replicate n (collIdentity g.d))) else p
      s.initReduce c i { e with parts := p } bs

/-- R294: elements from to from + n - 1 of an ALL_GATHER contribution, rank-major. -/
def State.contribution (s : State) (c : Coll) (i : Nat) : Nat → Nat → Nat → State × Except BulkErr (List CElem)
  | 0, _, _ => (s, .ok [])
  | k + 1, from_, n =>
    if n = 0 then (s, .ok []) else
    let d := collDesc c.desc
    let o := from_ % d.count
    let m := Nat.min n (d.count - o)
    match s.sendElemsOf c i (from_ / d.count) o m with
    | (s, .error x) => (s, .error x)
    | (s, .ok l) =>
      match s.contribution c i k (from_ + m) (n - m) with
      | (s, .error x) => (s, .error x)
      | (s, .ok ls) => (s, .ok (l ++ ls))

/-- Engine i at the start of its collective, and what it sends at once. -/
def State.initEngine (s : State) (c : Coll) (i : Nat) : State × Except BulkErr (CollEngine × List Exch) :=
  let g := c.geo i
  let e : CollEngine := { lastFrame := s.ticks, slow := s.collSlowNow c i }
  if g.d.reduces then
    match s.initReduce c i e (List.range (2 ^ g.k)) with
    | (s, .error x) => (s, .error x)
    | (s, .ok e) => (s, .ok (e, []))
  else
    let own := if g.d.op = 2 then some g.d.me else if g.d.me = 0 then some 0 else none
    match own with
    | none => (s, .ok (e, []))
    | some b =>
      if g.len = 0 then (s, .ok (e, [])) else
      match s.contribution c i (g.d.localRanks + 1) (g.i * g.z) g.len with
      | (s, .error x) => (s, .error x)
      | (s, .ok l) => (s, .ok (e.obtain 0 b l g.k))

/-- The engines of a collective started in die order; busy: none of them starts. -/
def State.startEngines (s : State) (q : Nat) : List Nat → State × Except BulkErr Unit
  | [] => (s, .ok ())
  | i :: is =>
    match s.collOf q with
    | none => (s, .ok ())
    | some c =>
      match s.initEngine c i with
      | (s, .error x) => (s, .error x)
      | (s, .ok (e, out)) =>
        let s := s.modColl q fun c => { c with engines := kset c.engines i e }
        (out.foldl (fun s x => s.sendExch c i x) s).startEngines q is

/-- R297: whether a waiting collective may start: fewer than 16 run in its partition, and none on its channel. -/
def State.collMayStart (s : State) (c : Coll) : Bool :=
  let run := s.colls.filter fun x => x.first = c.first && x.running
  !c.running && c.code.isNone && decide (run.length < 16) && run.all fun x => decide ((collDesc x.desc).chan ≠ (collDesc c.desc).chan)

/-- R297: the frames held for a collective reach it, and their credits are returned. -/
def State.releaseHeld (s : State) (q : Nat) (c : Coll) : State :=
  let d := collDesc c.desc
  let mine := fun (x : Nat × Frame) => decide (x.2.chan.toNat = d.chan) && decide (x.2.seqNo = d.seq % 512)
  let hs := (s.partition c.first).heldColl
  let s := s.modPartition c.first fun p => { p with heldColl := hs.filter fun x => !mine x }
  (hs.filter mine).foldl (fun s x =>
    let s := if x.1 = 0 || 96 < x.1 then s else s.freeCredits (x.1 - 1) x.2
    s.collReceives q x.2) s

/-- R297: a collective starts, if it may and its memory is not busy; an access that fails ends it with MEMORY. -/
def State.startColl (s : State) (q : Nat) : State :=
  match s.collOf q with
  | none => s
  | some c =>
    if !s.collMayStart c then s else
    let s' := s.modColl q fun c => { c with running := true }
    match s'.startEngines q (List.range c.dies) with
    | (u, .error .busy) => s.woken u
    | (s', .error (.failed _)) => s'.endColl q 0 6
    | (s', .ok ()) =>
      let s' := (List.range 96).foldl (fun s l => if (s.link l).peerStopped then s.collLoses c l 3 else s) s'
      s'.releaseHeld q c |> fun s => (List.range c.dies).foldl (fun s i => s.driveEngine q i) s

/-- COLLECTIVE_START: a waiting collective starts once fewer than 16 run in the partition. -/
def execCollectiveStart (queue : Fin 256) (s : State) : Res := .next (s.startColl queue)

/-- The final blocks of an engine that are not yet in the receive buffer, written there. -/
def State.writeBlocks (s : State) (c : Coll) (i : Nat) : List Nat → State × Except BulkErr Unit
  | [] => (s, .ok ())
  | b :: bs =>
    if !c.unwritten i b then s.writeBlocks c i bs else
    match s.writeBlock c i b with
    | (s, .error e) => (s, .error e)
    | (s, .ok ()) => s.writeBlocks c i bs

def State.writeResults (s : State) (c : Coll) : List Nat → State × Except BulkErr Unit
  | [] => (s, .ok ())
  | i :: is =>
    match s.writeBlocks c i (c.geo i).mine with
    | (s, .error e) => (s, .error e)
    | (s, .ok ()) => s.writeResults c is

/-- Table 2.7, R299: the receive blocks of an engine of a failed collective hold free values (log 7). It may have to wait for a line. A
block that cannot be written stays. -/
def State.spoilBlocks (s : State) (c : Coll) (i : Nat) : List Nat → Attempt State
  | [] => .ok s
  | b :: bs =>
    let g := c.geo i
    let n := g.blockLen b * g.d.width
    let (v, s) := s.drawMany ((n + 7) / 8)
    match s.writeBulk (s.collReq c i) (g.d.recvBase + g.dest b * g.d.width) (cleanBytes (leBytes n v)) with
    | (u, .error .busy) => .error u
    | (_, .error (.failed _)) => s.spoilBlocks c i bs
    | (s, .ok ()) => s.spoilBlocks c i bs

/-- The receive buffer of a collective that ran and failed. -/
def State.spoilResults (s : State) (c : Coll) : List Nat → Attempt State
  | [] => .ok s
  | i :: is =>
    match s.spoilBlocks c i (c.geo i).mine with
    | .error u => .error u
    | .ok s => s.spoilResults c is

/-- R345, R299, R331: the command of a collective takes its status; with FENCED it completes as R341 says. -/
def State.closeColl (s : State) (c : Coll) (code : Nat) : State :=
  let d := collDesc c.desc
  let s := { s with colls := s.colls.filter fun x => x.queue ≠ c.queue }
  let s := s.modPartition c.first fun p => if c.running then { p with lastSeq := kset p.lastSeq d.chan (BitVec.ofNat 9 d.seq) } else p
  s.modRun c.queue fun r =>
    if r.stage ≠ .running || r.status ≠ 0 then r
    else if code = 0 then { r with stage := .ending }
    else if code = 8 then { r with stage := .ending, status := 0x0011, detail := r.fencedDies.zeroExtend 32 }
    else { r with stage := .ending, status := 0x0009, detail := BitVec.ofNat 32 code }

/-- COLLECTIVE_COMPLETE (R295, R298, R299): every block is final; those not yet written are, and the collective ends with its
status. After a failure the receive buffer is unspecified. -/
def execCollectiveComplete (queue : Fin 256) (s : State) : Res :=
  match s.collOf queue with
  | none => .next s
  | some c =>
    match c.code with
    | some code =>
      if !c.running || code < 2 then .next (s.closeColl c code) else
      (match s.spoilResults c (List.range c.dies) with
      | .error u => .next (s.woken u)
      | .ok s => .next (s.closeColl c code))
    | none =>
      if !c.running || !((List.range c.dies).all fun i => (c.engine i).status = 0) then .next s else
      match s.writeResults c (List.range c.dies) with
      | (u, .error .busy) => .next (s.woken u)
      | (s', .error (.failed _)) =>
        (match s'.spoilResults c (List.range c.dies) with
        | .error u => .next (s.woken u)
        | .ok s' => .next ((s'.endColl queue 0 6).closeColl c 6))
      | (s', .ok ()) =>
        let bad := (List.range c.dies).any fun i => (c.geo i).mine.any fun b =>
          (kget [] (c.engine i).parts (collKey 0 b)).any fun x => x.2
        .next (s'.closeColl c (if bad then 1 else 0))

/-- COLLECTIVE_TIMEOUT (R299): no COLL frame within TIMEOUT_MS x 2^S while the engine waited for one. -/
def execCollectiveTimeout (queue : Fin 256) (die : Fin 12) (s : State) : Res :=
  match s.collOf queue with
  | none => .next s
  | some c =>
    if !c.running || c.code.isSome || die.val < c.first || c.first + c.dies ≤ die.val then .next s else
    let i := die.val - c.first
    let e := c.engine i
    if e.status = 0xFF && s.elapsed e.lastFrame ((collDesc c.desc).timeoutMs * msTicks * 2 ^ e.slow) then .next (s.endColl queue i 2)
    else .next s

end Sys2Proof.Machine
end

