-- ==== Sys2Proof/Machine/Remote.lean ====
section
/-! DEFINITION. Remote transactions: the instructions that issue them (R127, R285), their performance in the destination
partition (R283, R287), and the frames that arrive (R281). -/

namespace Sys2Proof.Machine

/-! ## Completion at the issuing core (R285) -/

/-- The registers that a transaction's result takes; a narrow value fills the rest of its register with zeros (R116). -/
def Remote.regs (x : Remote) (v : Nat) : List (Nat × BitVec 32) := match x.dst with
  | some d => loadRegs d (2 ^ x.frame.size.toNat) (v % 256 ^ 2 ^ x.frame.size.toNat) false
  | none => []

/-- R285: a remote transaction completes with a status of Table 9.11. -/
def State.endRemote (s : State) (t tag status reason v : Nat) (bad : Bool) : State :=
  match kfind (s.tile t).remotes tag with
  | none => s
  | some x =>
    let s := s.modTile t fun k => { k with remotes := kdel k.remotes tag }
    if x.dead then s else
    let ws := x.regs v
    let s := s.modBlock x.core x.block fun b =>
      { b with remote := b.remote - 1 }.modGroup x.group fun g => { g with pending := ws.foldl (fun p (w : Nat × BitVec 32) => p.erase w.1) g.pending }
    let w : Where := { core := x.core, block := x.block, group := x.group, lanes := x.lanes, pc := x.pc }
    if status ≠ 0 then s.blockFault w 0x0E (x.frame.dst.toNat + status * 2 ^ 32 + reason * 2 ^ 35)
    else if bad then s.blockFault w 0x0C (x.frame.addr.toNat / 4 * 4)
    else
      let s := s.modBlock x.core x.block fun b =>
        if b.phase = .running then b.modGroup x.group fun g => g.write x.lane { regs := ws } else b
      s.landed (s.settle x.core x.block)

/-- Every remote transaction of tile t that a test picks, completed with a status. -/
def State.endRemotes (s : State) (t status : Nat) (pick : Remote → Bool) : State :=
  ((s.tile t).remotes.filter fun x => pick x.2).foldl (fun s x => s.endRemote t x.1 status 0 0 false) s

/-- R286: the SLOW of a control, for the transactions whose first-hop link it came on. -/
def State.remoteSlow (s : State) (l slow : Nat) : State :=
  { s with tiles := s.tiles.map fun (t, k) => (t, { k with remotes := k.remotes.map fun (n, x) =>
      (n, if x.link = some l then { x with slow := Nat.max x.slow slow } else x) }) }

/-- R286: the SLOW of a frame from a module, for the transactions bound for it. -/
def State.noteSlowFrame (s : State) (f : Frame) : State :=
  let m := moduleKey f.src
  let s := { s with peerSlow := kset s.peerSlow m f.slow.toNat }
  { s with tiles := s.tiles.map fun (t, k) => (t, { k with remotes := k.remotes.map fun (n, x) =>
      (n, if moduleKey x.frame.dst = m then { x with slow := Nat.max x.slow f.slow.toNat } else x) }) }

/-! ## Performance (R283, R287) -/

/-- How a request ends where it is performed: it waits for memory, or it is answered. -/
inductive RemoteEnd where
  | busy
  | answer (status reason poison : Nat) (payload : List Byte)
deriving DecidableEq, Repr

/-- R283: a request that memory did not perform is answered with DECODE_ERROR. -/
def remoteErr : MemErr → RemoteEnd
  | .busy => .busy
  | _ => .answer 1 0 0 []

def bulkEnd : BulkErr → RemoteEnd
  | .busy => .busy
  | .failed _ => .answer 1 0 0 []

/-- The requester of inbound transactions: class 3, on the receiving tile, for the destination partition. -/
def State.remoteReq (s : State) (t part : Nat) : Req := { tile := if s.partOf t = part then t else part, part := part, cls := 3 }

/-- R283: whether a request's SIZE and alignment are allowed, and its RATOM fields. -/
def remoteLegal (f : Frame) : Bool :=
  let n := 2 ^ f.size.toNat
  decide (f.size.toNat ≤ 4) && f.addr.toNat % n = 0 &&
  (f.typ ≠ 3 || (atomAllowed f.aop.toNat f.atype.toNat && atypeBytes f.atype.toNat = n))

/-- R287: a message put into its ring: the entry, then the write index. R287 gives bits [5:1] of BASE and bytes 9 to 15 of the ring's
descriptor no meaning: the model ignores them (DESIGN CHOICE, log 96). -/
def State.deliverMsg (s : State) (t part : Nat) (f : Frame) : State × RemoteEnd :=
  let tab := (s.tile part).msgTable
  let r := s.remoteReq t part
  if f.addr ≠ 0 then (s, .answer 2 3 0 [])
  else if !bit tab 0 then (s, .answer 2 7 0 [])
  else
    match s.readBulk r (fld tab 6 46 * 64 + fld f.chan 0 4 * 32) 32 with
    | (s, .error e) => (s, bulkEnd e)
    | (s, .ok d) =>
      let x := fun o w => leNat ((d.data.drop o).take w)
      let log2 := x 8 1
      if x 0 8 % 2 = 0 || log2 < 4 || 16 < log2 then (s, .answer 2 7 0 []) else
      match s.readBulk r (x 16 8) 8 with
      | (s, .error e) => (s, bulkEnd e)
      | (s, .ok rd) =>
        match s.readBulk r (x 24 8) 8 with
        | (s, .error e) => (s, bulkEnd e)
        | (s, .ok wr) =>
          let w := leNat wr.data
          if (w + 2 ^ 64 - leNat rd.data) % 2 ^ 64 = 2 ^ log2 then (s, .answer 2 8 0 []) else
          let msg := f.body.take 16 ++ leBytes 4 f.src.toNat ++ leBytes 4 0 ++ leBytes 8 (s.die t).time.toNat
          match s.writeBulk r (x 0 8 / 64 * 64 + w % 2 ^ log2 * 32) (cleanBytes msg) with
          | (s, .error e) => (s, bulkEnd e)
          | (s, .ok ()) =>
            match s.writeBulk r (x 24 8) (cleanBytes (leBytes 8 ((w + 1) % 2 ^ 64))) with
            | (s, .error e) => (s, bulkEnd e)
            | (s, .ok ()) => (s, .answer 0 0 0 [])

/-- R283, R287: a request performed in a partition of this module. -/
def State.performRemote (s : State) (t part : Nat) (f : Frame) : State × RemoteEnd :=
  if s.stoppedNow part then (s, .answer 3 0 0 []) else
  if f.typ = 4 then s.deliverMsg t part f else
  if !remoteLegal f then (s, .answer 2 3 0 []) else
  let r := s.remoteReq t part
  let pa := f.addr.toNat
  let o := pa % 128
  let n := 2 ^ f.size.toNat
  if f.typ = 1 then
    match s.ncRead r (pa / 128) false (BitVec.ofNat 4 (2 ^ (o / 32))) with
    | (s, .error e) => (s, remoteErr e)
    | (s, .ok d) => (s, .answer 0 0 (if (d.poisonedAt o n).isSome then 1 else 0) (leBytes n (d.get o n)))
  else if f.typ = 2 then
    let (d, mask) := bulkLine o ((f.body.take n).map fun b => (b, f.poison.getLsbD 0))
    match s.ncWrite r (pa / 128) d mask with
    | (s, .error e) => (s, remoteErr e)
    | (s, .ok ()) => (s, .answer 0 0 0 [])
  else
    match s.ncAtom r pa f.aop.toNat f.atype.toNat (leNat (f.body.take 8)) (leNat ((f.body.drop 8).take 8)) with
    | (s, .error e) => (s, remoteErr e)
    | (s, .ok (old, bad)) =>
      if f.ret = 1 then (s, .answer 0 0 (if bad then 1 else 0) (leBytes 8 (old % 2 ^ 64))) else (s, .answer 0 0 0 [])

/-! ## Issue (R127, R279, R286) -/

/-- The first transaction tag, from x on and among n, that no tile of tile t's partition uses: a partition's tiles have one link
address, so that an answer's TAG alone tells their transactions apart (R282). -/
def State.freeTag (s : State) (t : Nat) : Nat → Nat → Option Nat
  | 0, _ => none
  | n + 1, x =>
    if s.tiles.all fun y => s.partOf y.1 ≠ s.partOf t || (kfind y.2.remotes x).isNone then some x
    else s.freeTag t n ((x + 1) % 65536)

/-- R281 check 5: the partition of this module that an address names, with a PID. -/
def State.dstPart (s : State) (a pid : BitVec 32) : Option Nat :=
  let p := fld a 17 15
  let x := s.partition p
  if p < 12 && x.dies ≠ 0 && x.pid = pid then some p else none

/-- A request on its way: to the module itself at once (R279), or over the first-hop link of its route. It leaves its tile at once, but for
the queue of a link of that tile (R286). It may have to wait. -/
def State.launchRemote (s : State) (t tag : Nat) : Attempt State :=
  match kfind (s.tile t).remotes tag with
  | none => .ok s
  | some x =>
    let f := x.frame
    let left := some (x.sent.getD s.ticks)
    if s.ownDst f.dst then
      if f.pid = 0 then .ok (s.modTile t fun k => { k with remotes := kset k.remotes tag { x with sent := left } }) else
      if let some r := f.badReason then .ok (s.endRemote t tag 2 r 0 false) else
      match s.dstPart f.dst f.pid with
      | none => .ok (s.endRemote t tag 2 7 0 false)
      | some p =>
        match s.performRemote t p f with
        | (u, .busy) => .error u
        | (s, .answer status reason poison v) =>
          if f.typ = 4 && status = 2 && reason = 8 then
            .ok (s.modTile t fun k => { k with remotes := kmod x k.remotes tag fun x => { x with retryAt := some s.ticks, sent := left } })
          else .ok (s.endRemote t tag status reason (leNat v) (poison % 2 = 1))
    else
      match s.routeOf t f with
      | none => .ok (s.endRemote t tag 2 5 0 false)
      | some l =>
        let k := s.link l
        if k.peerStopped then .ok (s.endRemote t tag 3 0 0 false) else
        let slow := Nat.max x.slow (Nat.max k.peerSlow.toNat (kget 0 s.peerSlow (moduleKey f.dst)))
        let sent := if l / 8 = t then x.sent else left
        .ok ((s.modTile t fun k => { k with remotes := kset k.remotes tag { x with link := some l, slow := slow, sent := sent } }).pushFrame l f)

/-- R127, R285: one thread's remote transaction. It may have to wait. One whose destination has reserved bits that are not zero (Table 9.9)
is not sent: it is rejected as its destination would (R9, R281). -/
def State.issueRemote (s : State) (i : Issue) (lane : Nat) (dst : Option (Nat × Nat)) (f : Frame) : Attempt State :=
  let t := i.at_.core / 128
  match s.freeTag t 65536 (s.tile t).nextTag with
  | none => .error s
  | some tag =>
    let f := { f with tag := BitVec.ofNat 16 tag }
    let x : Remote := { frame := f, core := i.at_.core, block := i.at_.block, group := i.at_.group, lane := lane, pc := i.at_.pc
                        lanes := i.at_.lanes, dst := dst.map (·.1), queue := i.block.queue, index := i.block.index }
    let s := s.modTile t fun k => { k with remotes := kset k.remotes tag x, nextTag := (tag + 1) % 65536 }
    let regs := match dst with
      | some (d, w) => (List.range w).map (d + ·)
      | none => []
    let s := s.modBlock i.at_.core i.at_.block fun b =>
      { b with remote := b.remote + 1 }.modGroup i.at_.group fun g => { g with pending := g.pending ++ regs }
    if 2 ^ 21 ≤ f.dst.toNat then .ok (s.endRemote t tag 2 3 0 false) else s.launchRemote t tag

/-- The transactions of a subset's active threads, in lane order (R127): the frame of each from its operands. -/
def runRemote (f : Fields) (dst : Option (Nat × Nat)) (mk : State → Nat → Group → Nat → Frame) (i : Issue) (s : State) : Attempt State :=
  if s.acquireWaits i.at_ || (f.m 12 2 = 2 && s.releaseWaits i.at_ i.block (f.m 14 2)) then .error s else
  let t := i.at_.core / 128
  let s := s.modGroup i.at_.core i.at_.block i.at_.group fun g => g.advance i.lanes
  i.active.foldl (fun (o : Attempt State) l => o.bind fun s => s.issueRemote i l dst (mk s t i.group l)) (.ok s)

/-- The fields that every remote frame takes: from the ADDR pair the address, from AUX the destination. R127 gives the pair's bits
[63:52] no meaning: the model sends bits [51:0] and ignores those above (DESIGN CHOICE, log 83). -/
def State.remoteFrame (s : State) (f : Fields) (t typ size : Nat) (g : Group) (l : Nat) (payload : List Byte) : Frame :=
  { s.frame t typ (g.reg l f.src3.toNat) 0 payload with
    size := BitVec.ofNat 3 size, addr := BitVec.ofNat 52 (g.pair l f.src1.toNat).toNat }

/-- R125, R127: the checks that every remote instruction has. -/
def remoteOk (f : Fields) (a : Nat) : Bool := orderOk f [0, 2] && f.m 8 4 = 0 && regOk a f.src1 2 && regOk a f.src3 1

/-- RRD: DST := the remote bytes. -/
def execRrd (g : GroupAt) (size : BitVec 3) (f : Fields) (s : State) : Res :=
  let z := size.toNat
  let w := sizeRegs (2 ^ z)
  s.issueM (rd := w) g 9 z f (fun a => decide (z ≤ 4) && remoteOk f a && f.m 0 8 = 0 && regOk a f.dst w && f.src2 = 0)
    (regList f.dst w ++ regList f.src1 2 ++ [f.src3.toNat])
    (runRemote f (some (f.dst.toNat, w)) fun s t x l => s.remoteFrame f t 1 z x l [])

/-- RWR: DATA is written. -/
def execRwr (g : GroupAt) (size : BitVec 3) (f : Fields) (s : State) : Res :=
  let z := size.toNat
  let w := sizeRegs (2 ^ z)
  s.issueM g 9 (8 + z) f (fun a => decide (z ≤ 4) && remoteOk f a && f.m 0 8 = 0 && regOk a f.src2 w && f.dst = 0)
    (regList f.src2 w ++ regList f.src1 2 ++ [f.src3.toNat])
    (runRemote f none fun s t x l =>
      s.remoteFrame f t 2 z x l (leBytes (if z = 4 then 16 else 8) (x.regs' l f.src2.toNat w % 256 ^ 2 ^ z)))

/-- R127: [51:48] ATYPE, [54:52] operation, [55] RET. -/
def ratomLegal (z : Nat) (f : Fields) (a : Nat) : Bool :=
  let t := f.m 0 4
  let w := atypeRegs t
  remoteOk f a && atomAllowed (f.m 4 3) t && 2 ^ z = atypeBytes t &&
  (if f.m 7 1 = 1 then regOk a f.dst w else f.dst = 0) &&
  (if f.m 4 3 = 7 then (if w = 2 then regOk a f.src2 4 else decide (f.src2.toNat + 2 ≤ a)) else regOk a f.src2 w)

/-- RATOM: one atomic on the remote operand. -/
def execRatom (g : GroupAt) (size : BitVec 3) (f : Fields) (s : State) : Res :=
  let z := size.toNat
  let t := f.m 0 4
  let w := atypeRegs t
  let ret := f.m 7 1
  let n := if f.m 4 3 = 7 then 2 * w else w
  s.issueM (rd := if ret = 1 then w else 0) g 9 (16 + z) f (ratomLegal z f)
    ((if ret = 1 then regList f.dst w else []) ++ regList f.src2 n ++ regList f.src1 2 ++ [f.src3.toNat])
    (runRemote f (if ret = 1 then some (f.dst.toNat, w) else none) fun s ti x l =>
      let a := x.regs' l f.src2.toNat w % 256 ^ 2 ^ z
      let b := if f.m 4 3 = 7 then x.regs' l (f.src2.toNat + w) w % 256 ^ 2 ^ z else 0
      { s.remoteFrame f ti 3 z x l (leBytes 8 a ++ leBytes 8 b) with
        aop := BitVec.ofNat 3 (f.m 4 3), atype := BitVec.ofNat 4 t, ret := BitVec.ofNat 1 ret })

/-- RMSG: the quad DATA as a message on CHAN. -/
def execRmsg (g : GroupAt) (size : BitVec 3) (f : Fields) (s : State) : Res :=
  let z := size.toNat
  s.issueM g 9 (24 + z) f (fun a => decide (z = 4) && remoteOk f a && f.m 0 8 = 0 && regOk a f.src2 4 && f.dst = 0)
    (regList f.src2 4 ++ regList f.src1 2 ++ [f.src3.toNat])
    (runRemote f none fun s t x l =>
      { s.remoteFrame f t 4 4 x l (leBytes 16 (x.regs' l f.src2.toNat 4)) with
        addr := 0, chan := BitVec.ofNat 16 (fld (x.pair l f.src1.toNat) 0 16) })

/-- REMOTE_TIMEOUT (R286): no answer within 20 ms x 2^S of the time it left its tile. -/
def execRemoteTimeout (t : Fin 12) (tag : BitVec 16) (s : State) : Res :=
  match kfind (s.tile t).remotes tag.toNat with
  | none => .next s
  | some x => if x.sent.any fun at_ => s.elapsed at_ (20 * msTicks * 2 ^ x.slow) then .next (s.endRemote t tag.toNat 5 0 0 false) else .next s

/-- RMSG_RETRY (R287): a message answered FULL is sent again after 1 µs. -/
def execRmsgRetry (t : Fin 12) (tag : BitVec 16) (s : State) : Res :=
  match kfind (s.tile t).remotes tag.toNat with
  | none => .next s
  | some x =>
    match x.retryAt with
    | none => .next s
    | some at_ =>
      if x.dead || !s.elapsed at_ usTicks then .next s else
      let s' := s.modTile t fun k => { k with remotes := kset k.remotes tag.toNat { x with retryAt := none } }
      .next (s.landed (s'.launchRemote t tag.toNat))

/-! ## Frames that arrive (R281) -/

/-- An answer for this module: it completes its transaction, or is late and counted. -/
def State.takeAnswer (s : State) (l : Option Nat) (f : Frame) : State :=
  let t := (List.range 12).find? fun t => match kfind (s.tile t).remotes f.tag.toNat with
    | some x => s.selfAddr t = f.dst && x.frame.dst = f.src && ((answerType x.frame.typ.toNat).any fun a => a = f.typ.toNat || (a = 0x0A && f.typ = 9))
    | none => false
  match t with
  | none => (match l with
    | some l => s.modLink l fun k => { k with stale := satAdd k.stale 1 }
    | none => s)
  | some t =>
    if f.typ = 0x0B && f.status = 2 && f.reason = 8 then
      s.modTile t fun k => { k with remotes := k.remotes.map fun (n, x) => (n, if n = f.tag.toNat then { x with retryAt := some s.ticks } else x) }
    else s.endRemote t f.tag.toNat f.status.toNat f.reason.toNat (leNat f.body) (f.poison.getLsbD 0)

/-- R281 checks 4 to 6 for a frame on tile t, that came on a link or from the module itself; owned says that it stands in the
link's buffer with its credits. It may have to wait. The flag says that its credits stay with it. -/
def State.handleFrame (s : State) (t : Nat) (l : Option Nat) (f : Frame) (owned : Bool := true) : Attempt (State × Bool) :=
  if !s.ownDst f.dst then
    match s.routeOf t f with
    | none => .ok (s.rejectFrame t l f 5, false)
    | some out =>
      if f.hops = 7 then .ok (s.rejectFrame t l f 6, false)
      else if s.stoppedNow (s.partOf t) then .error s
      else .ok (s.pushFrame out f, false)
  else
    match s.dstPart f.dst f.pid with
    | none => .ok (s.rejectFrame t l f 7, false)
    | some p =>
      let s := s.noteSlowFrame f
      if f.typ.toNat ≤ 4 then
        (match s.performRemote t p f with
        | (u, .busy) => .error u
        | (s, .answer status reason poison v) => .ok (s.answerFrame t f status reason poison v, false))
      else if f.typ = 0x0C then
        .ok (match l with
          | some l => s.modLink l fun k => { k with nakRx := satAdd k.nakRx 1 }
          | none => s, false)
      else if f.typ = 0x10 || f.typ = 0x11 then .ok (s.collArrives p l f owned)
      else .ok (s.takeAnswer l f, false)

/-- R281 checks 1 to 3 for a frame received on a link: the frame is dropped, rejected, or kept to be handled. -/
def State.parseFrame (s : State) (l : Nat) (f : Frame) : State :=
  let t := l / 8
  let k := s.link l
  let v := f.vc.toNat
  let pid := s.pidOf t
  let beyond := vcCredits v < kget 0 k.rxUsed v + f.need
  let s := if beyond then s else s.modLink l fun k => { k with rxUsed := kmod 0 k.rxUsed v (· + f.need) }
  let free := fun (s : State) => if beyond then s else s.freeCredits l f
  if k.state ≠ .active || f.pid ≠ pid || pid = 0 then free (s.modLink l fun k => { k with foreign := satAdd k.foreign 1 })
  else match f.badReason with
    | some r => free (s.rejectFrame t (some l) f r)
    | none =>
      if beyond then s.rejectFrame t (some l) f 4
      else s.modLink l fun k => { k with rxq := k.rxq ++ [f] }

/-- A frame of link l handled: one that the link's buffer holds leaves it; one that it does not hold arrives whole, and meets
the checks before. The frames of a VC are handled in the order they came (R284). -/
def State.inbound (s : State) (l : Nat) (f : Frame) : State :=
  let s := if (s.link l).rxq.contains f then s else s.parseFrame l f
  if ((s.link l).rxq.find? fun g => g.vc = f.vc) ≠ some f then s else
  match s.handleFrame (l / 8) (some l) f with
  | .error u => s.woken u
  | .ok (s, keep) =>
    let s := s.modLink l fun k => { k with rxq := k.rxq.erase f }
    if keep then s else s.freeCredits l f

/-- RRD_FRAME. -/
def execRrdFrame (l : Fin 96) (fr : Frame) (s : State) : Res := .next (if fr.typ = 0x01 then s.inbound l fr else s)
/-- RWR_FRAME. -/
def execRwrFrame (l : Fin 96) (fr : Frame) (s : State) : Res := .next (if fr.typ = 0x02 then s.inbound l fr else s)
/-- RATOM_FRAME. -/
def execRatomFrame (l : Fin 96) (fr : Frame) (s : State) : Res := .next (if fr.typ = 0x03 then s.inbound l fr else s)
/-- RMSG_FRAME. -/
def execRmsgFrame (l : Fin 96) (fr : Frame) (s : State) : Res := .next (if fr.typ = 0x04 then s.inbound l fr else s)
/-- RRD_DATA. -/
def execRrdData (l : Fin 96) (fr : Frame) (s : State) : Res := .next (if fr.typ = 0x08 then s.inbound l fr else s)
/-- RWR_ACK. -/
def execRwrAck (l : Fin 96) (fr : Frame) (s : State) : Res := .next (if fr.typ = 0x09 then s.inbound l fr else s)
/-- RATOM_OLD. -/
def execRatomOld (l : Fin 96) (fr : Frame) (s : State) : Res := .next (if fr.typ = 0x0A then s.inbound l fr else s)
/-- RMSG_ACK. -/
def execRmsgAck (l : Fin 96) (fr : Frame) (s : State) : Res := .next (if fr.typ = 0x0B then s.inbound l fr else s)
/-- LINK_NAK. -/
def execLinkNak (l : Fin 96) (fr : Frame) (s : State) : Res := .next (if fr.typ = 0x0C then s.inbound l fr else s)
/-- COLL_DATA. -/
def execCollData (l : Fin 96) (fr : Frame) (s : State) : Res := .next (if fr.typ = 0x10 then s.inbound l fr else s)
/-- COLL_ABORT. -/
def execCollAbort (l : Fin 96) (fr : Frame) (s : State) : Res := .next (if fr.typ = 0x11 then s.inbound l fr else s)

/-- The frames for the module itself that were waiting when the step began, each handled once; one that must wait stays, and the
later ones of its tile and VC wait behind it (R284, log 29). -/
def State.drainLocal (s : State) : State :=
  let fs := s.localFrames
  let stay := fun (s : State) (x : Nat × Option Nat × Frame) => { s with localFrames := s.localFrames ++ [x] }
  (fs.foldl (fun (r : State × List (Nat × BitVec 2)) x =>
    let (s, held) := r
    let (t, l, f) := x
    if f.pid = 0 then r
    else if held.contains (t, f.vc) then (stay s x, held)
    else match s.handleFrame t l f false with
      | .error u => (stay (s.woken u) x, (t, f.vc) :: held)
      | .ok (s, _) => (s, held)) ({ s with localFrames := [] }, [])).1

end Sys2Proof.Machine
end

