-- ==== Sys2Proof/Machine/Links.lean ====
section
/-! DEFINITION. Link blocks (R263 to R265, R273 to R275), training and link states (R267 to R272), and what the registers of a
link do (R300, R301). -/

namespace Sys2Proof

/-- The 632 bytes of a frame area that hold an identity block (Table 9.5). -/
def IdBlock.area (b : IdBlock) : List Byte :=
  Machine.leBytes 632 (Machine.pack [(0, 4, b.magic.toNat), (4, 2, b.version.toNat), (6, 1, b.link.toNat), (7, 1, b.lanes.toNat),
    (8, 4, b.self.toNat), (12, 4, b.pid.toNat), (16, 1, b.slot.toNat), (17, 1, b.flags.toNat), (18, 2, b.rxNext.toNat),
    (20, 2, b.revision.toNat)])

/-- The identity block in a frame area. -/
def identOf (area : List Byte) : IdBlock :=
  let x := fun o w => Machine.leNat ((area.drop o).take w)
  { magic := BitVec.ofNat 32 (x 0 4), version := BitVec.ofNat 16 (x 4 2), link := BitVec.ofNat 8 (x 6 1), lanes := BitVec.ofNat 8 (x 7 1)
    self := BitVec.ofNat 32 (x 8 4), pid := BitVec.ofNat 32 (x 12 4), slot := BitVec.ofNat 8 (x 16 1), flags := BitVec.ofNat 8 (x 17 1)
    rxNext := BitVec.ofNat 16 (x 18 2), revision := BitVec.ofNat 16 (x 20 2), restZero := (area.drop 22).all (· = 0) }

/-- R269: whether a block has the form of an identity block; another VERSION is told apart by R270. -/
def IdBlock.formOk (b : IdBlock) : Bool :=
  b.magic = 0x4B4C4E31 && decide (b.link.toNat < 96) && decide (b.self.toNat < 2 ^ 21) && decide (b.lanes.toNat < 4) && decide (b.slot.toNat < 64) &&
  decide (b.flags.toNat < 4) && decide (b.rxNext.toNat < 4096) && b.restZero

/-- Bytes 4 to 7 of the block control (Table 9.2). -/
def LinkBlock.control (b : LinkBlock) : Nat :=
  b.ackSeq.toNat + b.nak.toNat * 2 ^ 12 + b.crVc.toNat * 2 ^ 13 + b.rsvA.toNat * 2 ^ 15 + b.crCount.toNat * 2 ^ 16 +
  b.slow.toNat * 2 ^ 28 + b.stopped.toNat * 2 ^ 30 + b.rsvB.toNat * 2 ^ 31

/-- The frame area as 632 bytes. -/
def LinkBlock.bytes (b : LinkBlock) : List Byte := (b.area ++ List.replicate 632 0).take 632

/-- R265: the CRC over the marker in 3 bytes, then block bytes 4 to 639. -/
def LinkBlock.crcOf (b : LinkBlock) : Nat :=
  Machine.crc32c (Machine.leBytes 3 (b.seq.toNat + b.first.toNat * 2 ^ 12 + b.rsvM.toNat * 2 ^ 19) ++
    Machine.leBytes 4 b.control ++ b.bytes)

end Sys2Proof

namespace Sys2Proof.Machine

/-! ## Link states (R267, R302) -/

def LinkState.code : LinkState → Nat
  | .off => 0 | .wait => 1 | .train => 2 | .active => 3 | .isolated => 4 | .retrain => 5 | .down => 6

/-- R302: a change of STATE advances LNK_EVENT. -/
def Link.toState (k : Link) (st : LinkState) : Link :=
  if k.state = st then k else { k with state := st, seq := k.seq + 1, lastState := BitVec.ofNat 3 st.code }

/-- R302: a change of DECOM advances LNK_EVENT. -/
def Link.setDecom (k : Link) (d : BitVec 2) : Link :=
  if k.decom = d then k else { k with decom := d, seq := k.seq + 1, lastState := BitVec.ofNat 3 k.state.code }

/-- R301, R466: the lanes that the link offers at a training. -/
def Link.offered (k : Link) : BitVec 2 :=
  let v := k.laneEn &&& ~~~ k.decom
  if k.oneLane && v = 3 then 1 else v

/-- The lanes that carry codewords: those in use, or in step 3 of a training those that passed step 1. -/
def Link.carrying (k : Link) : BitVec 2 := if k.step = 3 then k.good else k.lanes

/-- R269, R270: the lanes that an identity block offers: those whose equalisation this training has passed. -/
def Link.identLanes (k : Link) : BitVec 2 := if k.step = 3 || k.state = .isolated then k.offered &&& k.good else k.offered

def Link.credit (k : Link) (v : Nat) : Nat := (kfind k.credits v).getD (vcCredits v)

/-- R272: whether a link holds the state of a traffic that it had: it is ACTIVE or retrains, or its retrain's 100 ms run on. -/
def Link.hadTraffic (k : Link) : Bool := decide (k.state = .active) || decide (k.state = .retrain) || k.kept

/-- R272: the state of a link that does not resume is discarded; frames received whole are handled without a link (log 29). lost: it had
traffic, and what it carried ends with LINK_DOWN (R299). -/
def State.discardLink (s : State) (l : Nat) (lost : Bool) : State :=
  let t := l / 8
  let k := s.link l
  let s := { s with localFrames := s.localFrames ++ k.rxq.map fun f => (t, some l, f) }
  let s := s.modLink l fun k => { k with
    replay := [], resend := [], txPart := [], rxPart := [], rxSync := false, rxq := [], rxUsed := [], credits := [],
    crSeen := [], crFreed := [], crSent := [], txSeq := 0, rxSeq := 0, nak := false, replays := 0, kept := false }
  let drop := fun (x : Partition) => { x with heldColl := x.heldColl.map fun (n, f) => (if n = l + 1 then l + 97 else n, f) }
  let s := { s with partitions := s.partitions.map fun (p, x) => (p, drop x) }
  if !lost then s else
  let gone := fun (x : Remote) => decide (x.link = some l) && !(k.txq.any fun f => f.tag = x.frame.tag && f.typ = x.frame.typ && f.src = x.frame.src)
  ((List.range 12).foldl (fun s t => s.endRemotes t 4 gone) s).collLinkLost l 4

/-! ## Training (R268, R271) -/

/-- Whether a link of tile t is in steps 1 to 3. -/
def State.trains (s : State) (t : Nat) : Bool := (List.range 8).any fun j => (s.link (8 * t + j)).step ≠ 0

/-- Step 1 of an attempt. -/
def Link.beginAttempt (k : Link) (now : Nat) : Link :=
  { k with step := 1, attemptAt := now, good := 0, ident := none, identRun := 0, identAt := none, badRun := 0, goodRun := 0 }

/-- R268: the lowest-numbered link of tile t that waits is trained, when none is. -/
def State.trainNext (s : State) (t : Nat) : State :=
  if s.trains t then s else
  match (List.range 8).find? fun j => let k := s.link (8 * t + j); k.state = .wait || (k.state = .retrain && k.step = 0) with
  | none => s
  | some j => s.modLink (8 * t + j) fun k =>
      (if k.state = .wait then k.toState .train else k).beginAttempt s.floorCycles

/-- R268: a first training, or one after DOWN: at once, or after the tile's other links. -/
def State.startTraining (s : State) (l attempts : Nat) : State :=
  let s := s.modLink l fun k => { k with attempts := attempts, resume := false, lanes := 0, mismatch := 0 }
  if s.trains (l / 8) then s.modLink l fun k => k.toState .wait
  else s.modLink l fun k => (k.toState .train).beginAttempt s.floorCycles

/-- The link goes dark, in a state; what R272 says of a link that does not resume follows. -/
def State.darken (s : State) (l : Nat) (st : LinkState) : State :=
  let lost := (s.link l).hadTraffic
  let s := s.modLink l fun k => { k.toState st with step := 0, lanes := 0, downAt := s.floorCycles, mismatch := 0 }
  (s.discardLink l lost).trainNext (l / 8)

/-- The link enters DOWN. From RETRAIN, what R272 discards is kept until the 100 ms of the retrain are over (Table 15.12). -/
def State.goDown (s : State) (l : Nat) : State :=
  if (s.link l).state = .retrain then
    (s.modLink l fun k => { k.toState .down with step := 0, lanes := 0, downAt := s.floorCycles, mismatch := 0, kept := true }).trainNext (l / 8)
  else s.darken l .down

/-- R268: an attempt has failed: it is repeated; after the third the link enters DOWN. -/
def State.failAttempt (s : State) (l : Nat) : State :=
  let k := s.link l
  if 3 ≤ k.attempts + 1 then (s.modLink l fun k => { k with attempts := 0 }).goDown l
  else s.modLink l fun k => { k with attempts := k.attempts + 1 }.beginAttempt s.floorCycles

/-- R272: a link with lock enters RETRAIN; it resumes where it was ACTIVE and its PID is unchanged. -/
def State.enterRetrain (s : State) (l : Nat) (resume : Bool) : State :=
  let s := s.modLink l fun k => { k.toState .retrain with
    resume := resume && decide (k.state = .active), retrains := satAdd k.retrains 1, retrainAt := s.floorCycles, attempts := 0, step := 0
    lanes := 0, mismatch := 0 }
  s.trainNext (l / 8)

/-- R271: a lane is decommissioned; the event is logged, and the link retrains on the other lane, or is DOWN. -/
def State.decommission (s : State) (l lane cause : Nat) : State :=
  let t := l / 8
  if (s.link l).decom.getLsbD lane then s else
  let s := s.modLink l fun k => k.setDecom (setBit k.decom lane true)
  let s := s.record t { typ := 0x0A, cls := 3, source := t, unit := unitOf 0x05 l, payload := pack [(0, 1, l), (1, 1, lane), (2, 1, cause)] }
  let k := s.link l
  if k.decom = 3 then (if k.state = .off || k.state = .down then s else s.goDown l)
  else if k.state = .active then s.enterRetrain l true
  else if k.state = .isolated then s.startTraining l 0
  else if k.step = 3 then s.modLink l fun k => k.beginAttempt s.floorCycles
  else s

/-- EQUALISATION_COMPLETE (R268, R271): the lanes that passed; a lane that fails twice in a row is decommissioned. -/
def execEqualisationComplete (l : Fin 96) (good : BitVec 2) (s : State) : Res :=
  let k := s.link l
  if k.step ≠ 1 then .next s else
  let off := k.offered
  let s := s.modLink l fun k => { k with eqFails := (setBits off).foldl (fun m i => kset m i (if good.getLsbD i then 0 else kget 0 m i + 1)) k.eqFails }
  let bad := (setBits off).filter fun i => decide (2 ≤ kget 0 (s.link l).eqFails i)
  let s := bad.foldl (fun s i => s.decommission l i 2) s
  let k := s.link l
  if k.step ≠ 1 then .next s
  else if k.offered &&& good = 0 then .next (s.failAttempt l)
  else .next (s.modLink l fun k => { k with step := 2, good := k.offered &&& good })

/-- CODEWORD_LOCK (R264, R268): 64 good codewords in a row; the exchange of identities begins. -/
def execCodewordLock (l : Fin 96) (s : State) : Res :=
  if (s.link l).step ≠ 2 then .next s
  else .next (s.modLink l fun k => { k with step := 3, ident := none, identRun := 0, identAt := none, badRun := 0, goodRun := 64 })

/-- TRAINING_ATTEMPT_TIMEOUT (R268): 5 ms of an attempt have passed. -/
def execTrainingAttemptTimeout (l : Fin 96) (s : State) : Res :=
  let k := s.link l
  if k.step = 0 || s.floorCycles < k.attemptAt + 10000000 then .next s else .next (s.failAttempt l)

/-- LINK_DOWN_RETRY (R268): one new attempt every 1 s while ENABLE is 1; a link that a fence action keeps DOWN has none (Table
15.6), nor one without lanes. -/
def execLinkDownRetry (l : Fin 96) (s : State) : Res :=
  let k := s.link l
  if k.state ≠ .down || !k.enable || k.fenced || k.decom = 3 || s.floorCycles < k.downAt + 2000000000 then .next s
  else .next (s.startTraining l 2)

/-- RETRAIN_TIMEOUT (R272): the link is not back in ACTIVE within 100 ms, whether it is still in RETRAIN or three attempts have
failed. -/
def execRetrainTimeout (l : Fin 96) (s : State) : Res :=
  let k := s.link l
  if s.floorCycles < k.retrainAt + 200000000 then .next s
  else if k.state = .retrain then .next (s.darken l .down)
  else if k.kept then .next (s.discardLink l true)
  else .next s

/-! ## Identity (R269, R270) -/

/-- The revision of a die, as its capability word has it (Table 13.7). -/
def State.revision (s : State) (d : Nat) : Nat := fld (kget (0 : BitVec 32) s.boot.dieCaps d) 0 8

/-- The identity block that a link sends. -/
def State.identBlock (s : State) (l : Nat) : IdBlock :=
  let t := l / 8
  let k := s.link l
  let resume := k.state = .retrain && k.resume
  { magic := 0x4B4C4E31, version := 1, link := BitVec.ofNat 8 l, lanes := k.identLanes.zeroExtend 8, self := s.selfAddr t
    pid := s.pidOf t, slot := s.hub.slotId.zeroExtend 8
    flags := BitVec.ofNat 8 ((if resume then 1 else 0) + (if s.stoppedNow (s.partOf t) then 2 else 0))
    rxNext := k.rxSeq.zeroExtend 16, revision := BitVec.ofNat 16 (s.revision t), restZero := true }

/-- R270, R302: the condition that fails, 0 where none does; a PID that is zero comes before PIDs that differ. -/
def State.mismatch (s : State) (t : Nat) (b : IdBlock) : Nat :=
  let pid := s.pidOf t
  if b.pid = 0 || pid = 0 then 2 else if b.pid ≠ pid then 1 else if b.version ≠ 1 then 3
  else if moduleKey b.self = moduleKey (s.selfAddr t) then 4 else 0

/-- R270, R277: whether the link may carry traffic with that peer. -/
def State.identMatches (s : State) (t : Nat) (b : IdBlock) : Bool := s.hub.addressed && s.mismatch t b = 0

/-- R272: the blocks that the peer has not received are resent. -/
def Link.resumeFrom (k : Link) (rxNext : Nat) : Link :=
  let keep := match k.replay with
    | [] => []
    | (q, _, _) :: _ => k.replay.drop (Nat.min k.replay.length ((rxNext + 4096 - q.toNat) % 4096))
  { k with replay := keep, resend := keep, nak := false, replays := 0 }

/-- R270, R272: the exchange is over. -/
def State.concludeIdent (s : State) (l : Nat) (b : IdBlock) : State :=
  let t := l / 8
  let k := s.link l
  let lanes := k.identLanes &&& b.lanes.truncate 2
  if lanes = 0 then (s.modLink l fun k => { k with attempts := 0 }).darken l .down else
  let ok := s.identMatches t b
  let resumes := ok && decide (k.state = .retrain) && k.resume && b.flags.getLsbD 0
  let s := if resumes then s.modLink l fun k => k.resumeFrom b.rxNext.toNat else s.discardLink l k.hadTraffic
  let s := s.modLink l fun k => { (k.toState (if ok then .active else .isolated)) with
    lanes := lanes, step := 0, attempts := 0, wasActive := k.wasActive || ok, resume := false, identAt := none
    mismatch := BitVec.ofNat 3 (if ok then 0 else s.mismatch t b), winStart := s.floorCycles, corrWin := [] }
  s.trainNext t

/-- R289, R290: the peer's STOPPED. -/
def State.notePeer (s : State) (l : Nat) (slow : Nat) (stopped : Bool) : State :=
  let s := s.modLink l fun k => { k with peerSlow := BitVec.ofNat 2 slow, peerStopped := stopped }
  let s := (s.remoteSlow l slow).collSlow l slow
  if stopped then ((List.range 12).foldl (fun s t => s.endRemotes t 3 fun x => x.link = some l) s).collLinkLost l 3 else s

/-- R268, R270: an identity block from the peer; one that has not the form of Table 9.5 is ignored. -/
def State.takeIdent (s : State) (l : Nat) (b : IdBlock) : State :=
  if !b.formOk then s else
  let k := s.link l
  let live := k.step = 3 || k.state = .isolated || k.state = .active
  if !live then s else
  let s := s.modLink l fun k => { k with peerSelf := b.self, peerStopped := b.flags.getLsbD 1 }
  if k.step = 3 then
    let run := if k.ident = some b then k.identRun + 1 else 1
    let s := s.modLink l fun k => { k with ident := some b, identRun := run }
    if 2 ≤ run then s.concludeIdent l b else s
  else if k.state = .isolated then
    let t := l / 8
    if s.identMatches t b then s.modLink l fun k => { k.toState .active with mismatch := 0, wasActive := true }
    else s.modLink l fun k => { k with mismatch := BitVec.ofNat 3 (s.mismatch t b) }
  else s

/-- IDENTITY_BLOCK. -/
def execIdentityBlock (l : Fin 96) (b : IdBlock) (s : State) : Res := .next (s.takeIdent l b)

/-! ## Received blocks (R264, R271, R274, R275) -/

/-- The frames in bytes that begin a frame, parsed in at most n frames (R265, R281); what is left of a frame begun, and whether
parsing waits for a later FIRST. -/
def State.parseArea (s : State) (l : Nat) : Nat → List Byte → State × List Byte × Bool
  | 0, _ => (s, [], false)
  | n + 1, bs =>
    match bs with
    | [] => (s, [], false)
    | b :: _ =>
      if b = 0 then (s, [], false)
      else if bs.length < 32 then (s, bs, false)
      else
        let f := frameOf bs
        if 32 < f.plen.toNat then (s.parseFrame l { f with payload := [] }, [], true)
        else if bs.length < 32 + f.plenBytes then (s, bs, false)
        else (s.parseFrame l f).parseArea l n (bs.drop (32 + f.plenBytes))

/-- R265, R281: the frame area of an accepted block. -/
def State.takeArea (s : State) (l : Nat) (b : LinkBlock) : State :=
  let k := s.link l
  let area := b.bytes
  let start : Option (List Byte) :=
    if k.rxPart.isEmpty || k.rxSync then (if b.first.toNat ≤ 78 then some (area.drop (8 * b.first.toNat)) else none)
    else some (k.rxPart ++ area)
  match start with
  | none => s.modLink l fun k => { k with rxPart := [], rxSync := true }
  | some bs =>
    let (s, part, sync) := s.parseArea l (bs.length / 32 + 2) bs
    s.modLink l fun k => { k with rxPart := part, rxSync := sync }

/-- R274, R275: the control of a block that passed the CRC. Only an ACTIVE link resends on NAK: another one resends from the
peer's RX_NEXT when it resumes (R272). -/
def State.actControl (s : State) (l : Nat) (b : LinkBlock) : State :=
  let k := s.link l
  let drop := match k.replay with
    | [] => 0
    | (q, _, _) :: _ =>
      let d := (b.ackSeq.toNat + 4096 - q.toNat) % 4096
      if d ≤ k.replay.length then d else 0
  let k := { k with replay := k.replay.drop drop, replays := if drop = 0 then k.replays else 0
                    resend := k.resend.filter fun x => (k.replay.drop drop).any fun y => y.1 = x.1 }
  let v := b.crVc.toNat
  let k := if v = 3 then k else
    let d := (b.crCount - kget 0 k.crSeen v).toNat
    { k with credits := kset k.credits v (k.credit v + d), crSeen := kset k.crSeen v b.crCount }
  if k.state = .active && b.nak = 1 && !k.replay.isEmpty && k.resend.isEmpty then
    let k := { k with resend := k.replay, replayCnt := satAdd k.replayCnt 1, replays := k.replays + 1 }
    let s := s.modLink l fun _ => k
    if 16 ≤ k.replays then s.enterRetrain l true else s
  else s.modLink l fun _ => k

/-- Whether the link stands where it receives blocks by their SEQ. -/
def Link.carries (k : Link) : Bool := (k.state = .active || k.state = .isolated) && k.step = 0

/-- R271: corrected symbols on a lane, counted and held against the limit of a 1 s window. -/
def State.countCorrected (s : State) (l c0 c1 : Nat) : State :=
  let s := s.modLink l fun k =>
    let fresh := decide (k.winStart + 2000000000 ≤ s.floorCycles)
    let w := if fresh then [] else k.corrWin
    { k with corr0 := satAdd k.corr0 c0, corr1 := satAdd k.corr1 c1
             winStart := if fresh then s.floorCycles else k.winStart
             corrWin := kset (kset w 0 (kget 0 w 0 + c0)) 1 (kget 0 w 1 + c1) }
  [0, 1].foldl (fun s i => if 2 ^ 20 < kget 0 (s.link l).corrWin i && (s.link l).carrying.getLsbD i then s.decommission l i 0 else s) s

/-- R264, R272: eight uncorrectable codewords in a row lose lock. -/
def State.badCodeword (s : State) (l : Nat) : State :=
  let s := s.modLink l fun k => { k with uncorr := satAdd k.uncorr 1, badRun := k.badRun + 1, goodRun := 0, nak := k.nak || k.carries }
  let k := s.link l
  if k.badRun < 8 then s
  else
    let s := s.modLink l fun k => { k with badRun := 0 }
    if k.state = .active then s.enterRetrain l true
    else if k.state = .isolated then s.startTraining l 0
    else if k.step = 3 then s.modLink l fun k => { k with step := 2 } else s

/-- R274: the SEQ of a block that passed the CRC, and its frames or identity. -/
def State.acceptBlock (s : State) (l : Nat) (b : LinkBlock) : State :=
  let k := s.link l
  if b.first.toNat = 127 then s
  else if b.first.toNat = 125 then s.takeIdent l (identOf b.bytes)
  else if !k.carries then s
  else if b.seq = k.rxSeq then (s.modLink l fun k => { k with rxSeq := k.rxSeq + 1, nak := false }).takeArea l b
  else if (b.seq - k.rxSeq).toNat < 2048 then s.modLink l fun k => { k with nak := true }
  else s

/-- LINK_BLOCK_RECEIVED (R274, R271). The reserved bits of the marker and the control may hold anything: no rule of chapter 9
rejects a block for them, and the model ignores them (DESIGN CHOICE, log 81). One lane of two that loses lock is decommissioned. -/
def execLinkBlockReceived (l : Fin 96) (b : LinkBlock) (s : State) : Res :=
  let k := s.link l
  if k.step ≠ 3 && !k.carries then .next s
  else if k.carrying = 3 && (b.lost = 1 || b.lost = 2) then .next (s.decommission l (b.lost.toNat - 1) 1)
  else if !b.decodes || 15 < b.corr0 + b.corr1 then .next (s.badCodeword l)
  else
    let s := (s.modLink l fun k => { k with badRun := 0, goodRun := k.goodRun + 1 }).countCorrected l b.corr0 b.corr1
    if b.crc.toNat ≠ b.crcOf then .next (s.modLink l fun k => { k with nak := k.nak || k.carries })
    else .next (((s.notePeer l b.slow.toNat (b.stopped = 1)).actControl l b).acceptBlock l b)

/-! ## Sent blocks (R265, R273, R275) -/

/-- The next frame that may be sent: the first of its VC whose VC holds its credits. -/
def Link.sendable (k : Link) : List Nat → List Frame → Option Frame
  | _, [] => none
  | blocked, f :: fs =>
    let v := f.vc.toNat
    if blocked.contains v then k.sendable blocked fs
    else if f.need ≤ k.credit v then some f
    else k.sendable (v :: blocked) fs

/-- Frames appended to an area, at most n of them, while it has room. -/
def Link.fillArea (k : Link) : Nat → List Byte → Link × List Byte
  | 0, bs => (k, bs)
  | n + 1, bs =>
    if 632 ≤ bs.length then (k, bs) else
    match k.sendable [] k.txq with
    | none => (k, bs)
    | some f =>
      let v := f.vc.toNat
      let k := { k with txq := k.txq.erase f, credits := kset k.credits v (k.credit v - f.need) }
      k.fillArea n (bs ++ f.bytes)

/-- R275: the VC that a control reports: the next in rotation whose count has changed. -/
def Link.nextCr (k : Link) : Nat :=
  let changed := fun v => kget 0 k.crFreed v ≠ kget 0 k.crSent v
  (([1, 2, 3].map fun i => (k.crVc + i) % 3).find? changed).getD (k.crVc % 3)

/-- A block with the link's control (Table 9.2). -/
def State.controlled (s : State) (l : Nat) (seq : BitVec 12) (first : BitVec 7) (area : List Byte) : State :=
  let k := s.link l
  let part := s.partOf (l / 8)
  let v := k.nextCr
  let b : LinkBlock := { decodes := true, corr0 := 0, corr1 := 0, seq := seq, first := first, rsvM := 0, crc := 0, ackSeq := k.rxSeq
                         nak := if k.nak then 1 else 0, crVc := BitVec.ofNat 2 v, rsvA := 0, crCount := kget 0 k.crFreed v
                         slow := BitVec.ofNat 2 (s.slowOf part), stopped := if s.stoppedNow part then 1 else 0, rsvB := 0, area := area }
  s.modLink l fun k => { k with lastSent := some { b with crc := BitVec.ofNat 32 b.crcOf }, crVc := v, crSent := kset k.crSent v (kget 0 k.crFreed v) }

/-- IDENTITY_BLOCK_SEND (R267, R268): every 10 µs in step 3, every 1 ms in ISOLATED: a block with FIRST = 125 whose
frame area is the identity block (R269). -/
def execIdentityBlockSend (l : Fin 96) (s : State) : Res :=
  let k := s.link l
  let every := if k.step = 3 then 20000 else 2000000
  let due := match k.identAt with
    | none => true
    | some t => decide (t + every ≤ s.floorCycles)
  if (k.step = 3 || k.state = .isolated) && due then
    .next ((s.modLink l fun k => { k with lastIdent := some (s.identBlock l), identAt := some s.floorCycles }).controlled l
      k.txSeq 125 (s.identBlock l).area)
  else .next s

/-- R286: the requests whose frame has left a link's queue have left their tile. -/
def State.noteLeft (s : State) (l : Nat) (queued : List Frame) : State :=
  let left := fun (x : Remote) => x.link = some l && x.sent.isNone &&
    !queued.any fun f => f.tag = x.frame.tag && f.typ = x.frame.typ && f.src = x.frame.src
  { s with tiles := s.tiles.map fun (t, k) => (t, { k with remotes := k.remotes.map fun (n, x) =>
      (n, if left x then { x with sent := some s.ticks } else x) }) }

/-- LINK_BLOCK_SEND (R273, R275): a block of a replay; or a new block with queued frames; or an empty one. -/
def execLinkBlockSend (l : Fin 96) (s : State) : Res :=
  let k := s.link l
  if k.state = .isolated then .next (s.controlled l k.txSeq 127 (List.replicate 632 0))
  else if k.state ≠ .active then .next s
  else
    match k.resend with
    | (q, first, area) :: more => .next ((s.modLink l fun k => { k with resend := more }).controlled l q first area)
    | [] =>
      let begun := k.txPart.length
      let (k', bs) := if 256 ≤ k.replay.length then (k, []) else k.fillArea 20 k.txPart
      if bs.isEmpty || 256 ≤ k.replay.length then .next (s.controlled l k.txSeq 127 (List.replicate 632 0))
      else
        let first : BitVec 7 := if 632 ≤ begun || bs.length = begun then 126 else BitVec.ofNat 7 (begun / 8)
        let area := (bs ++ List.replicate 632 0).take 632
        let s := s.noteLeft l k'.txq
        let s := s.modLink l fun _ => { k' with txPart := bs.drop 632, txSeq := k.txSeq + 1, replay := k.replay ++ [(k.txSeq, first, area)] }
        .next (s.controlled l k.txSeq first area)

/-- TRAINING_PATTERN_RECEIVED (R272). -/
def execTrainingPatternReceived (l : Fin 96) (s : State) : Res :=
  if (s.link l).state = .active then .next (s.enterRetrain l true) else .next s

/-! ## What LNK_CTL does (R301, Table 15.6) -/

/-- R403, R459: whether the links of a tile may train: the module is READY, and the tile is not fenced. -/
def State.linksRun (s : State) (t : Nat) : Bool := decide (s.boot.stage = 15) && !(s.tile t).fenced

/-- ENABLE written. A link that is inert before READY (R403), or whose tile is fenced, trains once that ends. -/
def State.setEnable (s : State) (l : Nat) (v : Bool) : State :=
  let k := s.link l
  let s := s.modLink l fun k => { k with enable := v }
  if v then
    if k.state ≠ .off || !s.linksRun (l / 8) then s
    else if k.decom = 3 then s.modLink l fun k => { k.toState .down with downAt := s.floorCycles }
    else s.startTraining l 0
  else if k.state = .off then s else s.darken l .off

/-- R403, R459: the links of some tiles that ENABLE lets train do so now. -/
def State.enableLinks (s : State) (tiles : List Nat) : State :=
  (tiles.flatMap fun t => (List.range 8).map (8 * t + ·)).foldl (fun s l => if (s.link l).enable then s.setEnable l true else s) s

/-- RETRAIN written as 1: an ACTIVE link retrains; a link that its fence action keeps DOWN trains again. -/
def State.writeRetrain (s : State) (l : Nat) : State :=
  let k := s.link l
  let s := s.modLink l fun k => { k with fenced := false }
  if k.state = .active then s.enterRetrain l true
  else if k.fenced && k.state = .down && k.enable && k.decom ≠ 3 then s.startTraining l 0
  else s

/-- LANE_EN written: a change retrains an ACTIVE link. -/
def State.setLaneEn (s : State) (l : Nat) (v : BitVec 2) : State :=
  let k := s.link l
  let s := s.modLink l fun k => { k with laneEn := v }
  if k.laneEn ≠ v && k.state = .active then s.enterRetrain l true else s

/-- LANE_REENABLE written as 1. -/
def State.laneReenable (s : State) (l : Nat) : State :=
  let k := s.link l
  let s := s.modLink l fun k => { k.setDecom 0 with eqFails := [], fenced := false }
  if k.fenced && k.state = .down && k.enable then s.startTraining l 0 else s

/-- Table 15.6: the fence action of a link. -/
def State.fenceLink (s : State) (l : Nat) : State :=
  let s := s.modLink l fun k => { k with fenced := true }
  if (s.link l).state = .off || (s.link l).state = .down then s else s.darken l .down

/-- R272, R300: every link of some tiles retrains without RESUME. -/
def State.retrainAll (s : State) (tiles : List Nat) : State :=
  (tiles.map fun t => (List.range 8).map (8 * t + ·)).flatten.foldl (fun s l =>
    let k := s.link l
    if k.state = .active || k.state = .isolated then s.enterRetrain l false
    else s.modLink l fun k => { k with resume := false }) s

/-- R300: a partition's PID is written: the frames queued at its tiles are dropped and counted on the links they came on or were
to leave on. -/
def State.setPid (s : State) (part : Nat) (pid : BitVec 32) : State :=
  let tiles := s.partDies part
  let s := s.endColls part 4
  let s := tiles.foldl (fun s t => s.endRemotes t 4 fun _ => true) s
  let s := (tiles.map fun t => (List.range 8).map (8 * t + ·)).flatten.foldl (fun s l =>
    let k := s.link l
    let s := k.rxq.foldl (fun s f => s.freeCredits l f) s
    s.modLink l fun k => { k with foreign := satAdd k.foreign (k.txq.length + k.rxq.length), txq := [], rxq := [] }) s
  let held := (s.partition part).heldColl
  let count := fun (s : State) l => s.modLink l fun k => { k with foreign := satAdd k.foreign 1 }
  let s := held.foldl (fun s x =>
    if x.1 = 0 then s else if 96 < x.1 then count s (x.1 - 97) else count (s.freeCredits (x.1 - 1) x.2) (x.1 - 1)) s
  let s := (s.localFrames.filter fun x => tiles.contains x.1).foldl (fun s x => x.2.1.elim s (count s)) s
  let s := { s with localFrames := s.localFrames.filter fun x => !tiles.contains x.1 }
  let s := s.modPartition part fun p => { p with pid := pid, heldColl := [] }
  s.retrainAll tiles

/-- R303: cycles in which a frame waited for a credit of its VC, at a tick of n floor-network cycles. -/
def Link.countWait (k : Link) (n : Nat) : Link :=
  if k.state = .active && k.txq.any (fun f => k.credit f.vc.toNat < f.need) then { k with creditWait := satAdd k.creditWait n } else k

end Sys2Proof.Machine
end

