-- ==== Sys2Proof/Machine/Access.lean ====
section
/-! DEFINITION. Reaching registers: who may access what (R403, R419 to R421), the refusals (R420, R425), and the window's
configuration-check state (R434). -/

namespace Sys2Proof

/-- The ring, and the SOURCE, of a window's records (R425, R441). -/
def Window.ring : Window → Nat
  | .hub => 12
  | .tile t => t
  | .die d => d

end Sys2Proof

namespace Sys2Proof.Machine

/-- R403: boot has reached READY. -/
def State.ready (s : State) : Bool := decide (s.boot.stage = 15)

/-! ## Windows -/

def State.crcOf (s : State) (w : Window) : CrcRegs := match w with
  | .hub => s.hub.crc
  | .tile t => (s.tile t).crc
  | .die d => (s.die d).crc

def State.modCrc (s : State) (w : Window) (f : CrcRegs → CrcRegs) : State := match w with
  | .hub => s.modHub fun h => { h with crc := f h.crc }
  | .tile t => s.modTile t fun k => { k with crc := f k.crc }
  | .die d => s.modDie d fun k => { k with crc := f k.crc }

/-- R420, R425, R428, R429: one more write refused or discarded in a window. -/
def State.regReject (s : State) (w : Window) : State := s.modCrc w fun c => { c with reject := c.reject + 1 }

/-- A record whose UNIT the spec does not state: a free value (log 26). Used for records that open no window, and for a
hub-window record. -/
def State.recordAnyUnit (s : State) (ring : Nat) (r : Rec) : State :=
  let (u, s) := s.draw
  s.record ring { r with unit := fld u 0 32 }

/-- R425: a value outside a field's range at an offset of a window: counted, and logged for each register once a second. -/
def State.rangeReject (s : State) (w : Window) (off v : Nat) : State :=
  let s := s.regReject w
  let fresh := match kfind (s.crcOf w).logged off with
    | none => true
    | some t => s.elapsed t secTicks
  if !fresh then s else
  let s := s.modCrc w fun c => { c with logged := kset c.logged off s.ticks }
  s.recordAnyUnit w.ring { typ := 0x0E, cls := 1, source := w.ring, unit := 0, payload := pack [(0, 4, off), (8, 8, v)] }

/-- R434: an accepted write to a C field sets DIRTY and abandons a pending commit. -/
def State.noteC (s : State) (w : Window) : State := s.modCrc w fun c => { c with dirty := true, pending := false }

/-- R420, R422, R426: the window of a tile or die answers: admitted (from step 4 on, over the sideband), not fenced and not in a die
reset. -/
def State.windowOpen (s : State) (t : Nat) : Bool :=
  let k := s.tile t
  (k.up || (s.boot.stage = 5 && s.boot.admitted.getLsbD t)) && !k.fenced && k.fence.isNone && decide (k.resetStep = 0)

/-! ## Waits for credits (R15, R187, R438) -/

/-- R13: the links that a message takes: from tile to tile along its route, or between a tile and the hub, which is 12. -/
def State.linksOf (s : State) (m : FloorMsg) : List (Nat × Nat) :=
  let a := m.srcTile.toNat
  let b := m.dstTile.toNat
  if a = 12 || b = 12 then [(a, b)] else
  let p := (s.floorRoute a b).getD []
  (a :: p).zip p

/-- R187, R438: whether a REQ message waits for one of the 64 credits of a link out of tile t, the hub being 12, or of an agent port
there. -/
def State.reqWaits (s : State) (t : Nat) : Bool :=
  let reqs := (s.floor.map (·.msg)).filter fun m => m.vc = 0
  let links := (reqs.flatMap s.linksOf).filter fun x => x.1 = t
  let into := (reqs.filter fun m => m.dstTile.toNat = t).map (·.dstAgent)
  let out := (reqs.filter fun m => m.srcTile.toNat = t).map (·.srcAgent)
  links.any (fun x => decide (64 < links.count x)) || into.any (fun x => decide (64 < into.count x)) || out.any fun x => decide (64 < out.count x)

/-- R201, R229, R438: whether the units of tile t withhold REQ credits: a full park buffer, or 1,024 sector requests at the KSP engine. -/
def State.withholds (s : State) (t : Nat) : Bool :=
  (s.tile t).withheld || decide (1024 < (s.outstanding.filter fun x =>
    (x.1.op = .rdSector || x.1.op = .wrSector) && decide (x.1.msg.dstTile.toNat = t)).length)

/-- The cells whose crossbar carries a request. -/
def State.xbarCells (s : State) : List Nat :=
  ((s.xbar.filter fun x => !x.2.back && !x.2.here).map fun x => x.2.core / 8).eraseDups

/-- The regions that have a request at their port to the floor tile. -/
def State.portRegions (s : State) : List Nat :=
  ((s.outstanding.filterMap fun x => senderCache x.1.msg).filter isL1 |>.map (· / 32)).eraseDups

/-! ## Table 14.2 -/

/-- The parts of register space (Table 1.9). -/
inductive Region where
  | hub (off : Nat)
  | tile (t : Nat) (off : Nat)
  | die (d : Nat) (off : Nat)
  | alias_ (off : Nat) (b : Nat)
  | doorbell (off : Nat)
  | none
deriving DecidableEq, Repr

/-- Where an offset of register space lies. -/
def regionOf (off : Nat) : Region :=
  if off < 0x0F00000 then .hub off
  else if off < 0x1000000 then .doorbell (off - 0x0F00000)
  else if off < 0x1C00000 then .tile ((off - 0x1000000) / 0x100000) (off % 0x100000)
  else if off < 0x2000000 then .none
  else if off < 0x2C00000 then .die ((off - 0x2000000) / 0x100000) (off % 0x100000)
  else if off < 0x3000000 then .none
  else .alias_ ((off - 0x3000000) / 32 / 4 * 4) ((off - 0x3000000) % 128 / 4)

/-- R403: what the tray host reaches before READY. -/
def earlyHub (off : Nat) : Bool :=
  (0x100 ≤ off && off < 0x118) || (0x180 ≤ off && off < 0x1E0) || (0x10000 ≤ off && off < 0x10008) || (0x50000 ≤ off && off < 0x53000)

/-- R407: a warden that has fenced itself has no access to register space. -/
def State.wardenReaches (s : State) (w : Nat) : Bool := decide (kget 0 s.boot.wardens w ≠ (4 : BitVec 3))

/-- Table 14.2 for a hub offset below 0x0F0_0000. -/
def State.mayHub (s : State) (a : Agent) (off : Nat) (write : Bool) : Bool :=
  let priv := 0x60000 ≤ off && off < 0x80000
  match a with
  | .trayHost => !priv && (s.ready || earlyHub off)
  | .hostCore _ => !priv && !(write && 0x10000 ≤ off && off < 0x20000)
  | .warden w => s.wardenReaches w && (!priv || decide (w.val = s.velvet.holder))
  | .commandProcessor => !priv

/-- Table 14.2 for a tile or die window. -/
def State.mayWindow (s : State) (a : Agent) (d : Nat) : Bool :=
  match a with
  | .trayHost => s.ready
  | .hostCore h => decide (s.partOf (h.val / 8) = s.partOf d)
  | .warden w => s.wardenReaches w
  | .commandProcessor => true

/-- R421: whether an access that the table allows is made at all; the windows' own answers follow R420. -/
def State.mayReach (s : State) (a : Agent) (off : Nat) (write : Bool) : Bool :=
  match regionOf off with
  | .hub o => s.mayHub a o write
  | .alias_ o _ => s.mayHub a o write
  | .tile t _ => s.mayWindow a t && s.windowOpen t
  | .die d _ => s.mayWindow a d && s.windowOpen d
  | .doorbell _ => (match a with | .hostCore _ => true | .trayHost => false | .warden _ => false | .commandProcessor => false)
  | .none => false

/-- R420, R421: the answer of a register access: 0 done, 1 decode error, 2 rejected. -/
def State.answerAccess (s : State) (v : Nat) : State := s.modHub fun h => { h with lastAccess := v }

end Sys2Proof.Machine
end

