-- ==== Sys2Proof/Machine/Cmd.lean ====
section
/-! DEFINITION. The command processor: its accesses (R330), doorbells and queues (R65 to R69), the fetch of packets, their
checks (R329), and the completion of commands (R70, R318, R342). -/

namespace Sys2Proof.Machine

/-! ## Accesses of the command processor (R330) -/

/-- How an access of the command processor fails. -/
inductive CpErr where
  | busy
  | failed (pa : Nat)
  | poison (pa : Nat)
deriving DecidableEq, Repr

/-- Whether an address lies in the DRAM that tile t decodes for its own partition. -/
def State.ownsDram (s : State) (t pa : Nat) : Bool := match (s.tile t).setFor pa with
  | some n => ((s.tile t).iset n).owner t
  | none => false

/-- R330, R193, R414: the requester that reaches an address for a context: DRAM of its partition; for context 0 any populated
DRAM, and the management reserve. none: the access completes with an error. -/
def State.cpReq (s : State) (ctx pa : Nat) : Option Req :=
  if ctx = 0 then
    if reserveBase ≤ pa && pa < reserveBase + 0x10000 then some { tile := 0, part := 0, cls := 6, hub := true } else
    ((List.range 12).find? fun t => s.ownsDram t pa).map fun t => { tile := t, part := s.partOf t, cls := 6 }
  else match (s.context ctx).first with
    | none => none
    | some f => if s.ownsDram f pa then some { tile := f, part := f, cls := 6, ctx := some ctx } else none

/-- The parts of n bytes from pa within blocks of 1 GiB, of which interleave sets are made (R214): each part lies in one set. -/
def gibPieces : Nat → Nat → Nat → List (Nat × Nat)
  | 0, _, _ => []
  | k + 1, pa, n =>
    let m := Nat.min n (2 ^ 30 - pa % 2 ^ 30)
    (pa, m) :: if n ≤ m then [] else gibPieces k (pa + m) (n - m)

/-- R330: a read within one set. -/
def State.cpReadPart (s : State) (ctx pa n : Nat) : State × Except CpErr (List Byte) :=
  match s.cpReq ctx pa with
  | none => (s, .error (.failed pa))
  | some r =>
    match s.readBulk r pa n with
    | (s, .error .busy) => (s, .error .busy)
    | (s, .error (.failed a)) => (s, .error (.failed a))
    | (s, .ok b) => (s, if b.poisoned then .error (.poison pa) else .ok b.data)

/-- R330: reads made one after another; the first that fails ends them. -/
def State.cpReadParts (s : State) (ctx : Nat) : List (Nat × Nat) → State × Except CpErr (List Byte)
  | [] => (s, .ok [])
  | (pa, n) :: ps =>
    match s.cpReadPart ctx pa n with
    | (s, .error e) => (s, .error e)
    | (s, .ok bs) =>
      match s.cpReadParts ctx ps with
      | (s, .error e) => (s, .error e)
      | (s, .ok more) => (s, .ok (bs ++ more))

/-- R330: a read of the command processor for a context. -/
def State.cpRead (s : State) (ctx pa n : Nat) : State × Except CpErr (List Byte) := s.cpReadParts ctx (gibPieces (n / 2 ^ 30 + 2) pa n)

/-- R330: a write within one set. -/
def State.cpWritePart (s : State) (ctx pa : Nat) (bs : List Byte) : State × Except CpErr Unit :=
  match s.cpReq ctx pa with
  | none => (s, .error (.failed pa))
  | some r =>
    match s.writeBulk r pa (cleanBytes bs) with
    | (s, .error .busy) => (s, .error .busy)
    | (s, .error (.failed a)) => (s, .error (.failed a))
    | (s, .ok ()) => (s, .ok ())

/-- R330: writes made one after another; the first that fails ends them. -/
def State.cpWriteAll (s : State) (ctx : Nat) : List (Nat × List Byte) → State × Except CpErr Unit
  | [] => (s, .ok ())
  | (pa, bs) :: ws =>
    match s.cpWritePart ctx pa bs with
    | (s, .error e) => (s, .error e)
    | (s, .ok ()) => s.cpWriteAll ctx ws

/-- R330: a write of the command processor for a context. -/
def State.cpWrite (s : State) (ctx pa : Nat) (bs : List Byte) : State × Except CpErr Unit :=
  s.cpWriteAll ctx ((gibPieces (bs.length / 2 ^ 30 + 2) pa bs.length).map fun x => (x.1, (bs.drop (x.1 - pa)).take x.2))

/-! ## Queues (R64 to R68) -/

/-- A QUEUE_ERROR record (Table 15.3). -/
def State.queueError (s : State) (q reason : Nat) (stops : Bool) (value pa : Nat) : State :=
  s.recordAnyUnit 12 { typ := 0x2B, cls := 0, source := 12, unit := 0
                       payload := pack [(0, 1, (s.queue q).context), (1, 1, q), (2, 1, reason), (3, 1, if stops then 1 else 0), (8, 8, value), (16, 8, pa)] }

/-- R68: a queue enters the error state. -/
def State.queueStops (s : State) (q reason value pa : Nat) : State :=
  if (s.queue q).error then s else
  (s.queueError q reason true value pa).modQueue q fun k => { k with error := true }

/-- R68: an aligned 64-bit write of a queue's doorbell; whatever its value, the wait at an empty slot is over. -/
def State.ringDoorbell (s : State) (q : Nat) (v : BitVec 64) : State :=
  let k := s.queue q
  if !k.live then s
  else if v.toNat ≤ k.doorbell.toNat then s.modQueue q fun k => { k with emptyAt := none }
  else if 2 ^ k.ringLog2 < v.toNat - k.read.toNat then s.queueStops q 0 v.toNat 0
  else s.modQueue q fun k => { k with doorbell := v, lastAccepted := v, emptyAt := none }

/-- R65, R428: a write of a doorbell page through register space that is not an aligned 64-bit write of its first word. -/
def State.badDoorbellWrite (s : State) (q v : Nat) : State :=
  let s := s.regReject .hub
  let fresh := match (s.queue q).badDoorbell with
    | none => true
    | some t => s.elapsed t secTicks
  if !fresh then s else (s.queueError q 2 false v 0).modQueue q fun k => { k with badDoorbell := some s.ticks }

/-- DOORBELL_WRITE (R65, R421): a write of a doorbell page through register space, which host cores reach. -/
def execDoorbellWrite (a : Agent) (queue : Fin 256) (off : Nat) (size : Nat) (v : BitVec 64) (s : State) : Res :=
  match a with
  | .hostCore _ =>
    if off = 0 && size = 8 then .next ((s.ringDoorbell queue v).answerAccess 0)
    else .next ((s.badDoorbellWrite queue (v.toNat % 256 ^ Nat.min size 8)).answerAccess 2)
  | .trayHost => .next (s.answerAccess 1)
  | .warden _ => .next (s.answerAccess 1)
  | .commandProcessor => .next (s.answerAccess 1)

/-! ## Packets -/

/-- The opcode of a run (R67). -/
def Run.opcode (r : Run) : Nat := fld r.packet 0 16

/-- A field of the packet: byte offset and width. -/
def Run.p (r : Run) (off w : Nat) : Nat := byteFld r.packet off w

/-- Table 11.3. -/
def opcodes : List Nat :=
  [0x0001, 0x0002, 0x0003, 0x0004, 0x0005, 0x0100, 0x0101, 0x0102, 0x0103, 0x0104, 0x0105, 0x0200, 0x0201, 0x0202, 0x0800, 0x0801,
   0x0802, 0x0803, 0x0804, 0x0805, 0x0806]

/-- R318: the completion ring of a context holds 256 records or more: its queues' commands do not start. -/
def State.stalled (s : State) (ctx : Nat) : Bool := decide (256 ≤ (s.ring ctx).backlog.length)

/-- R68: whether the command processor serves a queue. -/
def State.reads (s : State) (q : Nat) : Bool :=
  let k := s.queue q
  s.ready && decide (s.boot.cpUpAt ≤ s.ticks) && k.live && !k.error && !k.stopping && (s.context k.context).live && (s.context k.context).ending.isNone &&
  !s.stalled k.context

/-- R384: whether it starts commands of the queue: none during the stop. -/
def State.serves (s : State) (q : Nat) : Bool := s.reads q && !s.power.coolStop

/-- R68: what a queue's read gives: it waits, or the read's failure stops the queue. -/
def State.ringRead (s0 : State) (q index : Nat) (x : State × Except CpErr (List Byte)) (k : List Byte → State → State) : State :=
  match x with
  | (u, .error .busy) => s0.woken u
  | (s, .error (.failed a)) => s.queueStops q 1 index a
  | (s, .error (.poison a)) => s.queueStops q 5 index a
  | (s, .ok bs) => k bs s

/-- COMMAND_FETCH (R67, R68, R329 step 1): the opcode at the read index is read, then the packet; an empty slot is read again
later. -/
def execCommandFetch (queue : Fin 256) (s : State) : Res :=
  let k := s.queue queue
  if !s.reads queue || k.run.isSome || k.doorbell.toNat ≤ k.read.toNat || k.emptyAt.isSome then .next s else
  let pa := k.ringBase + k.read.toNat % 2 ^ k.ringLog2 * 64
  .next (s.ringRead queue k.read.toNat (s.cpRead k.context pa 2) fun op s1 =>
    if leNat op = 0 then s1.modQueue queue fun k => { k with emptyAt := some s.ticks }
    else s.ringRead queue k.read.toNat (s1.cpRead k.context pa 64) fun bs s =>
      let r : Run := { index := k.read, packet := BitVec.ofNat 512 (leNat bs), readAt := s.nextRead }
      let r := if opcodes.contains r.opcode then r else r.fail 0x0003 0 none
      { s with nextRead := s.nextRead + 1 }.modQueue queue fun k => { k with run := some r })

/-- EMPTY_SLOT_RETRY (R68): 10 µs after an empty slot it is read again. -/
def execEmptySlotRetry (queue : Fin 256) (s : State) : Res :=
  match (s.queue queue).emptyAt with
  | none => .next s
  | some t => if s.elapsed t (10 * usTicks) then .next (s.modQueue queue fun k => { k with emptyAt := none }) else .next s

/-! ## Checks (R329) -/

/-- A field of Table 11.3: offset, width and whether its value is allowed. -/
abbrev Param := Nat × Nat × Bool

/-- R329 step 4: the first byte from off, among n, that no field covers and is not zero, or the first field that is not
allowed. -/
def badParam (v : BitVec 512) (ps : List Param) : Nat → Nat → Option Nat
  | 0, _ => none
  | n + 1, off =>
    match ps.find? fun p => p.1 ≤ off && off < p.1 + p.2.1 with
    | some p => if p.1 = off && !p.2.2 then some off else badParam v ps n (off + 1)
    | none => if byteFld v off 1 = 0 then badParam v ps n (off + 1) else some off

/-- R327, R329 step 4: the offset of the first field that is out of range, in a packet with parameters ps. -/
def Run.badField (r : Run) (ps : List Param) : Option Nat :=
  let sig := r.p 8 8
  let hi := if 0x0800 ≤ r.opcode then 0x28 else 0x40
  if r.p 2 1 / 4 ≠ 0 then some 2
  else if r.p 3 5 ≠ 0 then some 3
  else if sig % 8 ≠ 0 || (sig ≠ 0 && r.p 2 1 % 2 = 0) then some 8
  else badParam r.packet ps (hi - 0x10) 0x10

/-- Table 11.3: a LAYER that fails for no kernel of its own: without a step table bits [31:16] of its RESULT are 0xFFFF, and what the
spec names no value for is a free value (log 7). -/
def State.unnamedResult (s : State) (q : Nat) : State :=
  match s.run q with
  | none => s
  | some r =>
    if r.opcode ≠ 3 then s else
    let (v, s) := s.draw
    s.modRun q fun r => { r with result := BitVec.ofNat 64 (if r.p 0x20 8 = 0 then fld v 0 16 + 0xFFFF * 65536 else fld v 0 32) }

/-- A command that ends at once with a status. -/
def State.reject (s : State) (q status detail : Nat) : State := (s.modRun q fun r => r.fail status detail none).unnamedResult q

/-- A command that has been carried out. -/
def State.finish (s : State) (q : Nat) (result : Nat) : State :=
  s.modRun q fun r => { r with stage := .ending, result := BitVec.ofNat 64 result }

/-- R340: the limit of a command counts from now, unless it counts already. -/
def State.startClock (s : State) (q : Nat) : State := s.modRun q fun r => { r with start := some (r.start.getD s.ticks) }

/-- R340: a command that runs on. -/
def State.runOn (s : State) (q : Nat) : State := s.modRun q fun r => { r with stage := .running, start := some (r.start.getD s.ticks) }

/-- The run of a queue whose packet was read and not yet carried out, with a given opcode; a command waits while the command
processor starts none. POWER_LIMIT is carried out during the stop too (Table 12.8). -/
def State.fetched (s : State) (q op : Nat) : Option Run :=
  match s.run q with
  | some r => if r.stage = .fetched && r.opcode = op && (s.serves q || (op = 0x0800 && s.reads q)) then some r else none
  | none => none

/-- R329 steps 3 to 5 for a command that is not critical: issuer, fields and the target's state; then it is carried out. From here the
limit of a command that is not sliced counts (R340), whether or not what it does must wait. -/
def State.command (s : State) (q op : Nat) (may : Run → Bool) (ps : Run → List Param) (okState : Run → Bool)
    (act : Run → State → State) : Res :=
  match s.fetched q op with
  | none => .next s
  | some r =>
    if !may r then .next (s.reject q 0x000C 0)
    else match r.badField (ps r) with
      | some off => .next (s.reject q 0x0004 off)
      | none => if !okState r then .next (s.reject q 0x000D 0) else .next (act r (if op = 2 || op = 3 then s else s.startClock q))

/-- NOP. -/
def execNopCommand (queue : Fin 256) (s : State) : Res :=
  s.command queue 0x0001 (fun _ => true) (fun _ => []) (fun _ => true) fun _ s => s.finish queue 0

/-- What a command does after a read of the command processor: it waits, or ends with MEMORY (R330). -/
def State.afterRead {α : Type} (s0 : State) (q : Nat) (x : State × Except CpErr α) (k : α → State → State) : State :=
  match x with
  | (u, .error .busy) => s0.woken u
  | (s, .error _) => s.reject q 0x0008 0
  | (s, .ok v) => k v s

/-! ## WAIT (R346) -/

/-- COND of a WAIT. -/
def waitHolds (cond v value : Nat) : Bool := match cond with
  | 0 => v = value
  | 1 => v ≠ value
  | 2 => value ≤ v
  | _ => v < value

/-- One read of a WAIT's word. -/
def State.pollWait (s : State) (q : Nat) (r : Run) : State :=
  s.afterRead q (s.cpRead (s.queue q).context (r.p 0x10 8) 8) fun bs s =>
    let v := leNat bs
    let s := s.modRun q fun r => { r with polled := s.ticks, result := BitVec.ofNat 64 v }
    if waitHolds (r.p 0x20 1) v (r.p 0x18 8) then s.finish q v else s

/-- WAIT. -/
def execWait (queue : Fin 256) (s : State) : Res :=
  s.command queue 0x0004 (fun _ => true) (fun r => [(0x10, 8, r.p 0x10 8 % 8 = 0), (0x18, 8, true), (0x20, 1, decide (r.p 0x20 1 < 4))])
    (fun _ => true) fun r s => (s.runOn queue).pollWait queue r

/-- WAIT_POLL (R346): the word is read again every 1 µs. -/
def execWaitPoll (queue : Fin 256) (s : State) : Res :=
  match s.run queue with
  | none => .next s
  | some r =>
    if r.stage = .running && r.opcode = 4 && s.elapsed r.polled usTicks then .next (s.pollWait queue r) else .next s

/-! ## COLLECTIVE (R345) -/

/-- COLLECTIVE: the descriptor and the table of peers are read, whose addresses have no reserved bit set (R9, Table 9.9); the collective
starts, or waits to. -/
def execCollective (queue : Fin 256) (s : State) : Res :=
  let ctx := (s.queue queue).context
  s.command queue 0x0005 (fun _ => ctx ≠ 0) (fun _ => [(0x10, 8, true)]) (fun _ => true) fun r s0 =>
    let pa := r.p 0x10 8
    if pa % 64 ≠ 0 then s0.reject queue 0x0009 7 else
    s0.afterRead queue (s0.cpRead ctx pa 64) fun bs s =>
      let v : BitVec 512 := BitVec.ofNat 512 (leNat bs)
      if !collValid v then s.reject queue 0x0009 7 else
      let d := collDesc v
      s0.afterRead queue (s.cpRead ctx d.peerTable (4 * d.q)) fun ps s =>
        let first := (s.context ctx).first.getD 0
        let peers := (List.range d.q).map fun i => BitVec.ofNat 32 (leNat ((ps.drop (4 * i)).take 4))
        if peers.any fun a => 2 ^ 21 ≤ a.toNat then s.reject queue 0x0009 7 else
        let c : Coll := { queue := queue, first := first, dies := (s.partition first).dies, desc := v, peers := peers }
        (({ s with colls := s.colls ++ [c] }).runOn queue).startColl queue

/-! ## Termination (R334, R340, R341) -/

/-- The launch that a LAYER's RESULT names when no launch of its own failed: the earliest one that still runs. -/
def Run.liveLaunch (r : Run) : Option Nat := (List.range r.launches.length).find? fun n => ((r.launches[n]?).map fun l => !l.done).getD false

/-- R340: a command is terminated with a status: its blocks and collectives end, and a WAIT stops; code is the collective's
status. One that has its status already keeps it. -/
def State.terminate (s : State) (q status detail code : Nat) : State :=
  match s.run q with
  | none => s
  | some r =>
    if r.stage = .ending || r.stage = .done then s else
    let s := s.endColl q 0 code
    let s := { s with colls := s.colls.filter fun c => c.queue ≠ q || (c.running && c.code.isSome) }
    let s := s.modPower fun p => { p with limitWait := p.limitWait.filter fun x => x.1 ≠ q }
    let s := s.modRun q fun r => r.fail status detail r.liveLaunch
    (if r.liveLaunch.isSome then s else s.unnamedResult q).stopBlocks q r.index

/-- R340: whether a command that has not ended is subject to its limit: it has started, or an access of it waits. -/
def Run.limited (r : Run) : Bool := r.start.isSome && r.stage ≠ .ending && r.stage ≠ .done

/-- COMMAND_LIMIT_EXPIRY (R340). -/
def execCommandLimitExpiry (queue : Fin 256) (s : State) : Res :=
  let k := s.queue queue
  match k.run with
  | none => .next s
  | some r =>
    match r.start with
    | none => .next s
    | some t =>
      if !r.limited || !s.elapsed t (k.limitMs * msTicks) then .next s else
      let s := s.terminate queue 0x0002 0 2
      .next (s.recordAnyUnit 12 { typ := 0x23, cls := 0, source := 12, unit := 0, payload := pack [(0, 1, k.context), (1, 1, queue), (8, 8, r.index.toNat)] })

/-! ## Completion (R70) -/

/-- Whether every part of a run has ended; with SYSTEM, its remote writes and atomics are acknowledged too. -/
def State.runEnded (s : State) (q : Nat) (r : Run) : Bool :=
  r.launches.all (fun l => l.live = 0) && !(s.colls.any fun c => c.queue = q) &&
  (r.p 2 1 / 2 % 2 = 0 || s.tiles.all fun t => t.2.remotes.all fun x =>
    !(x.2.queue = q && x.2.index = r.index && (x.2.frame.typ = 2 || x.2.frame.typ = 3)))

/-- R68: the writes of a completion: each is made, and the first that fails is told. They may have to wait. -/
def State.cpWrites (s : State) (ctx : Nat) : List (Nat × List Byte) → Attempt (State × Option Nat)
  | [] => .ok (s, none)
  | (pa, bs) :: ws =>
    match s.cpWrite ctx pa bs with
    | (u, .error .busy) => .error u
    | (s, .error (.failed a)) => (s.cpWrites ctx ws).map fun (s, _) => (s, some a)
    | (s, .error (.poison a)) => (s.cpWrites ctx ws).map fun (s, _) => (s, some a)
    | (s, .ok ()) => s.cpWrites ctx ws

/-- R70: the decrement of the completion signal. It may have to wait; the flag says that it failed. -/
def State.decrement (s : State) (ctx pa : Nat) : Attempt (State × Bool) :=
  if pa % 8 ≠ 0 then .ok (s, true) else
  match s.cpReq ctx pa with
  | none => .ok (s, true)
  | some r =>
    if inReserve r pa 8 then
      let s := s.settleReserve (pa - reserveBase) 8
      let k := reserveKey (pa - reserveBase)
      let v := (cellsRead s.mem k 8 + 2 ^ 64 - 1) % 2 ^ 64
      .ok ({ s with mem := cellsWrite s.mem k (leBytes 8 v) }, false)
    else
      match s.ncAtom r pa 0 2 (2 ^ 64 - 1) 0 with
      | (u, .error .busy) => .error u
      | (s, .error _) => .ok (s, true)
      | (s, .ok _) => .ok (s, false)

/-- R342: the commands that JOBS_DONE and JOBS_FAILED count. -/
def countsJob (op : Nat) : Bool := op = 2 || op = 3 || op = 5

/-- R317, R318: the COMPLETION record of a command. -/
def State.completion (s : State) (ctx q status : Nat) (index : BitVec 64) : State :=
  if !(s.ring ctx).enable then s else
  s.modRing ctx fun r => { r with backlog := r.backlog ++ [hostRecord 0x01 ctx q status index.toNat s.hub.time.toNat] }

/-- R68, R70, R318, R342: the status entry, the cleared slot, the read index, the signal, the record and the counts. It may have
to wait for one of the writes. -/
def State.complete (s : State) (q : Nat) (r : Run) : Attempt State :=
  let k := s.queue q
  let slot := r.index.toNat % 2 ^ k.ringLog2
  let reply := leBytes 32 (pack [(0, 2, r.status.toNat), (2, 2, r.opcode), (4, 4, r.detail.toNat), (8, 8, r.index.toNat), (16, 8, r.result.toNat), (24, 8, s.hub.time.toNat)])
  let next := r.index + 1
  match s.cpWrites k.context [(k.statusBase + slot * 32, reply), (k.ringBase + slot * 64, leBytes 2 0), (k.readIndexAddr, leBytes 8 next.toNat)] with
  | .error u => .error u
  | .ok (s, bad) =>
    let signal := if r.p 2 1 % 2 = 1 then s.decrement k.context (r.p 8 8) else .ok (s, false)
    match signal with
    | .error u => .error u
    | .ok (s, sbad) =>
      let s := s.modQueue q fun k => { k with read := next, run := none }
      let s := match bad with
        | some a => s.queueStops q 4 r.index.toNat a
        | none => s
      let s := if sbad then s.queueError q 3 false r.index.toNat (r.p 8 8) else s
      let s := s.completion k.context q r.status.toNat r.index
      .ok (if countsJob r.opcode then
        (if r.status = 0 then s.modContext k.context fun c => { c with jobsDone := satAdd c.jobsDone 1 }
         else s.modContext k.context fun c => { c with jobsFailed := satAdd c.jobsFailed 1 })
        else s)

/-- R335: a queue's descriptor is freed; a read of its doorbell page still returns the last value accepted (R65). -/
def State.freeQueue (s : State) (q : Nat) : State :=
  s.modQueue q fun k => { lastAccepted := k.lastAccepted, badDoorbell := k.badDoorbell }

/-- R334 steps 3 to 5: what is destroyed with a context. Local memory and scratch ways keep the number of the context that last
wrote them, so that a context made again under that number is the same one to R51 and R205 (DESIGN CHOICE, log 82). -/
def State.eraseContext (s : State) (c : Nat) : State :=
  let s := { s with pools := s.pools.filter fun x => x.2.owner ≠ c }
  let s := s.queues.foldl (fun s x => if x.2.live && x.2.context = c then s.freeQueue x.1 else s) s
  let leave := fun (p : Partition) => if p.current = some c then { p with current := none, sliceOver := false } else p
  let s := { s with partitions := s.partitions.map fun (f, p) => (f, leave p) }
  { s with contexts := kdel s.contexts c }

/-- Whether what a destroying command waits for has ended (R334, R335). -/
def State.destroyed (s : State) (q : Nat) (r : Run) : Bool :=
  (match r.destroys with
   | some c => s.queues.all fun x => !(x.2.live && x.2.context = c) || x.2.run.isNone || x.1 = q
   | none => true) &&
  (match r.destroysQueue with
   | some x => (s.queue x).run.isNone
   | none => true)

end Sys2Proof.Machine
end

