-- ==== Sys2Proof/Machine/CmdMgmt.lean ====
section
/-! DEFINITION. Commands that make and destroy contexts and queues (R332 to R335), read counts (R342, R350), and keep the KV
ledger (R355 to R359). -/

namespace Sys2Proof.Machine

/-! ## Contexts (R333, R334) -/

/-- CONTEXT_CREATE (R333). -/
def execContextCreate (queue : Fin 256) (s : State) : Res :=
  s.command queue 0x0100 (fun _ => (s.queue queue).context = 0)
    (fun r => [(0x10, 1, 1 ≤ r.p 0x10 1 && r.p 0x10 1 ≤ 31), (0x11, 1, true), (0x12, 1, decide (r.p 0x12 1 < 2)), (0x14, 2, r.p 0x15 1 = 0),
      (0x18, 4, 100 ≤ r.p 0x18 4 && r.p 0x18 4 ≤ 1000000)])
    (fun r => !(s.context (r.p 0x10 1)).live && s.boot.debugScope ≠ 3 && 1 ≤ (s.partition (r.p 0x11 1)).dies)
    fun r s =>
      let c : Context := { live := true, first := some (r.p 0x11 1), hostCores := decide (r.p 0x12 1 = 1)
                           priv := BitVec.ofNat 16 (r.p 0x14 2), sliceUs := r.p 0x18 4 }
      { s with contexts := kset s.contexts (r.p 0x10 1) c }.finish queue 0

/-- R334 step 2: every command of a context is terminated with a status. -/
def State.terminateContext (s : State) (c status code : Nat) : State :=
  s.queues.foldl (fun s x => if x.2.live && x.2.context = c then s.terminate x.1 status 0 code else s) s

/-- Whether a context is being destroyed by a command that has not completed. -/
def State.destroying (s : State) (c : Nat) : Bool := match (s.context c).ending with
  | none => false
  | some q => match s.run q with
    | some r => r.destroys = some c
    | none => false

/-- CONTEXT_DESTROY (R334): the context's commands are terminated; COMMAND_COMPLETE does the rest once they have ended. -/
def execContextDestroy (queue : Fin 256) (s : State) : Res :=
  s.command queue 0x0101 (fun _ => (s.queue queue).context = 0)
    (fun r => [(0x10, 1, 1 ≤ r.p 0x10 1 && r.p 0x10 1 ≤ 31)])
    (fun r => (s.context (r.p 0x10 1)).live && !s.destroying (r.p 0x10 1))
    fun r s =>
      let c := r.p 0x10 1
      let s := s.modContext c fun k => { k with ending := some queue.val }
      let s := (s.terminateContext c 0x000E 5).runOn queue
      s.modRun queue fun k => { k with destroys := some c }

/-! ## Queues (R335) -/

/-- Table 11.3: who may make or destroy a queue of context c. -/
def State.mayQueue (s : State) (issuer c : Nat) : Bool :=
  issuer = 0 || ((s.context issuer).priv.getLsbD 0 && c = issuer)

/-- R43: the address of a local aperture, from bits [56:22] of the value given. Where bits [63:57] are not the sign extension of
bit 56 the spec gives no answer: the model ignores them and sign-extends (DESIGN CHOICE, log 53). -/
def apertureOf (v : Nat) : BitVec 64 := ((BitVec.ofNat 64 v).truncate 57).signExtend 64

/-- QUEUE_CREATE (R335). -/
def execQueueCreate (queue : Fin 256) (s : State) : Res :=
  let ctx := (s.queue queue).context
  s.command queue 0x0102 (fun r => s.mayQueue ctx (r.p 0x10 1))
    (fun r => [(0x10, 1, decide (r.p 0x10 1 < 32)), (0x11, 1, true), (0x12, 1, 6 ≤ r.p 0x12 1 && r.p 0x12 1 ≤ 16), (0x13, 1, decide (r.p 0x13 1 < 2)),
      (0x14, 4, 1 ≤ r.p 0x14 4 && r.p 0x14 4 ≤ 3600000), (0x18, 8, r.p 0x18 8 % 4096 = 0 && r.p 0x18 8 < 2 ^ 52),
      (0x20, 8, r.p 0x20 8 % 4096 = 0 && r.p 0x20 8 < 2 ^ 52), (0x28, 8, r.p 0x28 8 % 8 = 0 && r.p 0x28 8 < 2 ^ 52),
      (0x30, 8, decide (r.p 0x30 8 / 2 ^ 60 = 10)), (0x38, 8, r.p 0x38 8 % 2 ^ 22 = 0)])
    (fun r => (s.context (r.p 0x10 1)).live && (s.context (r.p 0x10 1)).ending.isNone && !(s.queue (r.p 0x11 1)).live)
    fun r s0 => s0.afterRead queue (s0.cpRead ctx (r.p 0x28 8) 8) fun bs s =>
      let i : BitVec 64 := BitVec.ofNat 64 (leNat bs)
      let k : Queue := { live := true, context := r.p 0x10 1, ringBase := r.p 0x18 8, ringLog2 := r.p 0x12 1, statusBase := r.p 0x20 8
                         readIndexAddr := r.p 0x28 8, atp := BitVec.ofNat 64 (r.p 0x30 8), adHw := decide (r.p 0x13 1 = 1)
                         aperture := apertureOf (r.p 0x38 8), limitMs := r.p 0x14 4, read := i, doorbell := i
                         lastAccepted := (s.queue (r.p 0x11 1)).lastAccepted, badDoorbell := (s.queue (r.p 0x11 1)).badDoorbell }
      { s with queues := kset s.queues (r.p 0x11 1) k }.finish queue 0

/-- QUEUE_DESTROY (R335): the queue reads no further packet; a command of it that runs ends with ABORTED. A queue that destroys
itself is freed once its completion is written. -/
def execQueueDestroy (queue : Fin 256) (s : State) : Res :=
  let ctx := (s.queue queue).context
  s.command queue 0x0103 (fun r => s.mayQueue ctx (if (s.queue (r.p 0x10 1)).live then (s.queue (r.p 0x10 1)).context else ctx))
    (fun _ => [(0x10, 1, true)])
    (fun r => (s.queue (r.p 0x10 1)).live && (!(s.queue (r.p 0x10 1)).stopping))
    fun r s =>
      let t := r.p 0x10 1
      let s := s.modQueue t fun k => { k with stopping := true }
      if t = queue.val then s.finish queue 0
      else
        let s := (s.terminate t 0x000E 0 5).runOn queue
        s.modRun queue fun k => { k with destroysQueue := some t }

/-! ## Counts (R342, R350) -/

/-- COUNTS_READ (R342). -/
def execCountsRead (queue : Fin 256) (s : State) : Res :=
  let ctx := (s.queue queue).context
  s.command queue 0x0104 (fun r => ctx = 0 || ctx = r.p 0x10 1) (fun r => [(0x10, 1, decide (r.p 0x10 1 < 32)), (0x18, 8, r.p 0x18 8 % 16 = 0)])
    (fun r => (s.context (r.p 0x10 1)).live) fun r s0 =>
      let c := s0.context (r.p 0x10 1)
      s0.afterRead queue (s0.cpWrite ctx (r.p 0x18 8) (leBytes 8 c.jobsDone.toNat ++ leBytes 8 c.jobsFailed.toNat)) fun _ s => s.finish queue 0

/-- R350: the stored counter of a context. -/
def State.counterOf (s : State) (c : Nat) : BitVec 64 := if c = 0 then s.velvet.ctx0Counter else (s.context c).counter

/-- COUNTER_READ (R350). -/
def execCounterRead (queue : Fin 256) (s : State) : Res :=
  s.command queue 0x0105 (fun _ => true) (fun _ => []) (fun _ => true) fun _ s =>
    s.finish queue (s.counterOf (s.queue queue).context).toNat

/-! ## The KV ledger (R355 to R359) -/

/-- Whether every byte of a range lies in DRAM of a context's partition. -/
def State.rangeOwned (s : State) (ctx pa n : Nat) : Bool :=
  (s.cpReq ctx pa).isSome && (List.range (n / 2 ^ 30 + 2)).all fun i =>
    let a := (pa / 2 ^ 30 + i) * 2 ^ 30
    decide (a ≤ pa) || decide (pa + n ≤ a) || (s.cpReq ctx a).isSome

/-- Whether two ranges of bytes share one. -/
def overlap (a n b m : Nat) : Bool := decide (a < b + m) && decide (b < a + n)

/-- R356: bytes of a sequence's entry. -/
def kvEntryBytes (maxBlocks : Nat) : Nat := 64 * ((16 + 4 * maxBlocks + 63) / 64)

/-- R355: the ranges of a pool: blocks, table, bitmap. -/
def Run.kvRanges (r : Run) : List (Nat × Nat × Nat) :=
  [(0x20, r.p 0x20 8, r.p 0x18 4 * 2 ^ r.p 0x11 1), (0x28, r.p 0x28 8, r.p 0x14 4 * kvEntryBytes (r.p 0x12 2)), (0x30, r.p 0x30 8, (r.p 0x18 4 + 7) / 8)]

/-- R355: whether the range whose base stands at an offset is in the partition and shares no byte with a later one. -/
def State.kvRangeOk (s : State) (ctx : Nat) (r : Run) (off : Nat) : Bool :=
  r.kvRanges.all fun (o, a, n) => o ≠ off || (s.rangeOwned ctx a n && r.kvRanges.all fun (o2, b, m) => o2 ≤ o || !overlap a n b m)

/-- R355: whether a KV command of a context may name a pool; one that does not exist is for the check of its state. -/
def State.mayPool (s : State) (ctx p : Nat) : Bool := ctx ≠ 0 && (match kfind s.pools p with
  | some k => k.owner = ctx
  | none => true)

/-- R330: writes made one after another; the first that fails ends them. -/
def State.cpWriteEach (s : State) (ctx : Nat) : List (Nat × List Byte) → State × Except CpErr Unit
  | [] => (s, .ok ())
  | (pa, bs) :: ws =>
    match s.cpWrite ctx pa bs with
    | (s, .error e) => (s, .error e)
    | (s, .ok ()) => s.cpWriteEach ctx ws

/-- R330: reads made one after another. -/
def State.cpReadAll (s : State) (ctx : Nat) : List (Nat × Nat) → State × Except CpErr (List (List Byte))
  | [] => (s, .ok [])
  | (pa, n) :: rs =>
    match s.cpRead ctx pa n with
    | (s, .error e) => (s, .error e)
    | (s, .ok bs) =>
      match s.cpReadAll ctx rs with
      | (s, .error e) => (s, .error e)
      | (s, .ok more) => (s, .ok (bs :: more))

/-- R359: whether another queue's KV command on the pool that queue q's command names has started and has not completed. -/
def State.poolBusy (s : State) (q : Nat) : Bool := match s.run q with
  | none => false
  | some r => s.queues.any fun x => x.1 ≠ q && (x.2.run.any fun y =>
      [0x0200, 0x0201, 0x0202].contains y.opcode && y.start.isSome && y.p 0x10 1 = r.p 0x10 1)

/-- KV_POOL_CREATE (R355). -/
def execKvPoolCreate (queue : Fin 256) (s : State) : Res :=
  if s.poolBusy queue then .next s else
  let ctx := (s.queue queue).context
  s.command queue 0x0200 (fun r => s.mayPool ctx (r.p 0x10 1))
    (fun r => [(0x10, 1, decide (r.p 0x10 1 < 64)), (0x11, 1, 12 ≤ r.p 0x11 1 && r.p 0x11 1 ≤ 21), (0x12, 2, 1 ≤ r.p 0x12 2 && r.p 0x12 2 ≤ 4096),
      (0x14, 4, 1 ≤ r.p 0x14 4 && r.p 0x14 4 ≤ 65536), (0x18, 4, 1 ≤ r.p 0x18 4 && r.p 0x18 4 ≤ 2 ^ 24), (0x1C, 4, r.p 0x1C 4 = 0),
      (0x20, 8, r.p 0x20 8 % 2 ^ r.p 0x11 1 = 0 && s.kvRangeOk ctx r 0x20), (0x28, 8, r.p 0x28 8 % 64 = 0 && s.kvRangeOk ctx r 0x28),
      (0x30, 8, r.p 0x30 8 % 64 = 0 && s.kvRangeOk ctx r 0x30), (0x38, 8, r.p 0x38 8 = 0)])
    (fun r => (kfind s.pools (r.p 0x10 1)).isNone) fun r s0 =>
      let k : KvPool := { owner := ctx, first := (s0.context ctx).first.getD 0, blockLog2 := r.p 0x11 1, maxBlocks := r.p 0x12 2
                          maxSeqs := r.p 0x14 4, blocks := r.p 0x18 4, blockBase := r.p 0x20 8, tableBase := r.p 0x28 8, bitmapBase := r.p 0x30 8 }
      let zeros := fun (n : Nat) => List.replicate n (0 : Byte)
      s0.afterRead queue (s0.cpWriteEach ctx [(k.tableBase, zeros (k.maxSeqs * kvEntryBytes k.maxBlocks)), (k.bitmapBase, zeros ((k.blocks + 7) / 8))])
        fun _ s => { s with pools := kset s.pools (r.p 0x10 1) k }.finish queue 0

/-- KV_POOL_DESTROY (R359). -/
def execKvPoolDestroy (queue : Fin 256) (s : State) : Res :=
  if s.poolBusy queue then .next s else
  s.command queue 0x0202 (fun r => s.mayPool (s.queue queue).context (r.p 0x10 1)) (fun r => [(0x10, 1, decide (r.p 0x10 1 < 64))])
    (fun r => (kfind s.pools (r.p 0x10 1)).isSome) fun r s => { s with pools := kdel s.pools (r.p 0x10 1) }.finish queue 0

/-- An operation of a KV_STEP (R356). -/
structure KvOp where
  kind : Nat
  seq : Nat
  blocks : Nat
  reserved : Bool
deriving DecidableEq, Repr

/-- A sequence's entry (R356). -/
structure KvSeq where
  state : Nat
  order : Nat
  blocks : List Nat
deriving DecidableEq, Repr

def bytesAt (bs : List Byte) (off w : Nat) : Nat := leNat ((bs.drop off).take w)

def kvOp (bs : List Byte) : KvOp :=
  { kind := bytesAt bs 0 1, seq := bytesAt bs 4 4, blocks := bytesAt bs 8 4, reserved := bytesAt bs 2 2 = 0 && bytesAt bs 12 4 = 0 }

def kvSeq (maxBlocks : Nat) (bs : List Byte) : KvSeq :=
  { state := bytesAt bs 0 1, order := bytesAt bs 8 8
    blocks := (List.range (Nat.min (bytesAt bs 4 4) maxBlocks)).map fun i => bytesAt bs (16 + 4 * i) 4 }

/-- The entry's bytes: unused slots are zero, and PARK_ORDER unless the sequence is PARKED. -/
def KvSeq.bytes (x : KvSeq) (maxBlocks : Nat) : List Byte :=
  leBytes 16 (pack [(0, 1, x.state), (4, 4, x.blocks.length), (8, 8, if x.state = 2 then x.order else 0)]) ++
  (List.range maxBlocks).flatMap fun i => leBytes 4 ((x.blocks[i]?).getD 0)

/-- R357: whether an operation fails the check, given its sequence's entry before the step. -/
def KvOp.bad (o : KvOp) (k : KvPool) (ops : List KvOp) (x : KvSeq) : Bool :=
  o.kind < 1 || 3 < o.kind || !o.reserved || k.maxSeqs ≤ o.seq || 2 ≤ (ops.filter fun p => p.seq = o.seq).length ||
  (match o.kind with
   | 1 => x.state = 0
   | 2 => x.state ≠ 1 || k.maxBlocks < x.blocks.length + o.blocks
   | _ => (x.state ≠ 0 && x.state ≠ 2) || k.maxBlocks < o.blocks)

/-- A step being applied (R358): entries by sequence, the bitmap, the operations' results, the next PARK_ORDER. -/
structure KvWork where
  seqs : KMap KvSeq
  bitmap : Nat
  results : KMap Nat := []
  noSpace : Bool := false
  nextPark : BitVec 64
deriving DecidableEq, Repr

/-- The free blocks of a bitmap, ascending. -/
def freeBlocks (n bitmap : Nat) : List Nat := (List.range n).filter fun b => !bitmap.testBit b

def setBlocks (bitmap : Nat) (bs : List Nat) : Nat := bs.foldl (fun m b => m ||| 2 ^ b) bitmap
def clearBlocks (bitmap : Nat) (bs : List Nat) : Nat := bs.foldl (fun m b => if m.testBit b then m - 2 ^ b else m) bitmap

/-- LEAVE. -/
def KvWork.leave (w : KvWork) (seq : Nat) : KvWork :=
  { w with bitmap := clearBlocks w.bitmap (kget ⟨0, 0, []⟩ w.seqs seq).blocks, seqs := kset w.seqs seq ⟨0, 0, []⟩ }

/-- The lowest n free blocks appended to a sequence, which then runs; none where they do not fit. -/
def KvWork.take (w : KvWork) (total seq n : Nat) : Option KvWork :=
  let free := freeBlocks total w.bitmap
  if free.length < n then none else
  let x := kget ⟨0, 0, []⟩ w.seqs seq
  some { w with bitmap := setBlocks w.bitmap (free.take n), seqs := kset w.seqs seq ⟨1, 0, x.blocks ++ free.take n⟩ }

/-- The operation of index i has found no space. -/
def KvWork.full (w : KvWork) (i : Nat) : KvWork := { w with results := kset w.results i 1, noSpace := true }

/-- GROW. -/
def KvWork.grow (w : KvWork) (total i : Nat) (o : KvOp) : KvWork := (w.take total o.seq o.blocks).getD (w.full i)

/-- JOIN: all or nothing, and not tried once an operation has found no space. A sequence newly parked takes the next
PARK_ORDER. -/
def KvWork.join (w : KvWork) (total i : Nat) (o : KvOp) : KvWork :=
  match (if w.noSpace then none else w.take total o.seq o.blocks) with
  | some w => w
  | none =>
    let x := kget ⟨0, 0, []⟩ w.seqs o.seq
    if x.state = 2 then w.full i
    else { w.full i with seqs := kset w.seqs o.seq ⟨2, w.nextPark.toNat, []⟩, nextPark := w.nextPark + 1 }

/-- Insertion by ascending key. -/
def insertBy (k : Nat) (x : Nat × KvOp) : List (Nat × Nat × KvOp) → List (Nat × Nat × KvOp)
  | [] => [(k, x)]
  | y :: l => if k < y.1 then (k, x) :: y :: l else y :: insertBy k x l

/-- R358: the four phases of a valid step. -/
def KvWork.step (w : KvWork) (total : Nat) (ops : List (Nat × KvOp)) : KvWork :=
  let before := w.seqs
  let parked := fun (o : KvOp) => (kget ⟨0, 0, []⟩ before o.seq).state = 2
  let w := (ops.filter fun x => x.2.kind = 1).foldl (fun w x => w.leave x.2.seq) w
  let w := (ops.filter fun x => x.2.kind = 2).foldl (fun w x => w.grow total x.1 x.2) w
  let waiting := (ops.filter fun x => x.2.kind = 3 && parked x.2).foldl (fun l x => insertBy (kget ⟨0, 0, []⟩ before x.2.seq).order x l) []
  let w := waiting.foldl (fun w x => w.join total x.2.1 x.2.2) w
  (ops.filter fun x => x.2.kind = 3 && !parked x.2).foldl (fun w x => w.join total x.1 x.2) w

/-- KV_STEP (R356 to R359). -/
def execKvStep (queue : Fin 256) (s : State) : Res :=
  if s.poolBusy queue then .next s else
  let ctx := (s.queue queue).context
  s.command queue 0x0201 (fun r => s.mayPool ctx (r.p 0x10 1))
    (fun r => [(0x10, 1, decide (r.p 0x10 1 < 64)), (0x14, 4, 1 ≤ r.p 0x14 4 && r.p 0x14 4 ≤ 65536), (0x18, 8, r.p 0x18 8 % 16 = 0)])
    (fun r => (kfind s.pools (r.p 0x10 1)).isSome) fun r s0 =>
      let k : KvPool := kget {} s0.pools (r.p 0x10 1)
      let base := r.p 0x18 8
      let n := r.p 0x14 4
      let e := kvEntryBytes k.maxBlocks
      s0.afterRead queue (s0.cpRead ctx base (16 * n)) fun bs s =>
        let ops := (List.range n).map fun i => kvOp (bs.drop (16 * i))
        let named := (ops.filter fun o => o.seq < k.maxSeqs).map (·.seq)
        s0.afterRead queue (s.cpReadAll ctx ((k.bitmapBase, (k.blocks + 7) / 8) :: named.map fun q => (k.tableBase + q * e, 16 + 4 * k.maxBlocks))) fun got s =>
          let seqs : KMap KvSeq := (named.zip (got.drop 1)).foldl (fun m x => kset m x.1 (kvSeq k.maxBlocks x.2)) []
          match (List.range n).find? fun i => ((ops[i]?).map fun o => o.bad k ops (kget ⟨0, 0, []⟩ seqs o.seq)).getD false with
          | some i => s0.afterRead queue (s.cpWrite ctx (base + 16 * i + 1) [2]) fun _ s => s.reject queue 0x0004 i
          | none =>
            let w : KvWork := { seqs := seqs, bitmap := leNat (got.headD []), nextPark := k.nextPark }
            let w := w.step k.blocks ((List.range n).zip ops)
            let writes := (w.seqs.map fun x => (k.tableBase + x.1 * e, x.2.bytes k.maxBlocks)) ++ [(k.bitmapBase, leBytes ((k.blocks + 7) / 8) w.bitmap)] ++
              (List.range n).map fun i => (base + 16 * i + 1, leBytes 1 (kget 0 w.results i))
            s0.afterRead queue (s.cpWriteEach ctx writes) fun _ s =>
              let s := { s with pools := kmod {} s.pools (r.p 0x10 1) fun p => { p with nextPark := w.nextPark } }
              let free := (freeBlocks k.blocks w.bitmap).length
              let s := s.modRun queue fun r => { r with result := BitVec.ofNat 64 free }
              if w.noSpace then s.reject queue 0x0010 w.results.length else s.finish queue free

end Sys2Proof.Machine
end

