-- ==== Sys2Proof/Machine/Host.lean ====
section
/-! DEFINITION. The PCI Express function (chapter 10): the data window, the doorbells of BAR4, the records in host memory, the
loss of the link, the reset of the host function, and protocol violations. -/

namespace Sys2Proof.Machine

/-- R308: POSTING. -/
def HostFn.posting (h : HostFn) : Bool := h.linkUp && h.bme && h.mse && !h.d3hot

/-- Whether memory requests of the host reach the function (R323, R325). -/
def HostFn.reachable (h : HostFn) : Bool := h.linkUp && !h.inReset && h.mse && !h.d3hot

/-! ## Protocol violations (R326) -/

/-- R326: the bit of the AER uncorrectable error status that a row of Table 10.9 sets (PRESUMED, the base specification's places,
log 85): Completer Abort, Poisoned TLP, Unsupported Request, Unexpected Completion, Malformed TLP. -/
def aerBit : Nat → BitVec 32
  | 3 => 2 ^ 12
  | 4 => 2 ^ 12
  | 6 => 0
  | 8 => 2 ^ 20
  | 9 => 2 ^ 16
  | 10 => 2 ^ 18
  | _ => 2 ^ 15

/-- R326: a row of Table 10.9: reported through AER, counted where a write is discarded or a Completer Abort is sent, and logged once a second. -/
def State.violate (s : State) (row : Nat) (counted : Bool) (header : Nat) : State :=
  let s := s.modHost fun h => { h with aer := h.aer ||| aerBit row, violations := if counted then h.violations + 1 else h.violations }
  let fresh := match kfind s.host.violLogged row with
    | none => true
    | some t => s.elapsed t secTicks
  if !fresh then s else
  (s.modHost fun h => { h with violLogged := kset h.violLogged row s.ticks }).recordAnyUnit 12
    { typ := 0x25, cls := 1, source := 12, unit := 0, payload := pack [(0, 1, row)] + header % 2 ^ 256 * 256 ^ 8 }

/-- As violate, for a request whose header the command does not give: a free value (log 26). -/
def State.violateRow (s : State) (row : Nat) (counted : Bool) : State :=
  let (h, s) := s.drawMany 4
  s.violate row counted h

/-- R326: a register access of the tray host that is refused: reported through AER as a Completer Abort, and counted. It is no row of
Table 10.9. -/
def State.hostRefused (s : State) : State :=
  s.modHost fun h => { h with aer := h.aer ||| 2 ^ 15, violations := h.violations + 1 }

/-- A completion returned to the host. -/
def State.completeHost (s : State) (c : List Completion) : State := s.modHost fun h => { h with completions := h.completions ++ c }

/-- R305: a word of the function's configuration header: Device ID and Vendor ID, Class Code and Revision ID, Subsystem Vendor ID;
what else the header holds is the base specification's. -/
def State.pcieIdentity (s : State) (off : Nat) : Option (BitVec 32) :=
  if off = 0x00 then some (0x0F02#16 ++ Config.pciVendor)
  else if off = 0x08 then some (0x120000#24 ++ BitVec.ofNat 8 (fld s.boot.caps 0 8))
  else if off = 0x2C then some (Config.pciVendor.zeroExtend 32)
  else none

/-! ## The data window (R309 to R313) -/

/-- R309, R384, R403: the requester and the address that a window access of n bytes at an offset has; none: a decode error. -/
def State.windowReq (s : State) (off n : Nat) : Option (Req × Nat) :=
  let w := s.host.win
  let pa := fld w 32 20 * 2 ^ 32 + off
  let part := fld w 1 4
  if !bit w 0 || !s.ready || s.power.coolStop then none
  else if reserveBase ≤ pa && pa + n ≤ reserveBase + 0x10000 then some ({ tile := 0, part := 0, cls := 5, hub := true }, pa)
  else if (s.partition part).dies = 0 then none
  else some ({ tile := part, part := part, cls := 5 }, pa)

/-- R312: completions of at most 512 bytes that end on 128-byte boundaries. -/
def splitRead (pa : Nat) (bs : Bulk) : Nat → List Completion
  | 0 => []
  | k + 1 =>
    if bs.isEmpty then [] else
    let n := 512 - pa % 128
    .data (Bulk.data (bs.take n)) (Bulk.poisoned (bs.take n)) :: splitRead (pa + n) (bs.drop n) k

/-- A window access that completes with a decode error: Completer Abort for a read or AtomicOp, and a write discarded. -/
def State.windowError (s : State) (write : Bool) : State :=
  let s := s.violateRow 2 true
  if write then s else s.completeHost [.abort]

/-- The requester of a window request: of a partition, or of the hub for the management reserve. -/
def windowOwner (part : Option Nat) : Req := match part with
  | none => { tile := 0, part := 0, cls := 5, hub := true }
  | some p => { tile := p, part := p, cls := 5 }

/-- A completion for a request of an EPOCH: one whose link has gone down since is discarded (R322). -/
def State.windowAnswer (s : State) (epoch : BitVec 16) (c : List Completion) : State :=
  if s.host.epoch = epoch then s.completeHost c else s

/-- R314: whether BAR4 reaches the doorbell of a queue. -/
def State.hostBound (s : State) (q : Nat) : Bool :=
  let k := s.queue q
  k.live && (s.context k.context).live && !(s.context k.context).hostCores

/-- R313: an AtomicOp on the management reserve. -/
def State.reserveAtom (s : State) (pa aop atype x y : Nat) : State × Nat × Bool :=
  let k := reserveKey (pa - reserveBase)
  let n := atypeBytes atype
  let s := s.settleReserve (pa - reserveBase) n
  let old := cellsRead s.mem k n
  ({ s with mem := cellsWrite s.mem k (leBytes n (atomNew aop atype old x y)) }, old, s.poison.contains (k / 32))

/-- R311 to R314: a request performed. It may have to wait for its memory. -/
def State.windowPerform (s : State) : WindowOp → Attempt State
  | .write part pa bytes ep =>
    match s.writeBulk (windowOwner part) pa (bytes.map fun b => (b, ep)) with
    | (u, .error .busy) => .error u
    | (s, .error (.failed _)) => .ok (s.windowError true)
    | (s, .ok ()) => .ok (if ep then s.violateRow 3 false else s)
  | .read part pa len epoch =>
    match s.readBulk (windowOwner part) pa len with
    | (u, .error .busy) => .error u
    | (s, .error (.failed _)) => .ok ((s.violateRow 2 true).windowAnswer epoch [.abort])
    | (s, .ok bs) => .ok (s.windowAnswer epoch (splitRead pa bs 9))
  | .atomic part pa aop atype x y epoch =>
    if part.isNone then
      let (s, old, bad) := s.reserveAtom pa aop atype x y
      .ok (s.windowAnswer epoch [.data (leBytes (atypeBytes atype) old) bad])
    else
      match s.ncAtom (windowOwner part) pa aop atype x y with
      | (u, .error .busy) => .error u
      | (s, .error _) => .ok ((s.violateRow 2 true).windowAnswer epoch [.abort])
      | (s, .ok (old, bad)) => .ok (s.windowAnswer epoch [.data (leBytes (atypeBytes atype) old) bad])
  | .bell q v => .ok (if s.ready && s.hostBound q then s.ringDoorbell q v else s.violateRow 5 true)

/-- Whether a request is posted: those after it wait for it (R63). -/
def windowPosted : WindowOp → Bool
  | .write _ _ _ _ => true
  | .bell _ _ => true
  | .read _ _ _ _ => false
  | .atomic _ _ _ _ _ _ _ => false

/-- The requests that wait, tried in order; behind a posted one that must still wait, every later one waits. -/
def State.serveHeld (s : State) : List WindowOp → State
  | [] => s
  | x :: xs =>
    match s.windowPerform x with
    | .ok s => s.serveHeld xs
    | .error u =>
      let s := (s.woken u).modHost fun h => { h with held := h.held ++ [x] }
      if windowPosted x then s.modHost fun h => { h with held := h.held ++ xs } else s.serveHeld xs

/-- R63: the requests that wait are served, in the order they arrived. -/
def State.serveWindow (s : State) : State := (s.modHost fun h => { h with held := [] }).serveHeld s.host.held

/-- A request that arrives: it is performed once those before it allow it. -/
def State.windowTake (s : State) (x : WindowOp) : State := (s.modHost fun h => { h with held := h.held ++ [x] }).serveWindow

/-- The partition that a window requester acts for, none for the management reserve. -/
def Req.window (r : Req) : Option Nat := if r.hub then none else some r.part

/-- BAR2_WRITE (R311, Table 10.9): decoded as it arrives (R310), and performed in its turn. -/
def execBar2Write (w : HostWrite) (s : State) : Res :=
  let n := w.bytes.length
  if !s.host.reachable || n = 0 || 2 ^ 32 < w.offset + n then .next s
  else if 512 < n || 4096 < w.offset % 4096 + n then .next (s.violateRow 10 true)
  else match s.windowReq w.offset n with
    | none => .next (s.windowError true)
    | some (r, pa) => .next (s.windowTake (.write r.window pa w.bytes w.ep))

/-- BAR2_READ (R312): no read is dropped; one beyond the 256 that the module holds stands for one whose non-posted credit is withheld. -/
def execBar2Read (off : Nat) (len : Nat) (s : State) : Res :=
  if !s.host.reachable || len = 0 || 2 ^ 32 < off + len then .next s
  else if 4096 < off % 4096 + len then .next (s.violateRow 10 false)
  else match s.windowReq off len with
    | none => .next (s.windowError false)
    | some (r, pa) => .next (s.windowTake (.read r.window pa len s.host.epoch))

/-- BAR2_ATOMICOP (R313): FetchAdd, Swap or CAS. -/
def execBar2Atomicop (off : Nat) (op : Fin 3) (size : Nat) (operand : BitVec 128) (compare : BitVec 128) (s : State) : Res :=
  if !s.host.reachable || 2 ^ 32 < off + size then .next s
  else if (size ≠ 4 && size ≠ 8) || off % size ≠ 0 then .next ((s.violateRow 7 true).completeHost [.abort])
  else match s.windowReq off size with
    | none => .next (s.windowError false)
    | some (r, pa) =>
      let aop := if op = 0 then 0 else if op = 1 then 6 else 7
      let atype := if size = 4 then 0 else 2
      let x := fld operand 0 (8 * size)
      let y := fld compare 0 (8 * size)
      .next (s.windowTake (if op = 2 then .atomic r.window pa aop atype y x s.host.epoch else .atomic r.window pa aop atype x 0 s.host.epoch))

/-! ## Doorbells (R314) -/

/-- BAR4_DOORBELL (R314, Table 10.9): performed after every earlier window write (R63). -/
def execBar4Doorbell (w : HostWrite) (s : State) : Res :=
  if !s.host.reachable || 0x100000 < w.offset + w.bytes.length || w.bytes.isEmpty then .next s
  else if w.ep then .next (s.violateRow 4 true)
  else if w.bytes.length ≠ 8 || w.offset % 4096 ≠ 0 then .next (s.violateRow 5 true)
  else .next (s.windowTake (.bell (w.offset / 4096) (BitVec.ofNat 64 (leNat w.bytes))))

/-- R65, Table 10.9: what a read of BAR4 returns. -/
def State.readDoorbells (s : State) (off len : Nat) : List Byte :=
  (List.range len).map fun i =>
    let o := off + i
    if o % 4096 < 8 then BitVec.ofNat 8 (fld (s.queue (o / 4096)).lastAccepted (8 * (o % 4096)) 8) else 0

/-! ## Rings (R315 to R320) -/

/-- R315: a ring's CTL written, with LOG2 in range: ENABLE at 0 stops generation and discards the backlog. -/
def State.setRingCtl (s : State) (r v : Nat) : State :=
  let k := s.ring r
  let on := v % 2 = 1
  let s := s.modRing r fun k => { k with enable := on, log2 := BitVec.ofNat 5 (fldN v 1 5), intEn := decide (v / 64 % 2 = 1)
                                         modUs := BitVec.ofNat 8 (v / 128) }
  if k.enable && !on then s.modRing r fun k => { k with backlog := [], owes := false, lost := 0 }
  else if !k.enable && on then s.modRing r fun k => { k with delivered := none, firstSeq := k.write }
  else s

/-- R316: whether a ring has room for one more record. -/
def HostRing.hasRoom (k : HostRing) : Bool := decide ((k.write - k.read).toNat < 2 ^ k.log2.toNat)

/-- R316, R320: a record posted: it takes the next SEQ and the present EPOCH. -/
def State.postRecord (s : State) (r : Nat) (v : BitVec 256) : State :=
  let k := s.ring r
  let data := BitVec.ofNat 256 (v.toNat + pack [(0, 8, k.write.toNat), (8, 2, s.host.epoch.toNat)])
  let addr := k.base + BitVec.ofNat 64 (k.write.toNat % 2 ^ k.log2.toNat * 32)
  let s := s.modHost fun h => { h with posted := h.posted ++ [.record r k.write addr data] }
  s.modRing r fun k => { k with write := k.write + 1, msiDue := k.msiDue || k.intEn }

/-- Whether the next record of a ring's backlog can be posted. -/
def State.canPost (s : State) (r : Nat) : Bool :=
  let k := s.ring r
  s.host.posting && k.enable && !k.owes && !k.backlog.isEmpty && k.hasRoom

/-- RECORD_POST (R316): the outbox then has room for the RING_LOSS message that it owes (R319). -/
def execRecordPost (ring : Fin 33) (s : State) : Res :=
  if !s.canPost ring then .next s else
  match (s.ring ring).backlog with
  | [] => .next s
  | v :: vs => .next ((s.postRecord ring v).modRing ring fun k => { k with backlog := vs }).ringLoss

/-- The ring that an MSI-X vector serves (R320). -/
def vectorRing (vec : Nat) : Nat := if vec = 0 then 32 else vec - 1

/-- R320: the moderation interval of a ring has ended. -/
def State.modulated (s : State) (k : HostRing) : Bool := match k.msiAt with
  | none => true
  | some t => s.elapsed t (k.modUs.toNat * usTicks)

/-- A word of a vector's entry of the MSI-X table: 0 and 1 its address, 2 its data, 3 its control with the mask in bit 0 (PRESUMED, the
base specification's entry, log 85). -/
def HostFn.msixWord (h : HostFn) (vec k : Nat) : BitVec 32 := kget 0 h.msixTable (4 * vec + k)

/-- R320: a message that is due now and not yet sent: its pending bit. One that its moderation interval holds back is not. -/
def State.msiPending (s : State) (vec : Nat) : Bool := let k := s.ring (vectorRing vec); k.msiDue && s.modulated k

/-- R320, R322: whether a LINK_EPOCH or a record of some backlog may be posted now. -/
def State.postsFirst (s : State) : Bool :=
  (List.range 33).any fun r => s.canPost r || ((s.ring r).owes && (s.ring r).enable && (s.ring r).hasRoom)

/-- MSIX_MESSAGE (R320): a message that is due is sent, after the LINK_EPOCH records and the records of the backlogs that may be
posted now: its address and data are its entry's. -/
def execMsixMessage (vec : Fin 33) (s : State) : Res :=
  let h := s.host
  if !s.msiPending vec || !h.posting || bit (h.msixWord vec 3) 0 || s.postsFirst then .next s else
  let s := s.modHost fun x => { x with posted := x.posted ++ [.msix vec (h.msixWord vec 1 ++ h.msixWord vec 0) (h.msixWord vec 2)] }
  .next (s.modRing (vectorRing vec) fun k => { k with msiDue := false, msiAt := some s.ticks })

/-- POSTED_WRITE_DELIVERED (R321). -/
def execPostedWriteDelivered (s : State) : Res :=
  match s.host.posted with
  | [] => .next s
  | p :: ps =>
    let s := s.modHost fun h => { h with posted := ps, delivered := h.delivered ++ [p] }
    match p with
    | .record r seq _ _ => .next (s.modRing r fun k => { k with delivered := some seq })
    | .msix _ _ _ => .next s

/-! ## The link (R308, R322, R323) -/

/-- R322: the data link layer goes down. -/
def State.dlDown (s : State) : State :=
  if !s.host.linkUp then s else
  let rings := s.host.rings.map fun (r, k) => (r, if k.enable then { k with owes := true } else k)
  s.modHost fun h => { h with linkUp := false, epoch := h.epoch + 1, posted := [], rings := rings, downAt := some s.ticks }

/-- DL_DOWN (R322). -/
def execDlDown (s : State) : Res := .next s.dlDown

/-- DL_UP (R308): the link trains only while the controller is not in reset (R325, R476). -/
def execDlUp (s : State) : Res :=
  if s.host.linkUp || s.host.inReset || !s.velvet.perstN then .next s
  else .next (s.modHost fun h => { h with linkUp := true, downAt := none, upAt := s.hub.time })

/-- R322: the LINK_EPOCH record of a ring that owes one, where it has room; its TIME is that of the link-up (Table 10.7). -/
def State.postEpoch (s : State) (r : Nat) : State :=
  let k := s.ring r
  if !k.owes || !k.enable || !k.hasRoom then s else
  let last := k.delivered.getD (k.firstSeq - 1)
  let s := s.postRecord r (hostRecord 0x02 0 0 0 last.toNat s.host.upAt.toNat)
  s.modRing r fun x => { x with owes := false, epochSeq := k.write }

/-- LINK_EPOCH (R322): the outbox first, then the completion rings in ascending order. -/
def execLinkEpoch (s : State) : Res :=
  if !s.host.posting then .next s else .next ((32 :: List.range 32).foldl (fun s r => s.postEpoch r) s)

/-- PCIE_CONFIG_WRITE (R323). -/
def execPcieConfigWrite (bme : Bool) (mse : Bool) (d3hot : Bool) (s : State) : Res :=
  if !s.host.linkUp || s.host.inReset then .next s
  else .next (s.modHost fun h => { h with bme := bme, mse := mse, d3hot := d3hot })

/-! ## Reset of the host function (R324, R325) -/

/-- R332: the contexts that a host-function reset releases. -/
def State.hostContexts (s : State) : List Nat := (s.contexts.filter fun x => x.2.live && !x.2.hostCores).map (·.1)

/-- R332, R414: context 0 and its queue 0, as the booted image has them. Its key and counter are the security engine's. -/
def State.createContext0 (s : State) : State :=
  let q := s.boot.config.bootQueue
  let at_ := fun (i : Nat) => (q[i]?).getD 0
  let i : BitVec 64 := BitVec.ofNat 64 (cellsRead s.mem (reserveKey (at_ 3 - reserveBase)) 8)
  let k : Queue := { live := true, context := 0, ringLog2 := at_ 0, ringBase := at_ 1, statusBase := at_ 2, readIndexAddr := at_ 3
                     limitMs := at_ 4, read := i, doorbell := i, lastAccepted := (s.queue 0).lastAccepted }
  let c := s.context 0
  let n : Context := { live := true, priv := 0xFF, key := c.key, counter := c.counter, fails := c.fails, lockedAt := c.lockedAt }
  { s with queues := kset s.queues 0 k, contexts := kset s.contexts 0 n }

/-- R325 steps 1 to 3: the controller is held in reset, and the commands of the host's contexts are terminated. The time for which the
link has stayed down runs on (R324). -/
def State.hostReset (s : State) (cause : Nat) : State :=
  if s.host.resetting then s else
  let s := s.dlDown
  let cs := s.hostContexts
  let s := s.queues.foldl (fun s x =>
    if x.2.live && cs.contains x.2.context then (s.modQueue x.1 fun k => { k with error := true }).terminate x.1 0x000F 0 5 else s) s
  s.modHost fun h => { h with bme := false, mse := false, d3hot := false, inReset := true, resetting := true
                              resetCause := BitVec.ofNat 4 cause, win := 0, rings := [], msixTable := [], posted := [], aer := 0 }

/-- HOST_LINK_DOWN_TIMEOUT (R324): once for each time the link goes down; while the function is being reset the reset waits. -/
def execHostLinkDownTimeout (s : State) : Res :=
  match s.host.downAt with
  | none => .next s
  | some t =>
    if s.host.resetting || !s.elapsed t (500 * msTicks) then .next s
    else .next ((s.hostReset 1).modHost fun h => { h with downAt := none })

/-- FUNCTION_LEVEL_RESET (R324). -/
def execFunctionLevelReset (s : State) : Res := if s.host.linkUp then .next (s.hostReset 2) else .next s

/-- HOT_RESET (R324). -/
def execHotReset (s : State) : Res := if s.host.linkUp then .next (s.hostReset 3) else .next s

/-- HOST_RESET_COMPLETE (R325 steps 4 to 6, R332): once every terminated command has ended and its status is written, the contexts
go, context 0 is made again, the record is written, and the controller leaves reset. -/
def execHostResetComplete (s : State) : Res :=
  let cs := s.hostContexts
  if !s.host.resetting || s.queues.any (fun x => x.2.live && cs.contains x.2.context && x.2.run.isSome) then .next s else
  let zero := s.context 0
  let s := cs.foldl (fun s c => s.eraseContext c) s
  let s := if zero.live then { s with contexts := kset s.contexts 0 zero }.createContext0 else s
  let s := s.record 12 { typ := 0x24, cls := 3, source := 12, unit := unitOf 0x09 0, payload := pack [(0, 1, s.host.resetCause.toNat)] }
  .next (s.modHost fun h => { h with resetting := false, inReset := !s.velvet.perstN, lastReset := h.resetCause })

end Sys2Proof.Machine
end

