-- ==== Sys2Proof/Machine/MemCtl.lean ====
section
/-! DEFINITION. The last-level memory's conversions and controls (R203 to R209), the DRAM devices' refresh, scrub, repair and
page retirement (R216 to R224), page walks (R234) and translation invalidations (R235, R236). -/

namespace Sys2Proof.Machine

/-! ## Conversions (R203, R204, R208) -/

/-- The next pending conversion starts: the lowest way whose use differs from the target. -/
def State.nextConversion (s : State) (t j : Nat) : State :=
  let sl := (s.tile t).slice j
  if sl.conv.isSome then s else
  match (List.range 16).find? fun w => sl.scratch.getLsbD w ≠ sl.target.getLsbD w with
  | none => s
  | some w => s.modSlice t j fun sl => { sl with
      conv := some { way := w, toScratch := sl.target.getLsbD w, start := s.arithCycles t, at_ := s.floorCycles } }

/-- R208: SCRATCH_WAYS written: it replaces the target of every conversion still pending. -/
def State.setScratchWays (s : State) (t j : Nat) (v : BitVec 16) : State :=
  (s.modSlice t j fun sl => { sl with target := v }).nextConversion t j

/-- n bytes of memory from a key read zero, and are not poisoned. -/
def State.zeroRange (s : State) (k n : Nat) : State :=
  { s with mem := s.mem.filter fun c => !(decide (k ≤ c.1) && decide (c.1 < k + n))
           poison := s.poison.filter fun p => !(decide (k / 32 ≤ p) && decide (p < (k + n) / 32))
           dramErrs := s.dramErrs.filter fun x => !(decide (k / 32 ≤ x.1) && decide (x.1 < (k + n) / 32)) }

/-- The scratch bytes of a way read zero. -/
def State.zeroWay (s : State) (t j w : Nat) : State :=
  (s.dropUpsets fun u => decide (u.mem = .slice) && decide (u.unit = t * 128 + j) && decide (u.word / 16 % 16 = w)).zeroRange
    (memKey t (scratchTma j w 0)) (2 ^ 17)

/-- The lines of a cache way: (set, line). -/
def Slice.wayLines (sl : Slice) (w : Nat) : List (Nat × LlmLine) :=
  (sl.lines.filter fun x => x.1 % 16 = w).map fun x => (x.1 / 16, x.2)

/-- A conversion ends: the way has its new use, and the next one starts. -/
def State.endConversion (s : State) (t j w : Nat) (toScratch : Bool) : State :=
  (s.modSlice t j fun sl => { sl with scratch := setBit sl.scratch w toScratch, conv := none, writer := kdel sl.writer w }).nextConversion t j

/-- Held requests and requests to a way in conversion are presented again. -/
def State.afterConversion (s : State) (t : Nat) : State := s.retryHeld t

/-- WAY_TO_SCRATCH (R203): 1,024 cycles of examination and 512 of zeroing have passed; the dirty lines have gone to DRAM, which
waits while their device is critical (R218). -/
def execWayToScratch (t : Fin 12) (j : Fin 128) (s : State) : Res :=
  let sl := (s.tile t).slice j
  match sl.conv with
  | none => .next s
  | some c =>
    if !c.toScratch || s.arithCycles t < c.start + 1536 then .next s else
    let ls := sl.wayLines c.way
    if ls.any fun x => x.2.dirty && s.deviceHeld t (llmTma j x.1 x.2.tag) then .next s else
    let s := ls.foldl (fun s x => s.drainWay t j x.1 c.way) s
    .next (((s.zeroWay t j c.way).endConversion t j c.way true).afterConversion t)

/-- The directory lines of a scratch way that the tile's directory shows as cached. -/
def Tile.scratchLines (k : Tile) (j w : Nat) : List (Nat × DirEntry) :=
  let lo := scratchTma j w 0 / 128
  (k.dir.filter fun x => decide (lo ≤ x.2.line) && decide (x.2.line < lo + 1024)).map fun x => (x.2.line, x.2)

/-- SCRATCH_TO_CACHE (R204): the way's lines have been examined and every invalidation is answered; data returned is discarded.
A cache that stays silent for 1 ms has its die fenced (R454). -/
def execScratchToCache (t : Fin 12) (j : Fin 128) (s : State) : Res :=
  let k := s.tile t
  let sl := k.slice j
  match sl.conv with
  | none => .next s
  | some c =>
    if c.toScratch || s.arithCycles t < c.start + 1024 then .next s else
    let ls := k.scratchLines j c.way
    let named := fun (e : DirEntry) => (e.holder.toList ++ e.sharers).eraseDups
    let live := fun (n : Nat) => !(s.tile (cacheTile n)).fenced
    let sleepy := (ls.flatMap fun x => named x.2).filter fun n => live n && s.cacheAsleep n && !s.cacheSilent n
    let silent := ls.findSome? fun x => ((named x.2).find? fun n => live n && (s.cacheSilent n || !s.connected t (cacheTile n))).map fun n => (x.1, n)
    match silent with
    | some (l, n) =>
      let d := cacheTile n
      if !s.floorLate c.at_ || (s.tile d).fence.isSome then .next s else
      let s := s.record t { typ := 0x0D, cls := 3, source := t, unit := unitOf 0x0B d, payload := pack [(0, 8, (s.paOf t (l * 128)).getD 0), (8, 2, n)] }
      .next (s.startFence d 1)
    | none =>
      if !sleepy.isEmpty then .next (sleepy.foldl (fun s n => s.wakeCache n) s) else
      if ls.any fun x => k.inTxn x.1 then .next s else
      let s := ls.foldl (fun s x =>
        let s := s.invalidate ((s.paOf t (x.1 * 128)).getD 0 / 128) (named x.2)
        s.dirSetEntry t x.1 none) s
      .next (((s.zeroWay t j c.way).endConversion t j c.way false).afterConversion t)

/-! ## LLM_ENABLE and the stream detector (R206, R209) -/

/-- R206, R218: the dirty lines of a tile's slices go to DRAM and its clean lines go; a line of a device that takes no access
stays. -/
def State.drainSlices (s : State) (t : Nat) : State :=
  let s := ((s.tile t).slices).foldl (fun s (j, sl) =>
    sl.lines.foldl (fun s (key, l) =>
      if l.dirty && s.deviceHeld t (llmTma j (key / 16) l.tag) then s else s.drainWay t j (key / 16) (key % 16)) s) s
  s.modTile t fun k => { k with draining := k.slices.any fun x => !x.2.lines.isEmpty }

/-- R206: LLM_ENABLE written. Setting it makes every cache way start empty: also of a dirty line that still waits for a device which takes
no access, of which the spec says nothing (DESIGN CHOICE, log 99). -/
def State.setLlmEnable (s : State) (t : Nat) (v : Bool) : State :=
  let k := s.tile t
  if v = k.llmEnable then s
  else if v then
    let s := s.drainSlices t
    s.modTile t fun k => { k with llmEnable := true, draining := false, slices := k.slices.map fun (j, sl) => (j, { sl with lines := [] }) }
  else (s.modTile t fun k => { k with llmEnable := false }).drainSlices t

/-- R209: FLR_STREAM_CTL written, with values in range. Writing 0 to STREAM_ENABLE clears every entry. -/
def State.setStreamCtl (s : State) (t : Nat) (v : Nat) : State :=
  let en := fldN v 0 1 = 1
  s.modTile t fun k => { k with streamEnable := en, streamEntries := if en then k.streamEntries else []
                                threshold := BitVec.ofNat 10 (fldN v 1 10), gapExp := BitVec.ofNat 5 (fldN v 11 5) }

/-! ## DRAM devices (R216 to R221) -/

/-- The device numbers of a tile. -/
def devNum : Device → Nat
  | .hbm => 0
  | .lp m => 1 + m

/-- R217: the entry temperature of a stage, in °C. -/
def stageEntry : Nat → Nat
  | 0 => 0 | 1 => 85 | 2 => 95 | 3 => 100 | 4 => 103 | _ => 105

/-- R217: the stage after a sample: a stage is entered at its temperature and left 3 °C below it. -/
def stageAfter (cur temp : Nat) : Nat :=
  ((List.range 6).filter fun k => decide (stageEntry k ≤ temp) || (decide (k ≤ cur) && decide (stageEntry k < temp + 3))).foldl max 0

/-- R218, R220, R362, R385: devices take accesses again: write-backs under way and held requests proceed, on every tile, as an access may
need a copy of another tile. -/
def State.resumeMemory (s : State) : State :=
  (List.range 12).foldl (fun s t => (if (s.tile t).draining then s.drainSlices t else s).retryHeld t) s

/-- R217, R218: a device's sample taken. Held requests and write-backs proceed once it has left the critical stage. -/
def State.dramSample (s : State) (t dev temp : Nat) : State :=
  let old := (kget {} (s.tile t).drams dev).stage.toNat
  let new := stageAfter old temp
  let s := s.modTile t fun k => { k with drams := kmod {} k.drams dev fun x => { x with
    temp := temp, stage := BitVec.ofNat 3 new, criticalAt := if old ≠ 5 && new = 5 then s.ticks else x.criticalAt } }
  if decide (old = 5) && decide (new ≠ 5) then s.resumeMemory else s

/-- REFRESH: a per-bank refresh; a device in self-refresh, as all are in Velvet standby (R362) and in the stop (R384), gets none. -/
def execRefresh (t : Fin 12) (dev : Device) (bank : Nat) (s : State) : Res :=
  let n := devNum dev
  if (kget {} (s.tile t).drams n).stage = 5 || s.power.standby || s.power.coolStop then .next s else
  .next (s.modTile t fun k => { k with drams := kmod {} k.drams n fun x => { x with refreshes := kmod 0 x.refreshes bank fun c => c + 1 } })

/-- Whether a line is dirty in a cache way or in the victim buffer. -/
def State.llmDirty (s : State) (t tma : Nat) : Bool :=
  let (j, set, tag) := homeSlice tma
  let sl := (s.tile t).slice j
  (match sl.find set tag with
   | some (_, l) => l.dirty
   | none => false) || (sl.victim (tma / 128)).isSome

/-- The graver of two reports. -/
def worse : Ecc → Ecc → Ecc
  | .uncorrectable, _ => .uncorrectable
  | _, .uncorrectable => .uncorrectable
  | .corrected, _ => .corrected
  | .clean, e => e

/-- SCRUB (R219, R220, R224): patrol read of a sector: ecc is what its code reports, mirror what that of its mirror copy
does; an error that stands in the sector is met too, and rewriting ends it. A line that is dirty in a cache way is left, and a device that
takes no access is not read. -/
def execScrub (t : Fin 12) (dev : Device) (sector : Nat) (ecc : Ecc) (mirror : Ecc) (s : State) : Res :=
  let n := devNum dev
  let tma := tmaOf n (sector * 32 % (if n = 0 then 2 ^ 37 else 2 ^ 36))
  if s.deviceHeld t tma || s.llmDirty t (tma / 128 * 128) then .next s else
  let ecc := worse ecc (kget .clean s.dramErrs (memKey t tma / 32))
  let rewritten := fun (s : State) (t tma : Nat) => { s with dramErrs := kdel s.dramErrs (memKey t tma / 32) }
  let s := rewritten (s.eccReport t n tma ecc) t tma
  match s.mirrorOf t tma with
  | none =>
    if ecc = .uncorrectable then .next ((s.poisonSector t tma).dramUncorrectable t n tma) else .next s
  | some (t', tma') =>
    let mirror := worse mirror (kget .clean s.dramErrs (memKey t' tma' / 32))
    let s := rewritten (s.eccReport t' n tma' mirror) t' tma'
    match s.sectorBad t tma ecc, s.sectorBad t' tma' mirror with
    | false, false => .next (s.compareCopies t n tma t' tma')
    | true, false => .next (s.copySector t' tma' t tma)
    | false, true => .next (s.copySector t tma t' tma')
    | true, true =>
      let s := (s.poisonSector t tma).poisonSector t' tma'
      let s := if ecc = .uncorrectable then s.dramUncorrectable t n tma else s
      .next (if mirror = .uncorrectable then s.dramUncorrectable t' n tma' else s)

/-- R211: the offset of the 64 KiB block in which a row of a bank lies (R465). -/
def rowBlock (dev bank row : Nat) : Nat :=
  if dev = 0 then (row * 4 + bank % 4) * 65536 else (row * 2 ^ 19 + bank % 64 * 2 ^ 13) / 65536 * 65536

/-- R221: the frames of a row's block that hold a line of the row. -/
def rowFrames (dev bank row : Nat) : BitVec 16 :=
  let b := rowBlock dev bank row
  maskOf 16 ((List.range 16).filter fun k => (List.range 32).any fun i => bankRow (tmaOf dev (b + k * 4096 + i * 128)) = (bank, row))

/-- R221, R465: the frames of a row of no use reported: one record, as all of them lie in one 64 KiB block of the device. -/
def State.pageRetire (s : State) (t dev bank row : Nat) : State :=
  let base := tmaOf dev (rowBlock dev bank row)
  match s.setOfTma t base with
  | none => s
  | some (n, _) =>
    let i := (s.tile t).iset n
    s.record t { typ := 0x08, cls := 3, source := t, unit := bankUnit dev bank
                 payload := pack [(0, 1, n), (1, 1, if i.capacity then 2 * i.count else i.count), (2, 2, (rowFrames dev bank row).toNat),
                   (8, 8, (s.paOf t base).getD 0), (16, 1, dev), (18, 2, bank), (20, 4, row)] }

/-- The errors that stand in the sectors of a DRAM row: the tile memory address of the sector, and what its code reports. -/
def State.rowErrs (s : State) (t dev bank row : Nat) : List (Nat × Ecc) :=
  (s.dramErrs.filter fun e => decide (memKey t 0 ≤ e.1 * 32) && decide (e.1 * 32 < memKey (t + 1) 0)).filterMap fun e =>
    let tma := e.1 * 32 - memKey t 0
    if decide (devOf tma = dev) && decide (bankRow tma = (bank, row)) then some (tma, e.2) else none

/-- R220: the row of a repair read and written back: what its code corrects is right again, and what it cannot is poisoned. -/
def State.rewriteRow (s : State) (t dev bank row : Nat) : State :=
  (s.rowErrs t dev bank row).foldl (fun s e => match e.2 with
    | .clean => s
    | .corrected => { s.corrected t (bankUnit dev bank) ((s.paOf t e.1).getD 0) (if dev = 0 then 6 else 7) t with
        dramErrs := kdel s.dramErrs (memKey t e.1 / 32) }
    | .uncorrectable => (s.poisonSector t e.1).dramUncorrectable t dev e.1) s

/-- The spare rows left in a bank (log 20). -/
def State.sparesOf (s : State) (t dev bank : Nat) : Nat :=
  kget (Config.spareRows ((t * 4 + dev) * 256 + bank)) (kget {} (s.tile t).drams dev).spares bank

/-- DRAM_REPAIR (R220, R221): the repair of a candidate row completes, where the device has a spare row for it, the row read, corrected and
written back; the frames of a
row without one, of one that lost data and of a second candidate are retired. Held requests proceed. -/
def execDramRepair (t : Fin 12) (dev : Device) (bank : Fin 256) (row : BitVec 32) (s : State) : Res :=
  let n := devNum dev
  let r := row.toNat
  let key := bank.val * 2 ^ 20 + r
  match (kget {} (s.tile t).drams n).candidates.find? fun c => c.1 = key with
  | none => .next s
  | some (_, retire) =>
    let left := s.sparesOf t n bank
    let s := s.modTile t fun k => { k with drams := kmod {} k.drams n fun x =>
      let cs := x.candidates.filter fun c => c.1 ≠ key
      { x with candidates := cs, corrected := kdel x.corrected key
               heldBanks := if cs.any fun c => c.1 / 2 ^ 20 = bank.val then x.heldBanks else numDel x.heldBanks bank } }
    let s := if left = 0 then s else
      let s := s.rewriteRow t n bank r
      let s := s.modTile t fun k => { k with drams := kmod {} k.drams n fun x => { x with
        spares := kset x.spares bank (left - 1), repaired := x.repaired ++ [key] } }
      let s := s.record t { typ := 0x07, cls := 1, source := t, unit := bankUnit n bank
                            payload := pack [(16, 1, n), (18, 2, bank), (20, 4, r), (24, 1, left - 1)] }
      s.repairEntry 1 ((t * 4 + n) * 2 ^ 28 + key)
    let s := if retire || left = 0 then s.pageRetire t n bank r else s
    .next s.resumeMemory

/-! ## Translation (R234 to R236) -/

/-- PAGE_WALK (R234): the floor translation unit of die d translates an address: a cached translation stays, a walk installs
one, and one that gives a fault installs none. -/
def execPageWalk (d : Fin 12) (context : Fin 32) (atp : BitVec 64) (adHw : Bool) (va : BitVec 64) (acc : Access) (s : State) : Res :=
  .next (s.floorXlat d context atp adHw va.toNat acc).1

/-- R236: an invalidation starts to run: from now on no walk on the dies that it names uses a non-leaf entry of its context that was read
before. -/
def State.beginInvalidation (s : State) (c : BitVec 64) : State :=
  ((List.range 12).filter fun d => bit c (24 + d)).foldl (fun s d =>
    s.modTile d fun k => { k with walkCache := k.walkCache.filter fun e => decide (e.context ≠ fld c 16 5) }) s

/-- R235, R236: HUB_XLAT_INV_CTL written whole: one more invalidation, which starts at once where no other is running, or a refusal where
16 are pending. -/
def State.startInvalidation (s : State) (v : Nat) : State :=
  if 16 ≤ s.hub.invs.length then s.modHub fun h => { h with refused := true }
  else
    let c : BitVec 64 := BitVec.ofNat 64 (v - fldN v 23 1 * 2 ^ 23 - fldN v 36 12 * 2 ^ 36)
    let s := s.modHub fun h => { h with invCtl := c, refused := false }
    if fldN v 24 12 = 0 then s.modHub fun h => { h with doneSeq := BitVec.ofNat 16 (fldN v 48 16) }
    else
      let s := if s.hub.invs.isEmpty then s.beginInvalidation c else s
      s.modHub fun h => { h with invs := h.invs ++ [(h.invVa, c)] }

/-- Table 7.22: whether an invalidation covers an entry: its context, ASID, G, and page. -/
def invCovers (kind ctx asid va : Nat) (ectx easid : Nat) (g : Bool) (vpage log2 : Nat) : Bool :=
  decide (ectx = ctx) && (match kind with
  | 0 => true
  | 1 => decide (easid = asid) && !g
  | 2 => decide (easid = asid) && !g && decide (fldN va 0 57 / 2 ^ log2 = vpage)
  | _ => decide (fldN va 0 57 / 2 ^ log2 = vpage))

/-- R235: the matching entries of die d and tile d are removed, non-leaf entries on the path among them. -/
def State.invalidateDie (s : State) (d kind ctx asid va : Nat) : State :=
  let keep := fun (e : TlbEntry) => !invCovers kind ctx asid va e.context e.asid.toNat e.global_ e.vpage e.pageLog2
  let keepW := fun (e : WalkEntry) => !invCovers kind ctx asid va e.context e.asid.toNat false e.vpage (12 + 9 * e.level)
  let s := s.modTile d fun k => { k with tlbSmall := k.tlbSmall.filter keep, tlbMid := k.tlbMid.filter keep
                                         tlbBig := k.tlbBig.filter keep, walkCache := k.walkCache.filter keepW }
  { s with cores := s.cores.map fun (c, k) => (c, if c / 128 = d then { k with tlb := k.tlb.filter keep } else k) }

/-- XLAT_INVALIDATION_COMPLETE (R236): the oldest invalidation completes on every die that it names, and DONE_SEQ takes its
SEQ; the next one starts. -/
def execXlatInvalidationComplete (s : State) : Res :=
  match s.hub.invs with
  | [] => .next s
  | (va, c) :: rest =>
    let s := s.modHub fun h => { h with invs := rest, doneSeq := BitVec.ofNat 16 (fld c 48 16) }
    let s := ((List.range 12).filter fun d => bit c (24 + d)).foldl (fun s d =>
      s.invalidateDie d (fld c 21 2) (fld c 16 5) (fld c 0 16) va.toNat) s
    .next (match rest with
      | [] => s
      | x :: _ => s.beginInvalidation x.2)

end Sys2Proof.Machine
end

