-- ==== Sys2Proof/Machine/Power.lean ====
section
/-! DEFINITION. Power, thermal and clocking control (chapter 12). What the spec bounds by "within" or "by" takes place at once.
The activity model's coefficients are the image's, and have no values here (log 9). -/

namespace Sys2Proof.Machine

/-- The hub runs (R402 step 2). -/
def State.hubUp (s : State) : Bool := decide (2 ≤ s.boot.stage) && s.velvet.valid

/-- R474, R478: whether the module asserts its open-drain outputs: THERM_TRIP_N from its latched state, and ALERT_N, until READY for
nothing but what R472 and R485 require. -/
def State.thermTripOut (s : State) : Bool := s.velvet.powered && s.velvet.thermTrip
def State.alertOut (s : State) : Bool :=
  s.velvet.powered && decide ((if s.boot.stage = 15 then s.hub.alert else s.hub.alert &&& 0x30) ≠ 0)

/-- R387: a power event: a message, PWR_EVENT, and ALERT_N. -/
def State.powerEvent (s : State) (code detail : Nat) : State :=
  let s := s.modPower fun p => { p with seq := p.seq + 1, lastCode := BitVec.ofNat 16 code }
  (s.modHub fun h => { h with alert := setBit h.alert 1 true }).event 12 code detail

/-! ## The step of a die (R372, R376, R378, R380, R383, R384) -/

/-- Table 12.5. -/
def dieEntry : Nat → Nat
  | 0 => 0 | 1 => 95 | 2 => 100 | 3 => 105 | _ => 110
def dieCap : Nat → Nat
  | 0 => 64 | 1 => 56 | 2 => 40 | 3 => 16 | _ => 8
def hostCap : Nat → Nat
  | 0 => 16 | 1 => 16 | 2 => 16 | 3 => 8 | _ => 4

/-- R376: the stage after a sample. -/
def dieStageAfter (cur temp : Nat) : Nat :=
  ((List.range 5).filter fun k => decide (dieEntry k ≤ temp) || (decide (k ≤ cur) && decide (dieEntry k < temp + 3))).foldl max 0

/-- R378: the cap that a stack's stage puts on the die beside it. -/
def stackCap : Nat → Nat
  | 0 => 64 | 1 => 64 | 2 => 48 | 3 => 32 | _ => 16

/-- R371: host-core step that row 2 of Table 12.3 leaves. -/
def Power.shedHost (p : Power) : Nat := 16 - Nat.min p.shed 12

/-- R371, R369: DRAM burst limit of power control in percent. -/
def Power.burstLimit (p : Power) : Nat :=
  if p.shedAll || p.fastBurst || p.brake || 2 ≤ p.coolantStage then 50 else 100 - 10 * Nat.min (p.shed - 12) 5

/-- R466: N of a rail, in the order of Table 12.1. -/
def railN (rail : Nat) : Nat :=
  if rail ≤ 12 then 8 else if rail ≤ 24 then 4 else if rail ≤ 48 then 2 else if rail ≤ 72 then 1 else 2

/-- R466: a rail's rated maximum in percent, in proportion to its working phases. -/
def State.railPercent (s : State) (rail : Nat) : Nat := match (kget {} s.power.rails rail).phases with
  | some k => Nat.min 100 (100 * k / railN rail)
  | none => 100

/-- R365, R466: a rail's rated maximum in mW, in proportion to its working phases. -/
def State.rated (s : State) (rail : Nat) : Nat := match (kget {} s.power.rails rail).phases with
  | some k => if k < railN rail then s.boot.config.ratedMax rail * k / railN rail else s.boot.config.ratedMax rail
  | none => s.boot.config.ratedMax rail

/-- Table 12.1: the rail of a tile's DRAM device: VDD_HBM_t, or VDD_LP of its package. -/
def dramRail (t dev : Nat) : Nat := if dev = 0 then 37 + t else 48 + 2 * t + dev

/-- R371, R372, R466: the DRAM burst limit of a device in percent: power control's, that of its stage (Table 7.15) or its rail's,
whichever is lowest. -/
def State.burstOf (s : State) (t dev : Nat) : Nat :=
  Nat.min (Nat.min s.power.burstLimit (s.railPercent (dramRail t dev))) (match (kget {} (s.tile t).drams dev).stage.toNat with
    | 0 => 100 | 1 => 100 | 2 => 75 | 3 => 50 | 4 => 25 | _ => 0)

/-- R371: limit of remote requests in percent. -/
def Power.remoteLimit (p : Power) : Nat := if p.shedAll then 25 else 100 - 25 * Nat.min (p.shed - 17) 3

/-- R372: the caps on a die's step with the causes of Table 12.16: the first of the lowest is named. -/
def State.stepCaps (s : State) (d : Nat) : List (Nat × Nat) :=
  let p := s.power
  let x := s.pwr d
  (if p.coolStop then [(0, 7)] else []) ++ (if p.brake then [(8, 4)] else []) ++ (if 2 ≤ p.coolantStage then [(8, 5)] else []) ++
  [(x.fastCap, 3), (dieCap x.stage, 1), (stackCap (kget {} (s.tile d).drams 0).stage.toNat, 2)]

/-- R360, R372: a die's steps set from its share and its caps; in standby no clock runs (R362). -/
def State.setStep (s : State) (d : Nat) : State :=
  let p := s.power
  if p.standby then s else
  let x := s.pwr d
  let own := (x.shareN, if p.rampLimited && x.shareN < 64 then 6 else 0)
  let (n, cause) := (s.stepCaps d).foldr (fun c best => if c.1 ≤ best.1 && c.1 < 64 then c else best) own
  let m := if p.coolStop then 0 else if p.brake || 2 ≤ p.coolantStage then 4 else Nat.min (hostCap x.stage) p.shedHost
  s.modPwr d fun x => { x with n := n, m := m, cause := cause }

/-- The dies that run: admitted, out of reset, with their clocks not stopped by a trip or standby. -/
def State.poweredDies (s : State) : List Nat :=
  (List.range 12).filter fun d => (s.tile d).up && !s.power.tripped && !s.power.standby

/-- The steps of all dies. -/
def State.setSteps (s : State) : State := s.poweredDies.foldl (fun s d => s.setStep d) s

/-- R380: S less 150 W for each started °C of inlet above 40 °C. -/
def State.effectiveW (s : State) : Nat := s.velvet.sustained - 150 * ((s.power.inlet - 400 + 9) / 10)

/-- R368: a POWER_LIMIT that waits completes: at the next update where it raised S, else once the 1 ms mean is at or below S; under
the brake or the stop at once (Table 12.8). -/
def State.limitsInForce (s : State) : State :=
  let ready := fun (x : Nat × Bool) => x.2 || s.power.brake || s.power.coolStop || decide (s.power.meas ≤ s.effectiveW)
  let s' := (s.power.limitWait.filter ready).foldl (fun s x => s.finish x.1 0) s
  s'.modPower fun p => { p with limitWait := s.power.limitWait.filter fun x => !ready x }

/-! ## The stop (R384, R385) and the trip (R382) -/

/-- R384: the stop begins. -/
def State.enterStop (s : State) : State :=
  if s.power.coolStop || s.power.tripped then s else
  let s := s.modPower fun p => { p with coolStop := true }
  let s := s.modHub fun h => { h with alert := setBit h.alert 0 true }
  (s.setSteps.powerEvent 0x0208 0).limitsInForce

/-- The cells of the management reserve, which the hub keeps (R414). -/
def reserveCells (m : List Host.Cell) : List Host.Cell := m.filter fun x => decide (reserveKey 0 ≤ x.1)

/-- The poisoned sectors of the management reserve. -/
def reserveSectors (p : List Nat) : List Nat := p.filter fun x => decide (reserveKey 0 ≤ 32 * x)

/-- Everything on compute dies and floor tiles loses its contents. -/
def State.loseDies (s : State) : State :=
  { s with cores := [], teams := [], xbar := [], caches := [], tiles := [], dies := [], floor := [], outstanding := []
           mem := reserveCells s.mem, poison := reserveSectors s.poison, links := [], localFrames := [], colls := [], dramErrs := []
           upsets := s.upsets.filter fun u => u.mem = .reserve }

/-- R382: a sensor has reached its trip temperature: THERM_TRIP_N is asserted, every regulator but the hub's goes off, and the
record is written to the package ring and to flash. -/
def State.thermTrip (s : State) (kind index temp : Nat) : State :=
  if s.power.tripped then s else
  let s := s.loseDies
  let s := s.modPower fun p => { p with tripped := true, dies := p.dies.map fun (d, x) => (d, { x with n := 0, m := 0 }) }
  let s := s.modVelvet fun v => { v with thermTrip := true }
  let s := s.modFlash fun f => f.logged (0, kind + index * 256 + temp * 65536)
  s.recordAnyUnit 12 { typ := 0x26, cls := 5, source := 12, unit := 0, payload := pack [(0, 1, kind), (1, 1, index), (2, 1, temp)] }

/-- R381: a partition that begins to advertise STOPPED for a critical device ends its own collectives with MEMORY, and sends no
COLL_ABORT. -/
def State.stopColls (s : State) (part : Nat) : State :=
  let stop := fun (c : Coll) =>
    if c.first = part && c.running && c.code.isNone then
      { c with code := some 6, engines := (List.range c.dies).foldl (fun m i => kmod {} m i fun e => { e with status := 6 }) c.engines }
    else c
  { s with colls := s.colls.map stop }

/-- DRAM_TEMP_SAMPLE (R217, R218, R378, R379, R381). -/
def execDramTempSample (t : Fin 12) (dev : Device) (temp : Nat) (s : State) : Res :=
  let n := devNum dev
  let stage := fun (s : State) => (kget {} (s.tile t).drams n).stage.toNat
  if !(s.tile t).up || s.power.tripped then .next s else
  let old := stage s
  let stopped := s.stoppedNow (s.partOf t)
  let s := s.dramSample t n temp
  let new := stage s
  let s := if n = 0 && 4 ≤ new && old < 4 then s.powerEvent 0x0206 (t + new * 16) else s
  let s := if new = 5 && old ≠ 5 && !stopped && !s.power.coolStop then s.stopColls (s.partOf t) else s
  let s := if n = 0 then s.setStep t else s
  .next (if 110 ≤ temp then s.thermTrip (if n = 0 then 3 else 4) (if n = 0 then t else 2 * t + (n - 1)) temp else s)

/-- DIE_TEMP_SAMPLE (R375 to R377). -/
def execDieTempSample (u : HotUnit) (temp : Nat) (s : State) : Res :=
  if !s.hubUp then .next s else
  let die := fun (d k : Nat) (kind index : Nat) =>
    if !(s.tile d).up || s.power.tripped then s else
    let old := (s.pwr d).stage
    let s := s.modPwr d fun x => { x with sensors := kset x.sensors k temp }
    let top := (s.pwr d).sensors.foldl (fun n x => Nat.max n x.2) 0
    let new := dieStageAfter old top
    let s := (s.modPwr d fun x => { x with temp := top, stage := new }).setStep d
    let s := if new = 4 && old < 4 then s.powerEvent 0x0205 (d + new * 16 + top * 256) else s
    if 115 ≤ temp then (s.modPwr d fun x => { x with stage := 5 }).thermTrip kind index temp else s
  match u with
  | .die d k => .next (die d k.val 0 (d.val * 16 + k.val))
  | .tile t k => .next (die t (16 + k.val) 1 (t.val * 4 + k.val))
  | .hub k =>
    let s := s.modPower fun p => { p with hubTemps := kset p.hubTemps k.val temp }
    .next (if 115 ≤ temp then s.thermTrip 2 k.val temp else s)

/-! ## Sideband inputs (R474 to R477) -/

/-- Table 16.3: window and greatest number of transitions of an input: 0 PERST_N, 1 COOL_OK, 2 PWR_BRAKE_N. -/
def sigWindow : Nat → Nat
  | 0 => secTicks | 1 => 10 * secTicks | _ => 100 * msTicks
def sigLimit : Nat → Nat
  | 0 => 16 | 1 => 8 | _ => 64

/-- Table 16.3: the filter width of an input: 10 µs, 1 ms, 2 µs. -/
def sigFilter : Nat → Nat
  | 0 => 10 * usTicks | 1 => msTicks | _ => 2 * usTicks

/-- R477: a SIDEBAND record. -/
def State.sideRecord (s : State) (sig event value : Nat) : State :=
  if !s.hubUp then s else
  (s.modHub fun h => { h with sideSeq := h.sideSeq + 1 }).recordAnyUnit 12
    { typ := 0x2A, cls := 1, source := 12, unit := 0, payload := pack [(0, 1, sig), (1, 1, event), (8, 8, value)] }

/-- The level acted on. -/
def State.acted (s : State) (sig : Nat) : Bool := match sig with
  | 0 => s.velvet.perstN
  | 1 => s.velvet.coolOk
  | _ => s.velvet.brakeN

/-- R324, R384, R383: the level acted on of an input becomes v. -/
def State.act (s : State) (sig : Nat) (v : Bool) : State :=
  if s.acted sig = v then s else
  match sig with
  | 0 =>
    let s := s.modVelvet fun k => { k with perstN := v, perstSince := if v then none else some s.ticks }
    if !s.hubUp then s
    else if v then s.modHost fun h => { h with inReset := h.resetting }
    else s.hostReset 3
  | 1 =>
    let s := s.modVelvet fun k => { k with coolOk := v, coolOkSince := if v then some s.ticks else none }
    if !v && 4 ≤ s.boot.stage && s.velvet.valid then s.enterStop else s
  | _ =>
    let s := s.modVelvet fun k => { k with brakeN := v }
    if !s.hubUp then s else (((s.modPower fun p => { p with brake := !v }).setSteps).powerEvent 0x0204 (if v then 0 else 1)).limitsInForce

/-- The filtered transitions of an input in its window. -/
def State.recent (s : State) (sig : Nat) : List Nat := (kget [] s.velvet.transitions sig).filter fun t => !s.elapsed t (sigWindow sig)

/-- R474: whether the level that an input has now cannot have been held for the filter width yet, so that no filter passes another one. -/
def State.filtering (s : State) (sig : Nat) : Bool := (s.recent sig).any fun t => !s.elapsed t (sigFilter sig)

/-- R474, R475: a filtered transition of an input to level v: beyond its limit, or while it chatters, the input is held low. A level that
follows the last transition sooner than the filter width is ignored (log 102). -/
def State.transition (s : State) (sig : Nat) (v : Bool) : State :=
  if kget false s.velvet.raw sig = v || s.filtering sig then s else
  let l := s.ticks :: s.recent sig
  let s := s.modVelvet fun k => { k with raw := kset k.raw sig v, transitions := kset k.transitions sig l }
  if s.velvet.chatter.getLsbD sig then s
  else if sigLimit sig < l.length then
    let s := s.modVelvet fun k => { k with chatter := setBit k.chatter sig true }
    (s.sideRecord sig 0 l.length).act sig false
  else s.act sig v

/-- PERST_N_ASSERT (R324, R474). -/
def execPerstNAssert (s : State) : Res := .next (if s.velvet.powered then s.transition 0 false else s)

/-- PERST_N_DEASSERT (R402, R474). -/
def execPerstNDeassert (s : State) : Res := .next (if s.velvet.powered then s.transition 0 true else s)

/-- COOL_STOP (R384): a filtered transition of COOL_OK to a level; its fall begins the stop, its rise the 100 ms of R385. -/
def execCoolStop (level : Bool) (s : State) : Res := .next (if s.velvet.powered then s.transition 1 level else s)

/-- BRAKE (R383): a filtered transition of PWR_BRAKE_N to a level. -/
def execBrake (level : Bool) (s : State) : Res := .next (if s.velvet.powered then s.transition 2 level else s)

/-- SIDEBAND_CHATTER (R475): the filtered transition of an input that exceeds its limit. -/
def execSidebandChatter (sig : Fin 3) (s : State) : Res :=
  if !s.velvet.powered || s.velvet.chatter.getLsbD sig || s.filtering sig || (s.recent sig).length < sigLimit sig then .next s
  else .next (s.transition sig (!kget false s.velvet.raw sig.val))

/-- CHATTER_END (R475): an input that made no filtered transition for a time equal to its window follows its level again. -/
def execChatterEnd (sig : Fin 3) (s : State) : Res :=
  if !s.velvet.chatter.getLsbD sig || !(s.recent sig).isEmpty then .next s else
  let s := s.modVelvet fun k => { k with chatter := setBit k.chatter sig false }
  .next ((s.sideRecord sig 1 0).act sig (kget false s.velvet.raw sig.val))

/-- SLOT_ID_CHANGE (R474, R476): a filtered change, at the earliest 1 ms after the one before; after boot step 2, which latches the straps,
it is logged and ignored. -/
def execSlotIdChange (v : BitVec 6) (s : State) : Res :=
  let early := match s.velvet.strapAt with
    | none => false
    | some t => !s.elapsed t msTicks
  if s.hub.strap = v || early then .next s else
  let s := (s.modHub fun h => { h with strap := v }).modVelvet fun k => { k with strapAt := some s.ticks }
  .next (if s.boot.stage ≤ 2 then s else s.sideRecord 3 2 v.toNat)

/-- COOL_RESUME (R385): COOL_OK has been high for 100 ms, and every stage allows it. The devices leave self-refresh, the clocks start at
n = 8 and the host cores at 800 MHz, from which the next update raises them,
and the commands that the stop held end. -/
def execCoolResume (s : State) : Res :=
  let high := match s.velvet.coolOkSince with
    | none => false
    | some t => s.elapsed t (100 * msTicks)
  let calm := (List.range 12).all fun d => (s.pwr d).stage ≤ 1 && (s.tile d).drams.all fun x => x.2.stage.toNat ≤ 1
  if !s.power.coolStop || s.power.tripped || !high || !calm || s.power.coolantStage ≠ 0 then .next s else
  let s := (s.modPower fun p => { p with coolStop := false }).resumeMemory
  let s := s.modPower fun p => { p with coolStop := false, dies := p.dies.map fun (d, x) => (d, { x with shareN := 8 }) }
  let s := s.modHub fun h => { h with alert := setBit h.alert 0 false }
  let s := s.setSteps
  let s := s.modPower fun p => { p with dies := p.dies.map fun (d, x) => (d, { x with m := Nat.min x.m 4 }) }
  let s := s.queues.foldl (fun s x => match x.2.run with
    | some r => if r.stage = .running || r.limited then s.terminate x.1 0x0012 0 5 else s
    | none => s) s
  .next (s.powerEvent 0x0209 0)

/-! ## Coolant (R380) -/

/-- Table 12.6: the entries of the stages in 0.1 °C and 0.1 L/min; stage 1 has no entry flow. -/
def inletEntry : Nat → Nat
  | 1 => 400 | 2 => 450 | _ => 500
def flowEntry : Nat → Nat
  | 1 => 0 | 2 => 45 | _ => 30

/-- Whether the condition of a coolant stage holds, the second of stage 3 apart. -/
def coolantHolds (inlet flow k : Nat) : Bool := decide (inletEntry k < inlet) || decide (flow < flowEntry k)

/-- R380: whether a stage is not left yet. -/
def coolantKept (inlet flow k : Nat) : Bool := decide (inletEntry k < inlet + 10) || (decide (k ≠ 1) && decide (flow < flowEntry k + 2))

/-- COOLANT_SAMPLE (R375, R380): an S that changes restarts the 1 s window (R368). -/
def execCoolantSample (inlet : Nat) (flow : Nat) (s : State) : Res :=
  if !s.hubUp || s.power.tripped then .next s else
  let since := if coolantHolds inlet flow 3 then some (s.power.stage3Since.getD s.ticks) else none
  let held := match since with
    | none => false
    | some t => s.elapsed t secTicks
  let old := s.power.coolantStage
  let new := ([1, 2, 3].filter fun k =>
    (if k = 3 then held else coolantHolds inlet flow k) || (decide (k ≤ old) && coolantKept inlet flow k)).foldl max 0
  let was := s.effectiveW
  let s := s.modPower fun p => { p with inlet := inlet, flow := flow, stage3Since := since, coolantStage := new }
  let s := if s.effectiveW = was then s else s.modPower fun p => { p with limitAt := s.ticks }
  if new = old then .next s else
  let s := s.setSteps.powerEvent 0x0207 (new + inlet % 4096 * 16 + flow % 4096 * 65536)
  .next (if new = 3 then s.enterStop else s)

/-! ## Measurement and the model (R363 to R366) -/

/-- R364: a modelled value: static power and the counts with their coefficients. Rails have the numbers of Table 12.1's order,
the categories of die d the numbers 100 + 3 d and on, and its regions the numbers 200 + 4 d and on. -/
def State.modelled (s : State) (unit d : Nat) : Nat :=
  let x := s.pwr d
  x.acts.foldl (fun p (kind, n) => p + s.boot.config.coefficient unit kind * n) (Config.staticPower unit x.temp x.n)

/-- The die whose tile, cores or devices a rail feeds; VDD_HUB has none. -/
def railDie (rail : Nat) : Option Nat :=
  if 1 ≤ rail && rail ≤ 48 then some ((rail - 1) % 12) else if 49 ≤ rail && rail ≤ 72 then some ((rail - 49) / 2) else none

/-- R370, R466: the greatest rise of modelled power in mW per µs: of a region, and of a tile, whose rate follows the working phases of its
VDD_FLR rail. Holding work back for it is timing (log 56). -/
def regionRise : Nat := 150
def State.tileRise (s : State) (t : Nat) : Nat := match (kget {} s.power.rails (13 + t)).phases with
  | some k => if k < 4 then 500 * k / 4 else 500
  | none => 500

/-- R364: the model's module total. -/
def State.modelTotal (s : State) : Nat :=
  (List.range 12).foldl (fun p d => (s.pwr d).model.foldl (fun p x => p + x.2) p) (Config.staticPower 73 0 0)

/-- R365: the model's value of a rail; that of VIN is the module total. -/
def State.railModel (s : State) (rail : Nat) : Nat :=
  if rail = 0 then s.modelTotal else match railDie rail with
    | some d => s.modelled rail d
    | none => Config.staticPower 73 0 0

/-- R365: whether a measurement fails its plausibility check, with the rail's rated maximum. -/
def implausible (t : Telemetry) (rated mw : Nat) (k : Rail) (model : Nat) : Bool :=
  !t.present || !t.crcOk || decide (5 * rated < 4 * mw) ||
  (decide (50 ≤ k.same) && decide (k.modelAt < 10 * (model - k.modelAt + (k.modelAt - model))))

/-- TELEMETRY_FRAME (R363, R365). -/
def execTelemetryFrame (rail : Fin 74) (t : Telemetry) (s : State) : Res :=
  if !s.hubUp then .next s else
  let mw := t.milliVolt * t.milliAmp / 1000
  let model := s.railModel rail
  let k : Rail := kget {} s.power.rails rail.val
  let k := if t.present && t.crcOk then { k with temp := t.temp, status := t.status } else k
  let k := if !t.present || !t.crcOk then k
    else if k.last = mw && k.same ≠ 0 then { k with same := k.same + 1 } else { k with last := mw, same := 1, modelAt := model }
  let bad := implausible t (s.rated rail) mw k model
  let fresh := bad && !k.raised
  let k := { k with milliWatt := if bad then model * 13 / 10 else mw, replaced := bad, raised := k.raised || bad }
  let s := s.modPower fun p => { p with rails := kset p.rails rail.val k }
  .next (if fresh then s.powerEvent 0x0202 rail else s)

/-- R366: an attributed value: while DIVERGE is 1 it is scaled to the measured power. -/
def State.attributed (s : State) (v : Nat) : Nat :=
  if s.power.diverge then v * (kget {} s.power.rails 0).milliWatt / Nat.max 1 s.modelTotal else v

/-- R364: the counts of cores, by kind: 16 and on the instructions by unit class, 32 and on the matrix steps by operand row. -/
def coreCounts (issued matrix : List Nat) : KMap Nat :=
  ((List.range issued.length).map fun i => (16 + i, (issued[i]?).getD 0)) ++ (List.range matrix.length).map fun i => (32 + i, (matrix[i]?).getD 0)

/-- R364: the counts of one die and its tile, by kind: 1 to 6 those of the tile, and those of its cores. -/
def Activity.counts (a : Activity) : KMap Nat :=
  [(1, a.slices), (2, a.lookups), (3, a.bursts), (4, a.flits), (5, a.blocks), (6, a.collBytes)] ++ coreCounts a.issued a.matrix

/-- R364: the counts of a die's regions, by region x 64 + kind. -/
def Activity.regionCounts (a : Activity) : KMap Nat :=
  (List.range 4).flatMap fun r => match a.regions[r]? with
    | some (i, m) => (coreCounts i m).map fun (k, n) => (64 * r + k, n)
    | none => []

/-- R364: the modelled compute power of a region. -/
def State.regionModelled (s : State) (d r : Nat) : Nat :=
  let x := s.pwr d
  let u := 200 + 4 * d + r
  (x.regionActs.filter fun y => y.1 / 64 = r).foldl (fun p y => p + s.boot.config.coefficient u (y.1 % 64) * y.2) (Config.staticPower u x.temp x.n)

/-- ACTIVITY_MODEL_UPDATE (R364, R388): the modelled power of every die and tile by category and of every
region, and the energy of 10 µs. -/
def execActivityModelUpdate (acts : List Activity) (s : State) : Res :=
  if !s.hubUp then .next s else
  let s := acts.foldl (fun s a => s.modPwr a.die fun x => { x with acts := Activity.counts a, regionActs := Activity.regionCounts a }) s
  let s := (List.range 12).foldl (fun s d =>
    let v := (List.range 3).map fun c => (c, s.modelled (100 + 3 * d + c) d)
    let rs := (List.range 4).map fun r => (r, s.regionModelled d r)
    s.modPwr d fun x => { x with model := v, regionModel := rs }) s
  let s := (List.range 12).foldl (fun s d =>
    let e := (s.pwr d).model.map fun (c, v) => (c, s.attributed v)
    s.modPwr d fun x => { x with
      energy := e.foldl (fun m y => kmod 0 m y.1 fun n => n + 10 * y.2) x.energy
      recent := (kget 0 e 0 :: x.recent).take 100
      regionRecent := (List.range 4).map fun r => (r, (s.attributed (kget 0 x.regionModel r) :: kget [] x.regionRecent r).take 100) }) s
  .next (s.modPower fun p => { p with hubEnergy := p.hubEnergy + 10 * s.attributed (Config.staticPower 73 0 0) })

/-! ## The control loop (R366, R368, R371, R372) -/

/-- Table 12.2: the floor power in W. -/
def floorW : Nat := 1400

/-- The mean of the first n entries of a list, in W; the entries are in mW. -/
def meanW (l : List Nat) (n : Nat) : Nat :=
  let l := l.take n
  if l.isEmpty then 0 else l.foldl (· + ·) 0 / l.length / 1000

/-- R366: divergence, and the limit measure, at one update. -/
def State.measure (s : State) : State :=
  let vin : Rail := kget {} s.power.rails 0
  let v := vin.milliWatt
  let m := s.modelTotal
  let gap := m - v + (v - m)
  let bad := decide (v < 4 * gap) && decide (50000 < gap)
  let p := s.power
  let divRun := if vin.replaced then p.divRun else if bad then p.divRun + 1 else 0
  let okRun := if vin.replaced then p.okRun else if bad then 0 else p.okRun + 1
  let raise := !p.diverge && decide (5000 ≤ divRun) && !vin.replaced
  let diverge := if p.diverge then decide (okRun < 50000) else raise
  let limit := if diverge then Nat.max v m else v
  let s := s.modPower fun p => { p with
    divRun := divRun, okRun := if raise then 0 else okRun, diverge := diverge
    hist := (limit :: p.hist).take 100000, modelHist := (m :: p.modelHist).take 100 }
  let s := s.modPower fun p => { p with meas := meanW p.hist 100, model := meanW p.modelHist 100 }
  if raise then s.powerEvent 0x0201 (v / 1000 % 65536 + m / 1000 % 65536 * 65536) else s

/-- The energy in µJ of the last n updates. -/
def energyUj (l : List Nat) (n : Nat) : Nat := (l.take n).foldl (· + ·) 0 / 100

/-- R368, R374: the package target T, and whether the ramp ceiling sets it. -/
def State.targetW (s : State) : Nat × Bool :=
  let p := s.power
  let win := Nat.max 1 (Nat.min 100000 ((s.ticks - p.limitAt) / (10 * usTicks)))
  let a1 : Int := ((s.effectiveW * (win * 10) : Nat) - (energyUj p.hist (win - 1) : Nat) : Int) / 10
  let a5 : Int := ((4400 * 5000 : Nat) - (energyUj p.hist 499 : Nat) : Int) / 10
  let ramp := Nat.max floorW (meanW p.hist 100 + p.ramp.toNat)
  let rest := min (min a1 a5) (min 4400 (if 2 ≤ p.coolantStage then (floorW : Int) else 4400))
  if p.brake then (floorW, false)
  else if (ramp : Int) < rest then (ramp, true)
  else (Nat.max floorW rest.toNat, false)

/-- R466: the share of a die is capped by its rail's working phases, of 8. -/
def State.shareCap (s : State) (d v : Nat) : Nat := match (kget {} s.power.rails (1 + d)).phases with
  | some k => if k < 8 then Nat.min v (s.rated (1 + d)) else v
  | none => v

/-- R364: the compute power predicted for a die at a step. -/
def State.predicted (s : State) (d n : Nat) : Nat := let x := s.pwr d; Config.predict d x.acts x.temp n

/-- R372: the highest step that a share allows. -/
def State.stepFor (s : State) (d v : Nat) : Nat :=
  (((List.range 57).map (64 - ·)).find? fun n => decide (s.predicted d n ≤ v)).getD 8

/-- The dies of a partition that run. -/
def State.partPowered (s : State) (f : Nat) : List Nat := s.poweredDies.filter fun d => s.partOf d = f && (s.partition f).dies ≠ 0

/-- What borrowers return: up to owed, in turn; get and put are the loan of the kind returned. -/
def State.returnLoans (s : State) (get : PwrDie → Int) (put : PwrDie → Int → PwrDie) (ds : List Nat) (owed : Nat) : State :=
  (ds.foldl (fun (st : State × Nat) b =>
    let y := get (st.1.pwr b)
    if 0 < y then
      let k := Nat.min y.toNat st.2
      (st.1.modPwr b fun x => put x (y - k), st.2 - k)
    else st) (s, owed)).1

/-- R373: no share is lent. -/
def State.noLoans (s : State) : State :=
  s.poweredDies.foldl (fun s d => s.modPwr d fun x => { x with loan := 0, cross := 0, regionLoan := [] }) s

/-- R373: a region that lends to others of its die, and whose attributed power reaches 0.95 of its reduced share, gets its share back, from
the die's borrowers in turn. -/
def State.recallRegions (s : State) (d : Nat) : State :=
  s.modPwr d fun x =>
    let back := fun (l : KMap Int) (r : Nat) =>
      let v := kget 0 l r
      if v < 0 && (((kget 0 x.regionShare r : Nat) : Int) + v) * 95 ≤ (100 * s.attributed (kget 0 x.regionModel r) : Nat) then
        let l := kset l r 0
        ((List.range 4).foldl (fun (st : KMap Int × Nat) b =>
          let y := kget 0 st.1 b
          if 0 < y then (kset st.1 b (y - (Nat.min y.toNat st.2 : Nat)), st.2 - Nat.min y.toNat st.2) else st) (l, (-v).toNat)).1
      else l
    { x with regionLoan := (List.range 4).foldl back x.regionLoan }

/-- R373: a lender whose attributed power reaches 0.95 of its reduced share gets its full share back, from the borrowers in turn; under
the brake or while the fast path holds no share is lent. -/
def State.recallLoans (s : State) : State :=
  if s.power.brake || s.power.fastHeld then s.noLoans else
  let back := fun (s : State) (d : Nat) =>
    let x := s.pwr d
    let lent := min x.loan 0 + min x.cross 0
    if lent < 0 && ((x.share : Int) + lent) * 95 ≤ (100 * s.attributed (kget 0 x.model 0) : Nat) then
      let s := s.modPwr d fun x => { x with loan := max x.loan 0, cross := max x.cross 0 }
      let s := s.returnLoans (·.loan) (fun x v => { x with loan := v }) (s.partPowered (s.partOf d)) (-(min x.loan 0)).toNat
      s.returnLoans (·.cross) (fun x v => { x with cross := v }) s.poweredDies (-(min x.cross 0)).toNat
    else s
  s.poweredDies.foldl (fun s d => (back s d).recallRegions d) s

/-- R14, R372: the awake regions of a die. -/
def State.awakeRegions (s : State) (d : Nat) : List Nat := (List.range 4).filter fun r => kget .on (s.die d).regions r = .on

/-- R14, R373: a region's share with its loan, and that of each awake core of it: an equal part among its present cores; a cell has the sum
of its cores'. -/
def PwrDie.regionNow (x : PwrDie) (r : Nat) : Nat := (((kget 0 x.regionShare r : Nat) : Int) + kget 0 x.regionLoan r).toNat
def State.coreShare (s : State) (d r : Nat) : Nat :=
  let n := ((List.range 32).filter fun i => (s.core (d * 128 + r * 32 + i)).present).length
  (s.pwr d).regionNow r / Nat.max 1 n
def State.cellShare (s : State) (d cell : Nat) : Nat :=
  ((List.range 8).filter fun i => (s.core (d * 128 + cell * 8 + i)).present).length * s.coreShare d (cell / 4)

/-- R371, R372: the grants: shares of dies and their regions from the compute grant, in mW, and the shedding of Table 12.3 by one step:
first every die goes to n = 8, and only then the later rows begin; while one of them holds, the dies stay there. -/
def State.grant (s : State) (t : Nat) : State :=
  let cat := fun (c : Nat) => s.poweredDies.foldl (fun n d => n + s.attributed (kget 0 (s.pwr d).model c)) 0
  let compute := t * 1000 - (kget {} s.power.rails 73).milliWatt - cat 2 - cat 1
  let free := s.poweredDies.filter fun d => s.partOf d = d && (s.partition d).dies = 0
  let inPart := s.poweredDies.filter fun d => !free.contains d
  let left := compute - free.foldl (fun n d => n + s.predicted d 8) 0
  let base := left / Nat.max 1 inPart.length
  let least := s.poweredDies.foldl (fun n d => n + s.predicted d 8) 0
  let short := decide (compute < least)
  let atEnd := s.poweredDies.all fun d => (s.pwr d).shareN ≤ 8
  let s := s.modPower fun p => { p with shed := if short then (if atEnd then Nat.min 20 (p.shed + 1) else p.shed) else p.shed - 1 }
  let s := inPart.foldl (fun s d => s.modPwr d fun x => { x with share := base }) s
  let s := free.foldl (fun s d => s.modPwr d fun x => { x with share := s.predicted d 8 }) s
  let s := s.recallLoans
  s.poweredDies.foldl (fun s d =>
    let x := s.pwr d
    let v := s.shareCap d (((x.share : Int) + x.loan + x.cross).toNat)
    let awake := s.awakeRegions d
    s.modPwr d fun x => { x with
      shareN := if free.contains d || short || 0 < s.power.shed then 8 else s.stepFor d v
      regionShare := awake.map fun r => (r, v / Nat.max 1 awake.length) }) s

/-- CONTROL_LOOP_UPDATE (R368): the 10 µs update. -/
def execControlLoopUpdate (s : State) : Res :=
  if !s.hubUp || s.power.tripped then .next s else
  let s := s.measure
  let (t, ramp) := s.targetW
  let s := s.modPower fun p => { p with target := t, rampLimited := ramp, floor := decide (t = floorW)
                                        dies := if p.lendAcross then p.dies else p.dies.map fun (d, x) => (d, { x with cross := 0 }) }
  let s := (s.grant t).setSteps
  let mark := fun (s : State) (d : Nat) => s.modPwr d fun x => { x with
    satSince := if x.n < 64 && (x.cause = 0 || x.cause = 6) then some (x.satSince.getD s.ticks) else none }
  .next (s.poweredDies.foldl mark s).limitsInForce

/-- FAST_PATH (R369): one 20 µs sample in W. -/
def execFastPath (watts : Nat) (s : State) : Res :=
  if !s.hubUp || s.power.tripped then .next s
  else if 4400 < watts then
    let ds := s.poweredDies
    let low := ds.all fun d => (s.pwr d).n ≤ 8
    let held := s.power.fastHeld
    let s := ds.foldl (fun s d => s.modPwr d fun x => { x with fastCap := if 4600 < watts then 8 else Nat.max 8 (Nat.min x.n x.fastCap - 8) }) s
    let s := s.modPower fun p => { p with fastHeld := true, lowRun := 0, fastBurst := p.fastBurst || decide (4600 < watts), shedAll := p.shedAll || low }
    let s := s.setSteps
    .next (if held then s else s.powerEvent 0x0203 watts)
  else
    let run := if watts ≤ 4000 then s.power.lowRun + 1 else 0
    if s.power.fastHeld && 25 ≤ run then
      .next (s.modPower fun p => { p with
        fastHeld := false, fastBurst := false, shedAll := false, lowRun := 0
        dies := p.dies.map fun (d, x) => (d, { x with fastCap := 64 }) }).setSteps
    else .next (s.modPower fun p => { p with lowRun := run })

/-! ## Lending (R373) -/

/-- R373: a sibling, as its parent lends: its number, its unused share, whether it is saturated, and how much more it may get until its
model's prediction at n = 64. -/
structure Sibling where
  id : Nat
  unused : Nat
  saturated : Bool
  room : Nat
deriving DecidableEq, Repr

/-- The mean of some values. -/
def meanOf (l : List Nat) : Nat := l.foldl (· + ·) 0 / Nat.max 1 l.length

/-- R373: a share less 1.05 × the power used, where that is positive. -/
def unusedOf (share used : Nat) : Nat := share - used * 105 / 100

/-- A die's unused share, whether it is saturated, and whether a partition is: one of its dies is. -/
def State.unused (s : State) (d : Nat) : Nat := unusedOf (s.pwr d).share (meanOf (s.pwr d).recent)
def State.saturated (s : State) (d : Nat) : Bool := match (s.pwr d).satSince with
  | none => false
  | some t => s.elapsed t msTicks

/-- The lenders of a pool give up what was lent, in proportion to what each offered. -/
def lenderPart (offered total lent : Nat) : Nat := if total = 0 then 0 else (offered * lent + total - 1) / total

/-- R373: the pool of a parent's unused shares in equal parts to its saturated siblings, none above its room; what each sibling has gained,
or given. -/
def lendAmong (l : List Sibling) : List (Nat × Int) :=
  let pool := l.foldl (fun n x => n + x.unused) 0
  let part := pool / Nat.max 1 (l.filter (·.saturated)).length
  let got := fun (x : Sibling) => if x.saturated then Nat.min part x.room else 0
  let lent := l.foldl (fun n x => n + got x) 0
  l.map fun x => (x.id, (got x : Int) - (lenderPart x.unused pool lent : Nat))

/-- The regions of a die as siblings: all of them have its step, and are saturated where it is. -/
def State.regionSiblings (s : State) (d : Nat) : List Sibling :=
  let x := s.pwr d
  (s.awakeRegions d).map fun r =>
    let share := kget 0 x.regionShare r
    let acts := (x.regionActs.filter fun y => y.1 / 64 = r).map fun y => (y.1 % 64, y.2)
    { id := r, unused := unusedOf share (meanOf (kget [] x.regionRecent r)), saturated := s.saturated d
      room := Config.predict (200 + 4 * d + r) acts x.temp 64 - share }

/-- The dies of a partition as siblings. -/
def State.dieSiblings (s : State) (f : Nat) : List Sibling :=
  (s.partPowered f).map fun d => { id := d, unused := s.unused d, saturated := s.saturated d, room := s.predicted d 64 - (s.pwr d).share }

/-- The partitions as siblings. -/
def State.partSiblings (s : State) (fs : List Nat) : List Sibling :=
  fs.map fun f =>
    let ds := s.partPowered f
    let share := ds.foldl (fun n d => n + (s.pwr d).share) 0
    { id := f, unused := unusedOf share (ds.foldl (fun n d => n + meanOf (s.pwr d).recent) 0), saturated := ds.any s.saturated
      room := ds.foldl (fun n d => n + s.predicted d 64) 0 - share }

/-- What a partition has gained from others goes to its saturated dies in equal parts, none above its model's prediction at n = 64; what it
has given is taken from its dies in proportion to what each has unused (log 56). -/
def State.crossLoans (s : State) (x : Nat × Int) : List (Nat × Int) :=
  let ds := s.partPowered x.1
  let spare := fun (d : Nat) => (((s.unused d : Nat) : Int) + (s.pwr d).loan).toNat
  if x.2 < 0 then
    let total := ds.foldl (fun n d => n + spare d) 0
    ds.map fun d => (d, -(lenderPart (spare d) total (-x.2).toNat : Nat))
  else
    let sat := ds.filter s.saturated
    sat.map fun d => (d, ((Nat.min (x.2.toNat / Nat.max 1 sat.length) (s.predicted d 64 - (s.pwr d).share - (s.pwr d).loan.toNat) : Nat) : Int))

/-- LEND_UPDATE (R373): the 1 ms lending among the regions of each die, the dies of each partition, and, with LEND_ACROSS, the
partitions. -/
def execLendUpdate (s : State) : Res :=
  if !s.hubUp || s.power.tripped then .next s else
  let s := s.noLoans
  if s.power.brake || s.power.fastHeld then .next s else
  let parts := (s.partitions.filter fun x => x.2.dies ≠ 0).map (·.1)
  let s := s.poweredDies.foldl (fun s d => s.modPwr d fun x => { x with regionLoan := lendAmong (s.regionSiblings d) }) s
  let loans := parts.flatMap fun f => lendAmong (s.dieSiblings f)
  let s := loans.foldl (fun s x => s.modPwr x.1 fun y => { y with loan := x.2 }) s
  if !s.power.lendAcross then .next s else
  let cross := (lendAmong (s.partSiblings parts)).flatMap s.crossLoans
  .next (cross.foldl (fun s x => s.modPwr x.1 fun y => { y with cross := x.2 }) s)

/-! ## Standby (R362) -/

/-- R362: whether a write of STANDBY is refused. -/
def State.standbyRefused (s : State) : Bool :=
  s.contexts.any (fun x => x.1 ≠ 0 && x.2.live) || s.partitions.any (fun x => x.2.pid ≠ 0) || s.power.coolStop

/-- R362: standby is entered: every PLL but the hub's stops. -/
def State.enterStandby (s : State) : State :=
  let s := s.modPower fun p => { p with standby := true, dies := p.dies.map fun (d, x) => (d, { x with n := 0, m := 0 }) }
  { s with dies := s.dies.map fun (d, k) => (d, { k with pll := false }) }

/-- R362: standby is left: the devices leave self-refresh, the PLLs start, and the steps rise. -/
def State.leaveStandby (s : State) : State :=
  if !s.power.standby then s else
  let s := (s.modPower fun p => { p with standby := false }).resumeMemory
  let s := s.modPower fun p => { p with standby := false, dies := p.dies.map fun (d, x) => (d, { x with shareN := 8 }) }
  let wake := fun (d : Nat) (k : Die) => if (s.tile d).up then { k with pll := true } else k
  let s := { s with dies := s.dies.map fun (d, k) => (d, wake d k) }
  s.setSteps

end Sys2Proof.Machine
end

