-- ==== Sys2Proof/Machine/Reset.lean ====
section
/-! DEFINITION. What a reset leaves (R389, R390), and the pieces of boot that a die reset and PARTITION_SET share: interleave sets
(R214), core maps and repairs (R20 to R22), the capability handshake (R404), measurements (R413), and the CRC commit (R436). -/

namespace Sys2Proof.Machine

/-! ## Scope 5 (R389 to R391) -/

/-- R389, R390: everything outside the Velvet domain and module flash takes its reset value; the waiting commands, the clocks of the
model, the straps of the tray and TDO (R478) stay, and so does ALERT_N for a brown-out until READY (R472) and for a lost hub rail (R485). The
security engine draws its debug nonce (R416). -/
def State.scope5 (s : State) (stage : Nat) (watchdog : Option Nat) : State :=
  let t : State := { pending := s.pending, ticks := s.ticks, floor4 := s.floor4, draws := s.draws, i3cOut := s.i3cOut, velvet := s.velvet, flash := s.flash
                     hub := { strap := s.hub.strap, alert := s.hub.alert &&& 0x30, jtag := s.hub.jtag }, boot := { stage := stage, watchdog := watchdog } }
  let (n, t) := t.drawMany 4
  t.modBoot fun b => { b with debugNonce := BitVec.ofNat 256 n }

/-- R402: a package reset starts boot at step 2. -/
def State.packageReset (s : State) : State := s.scope5 2 (some s.ticks)

/-! ## Interleave sets (R214, R353) -/

/-- A set to be loaded: its number, CFG, TILES and the bases in GiB by list position. -/
abbrev SetEntry := Nat × BitVec 64 × BitVec 64 × List Nat

def SetEntry.iset (e : SetEntry) : ISet := { cfg := e.2.1, tiles := e.2.2.1 }

/-- R214: GiB of each device of a tile that a set takes. -/
def SetEntry.share (e : SetEntry) : Nat :=
  let i := e.iset
  if i.capacity then i.sizeGib / (2 * i.count) else i.sizeGib / i.count * (if i.mirror then 2 else 1)

/-- R214: a well-formed set. -/
def SetEntry.wellFormed (e : SetEntry) : Bool :=
  let i := e.iset
  let n := i.count
  let unit := if i.capacity then 2 * n else n
  let bases := (List.range n).map fun p => (e.2.2.2[p]?).getD 0
  let lo := if i.capacity then 0x0200 * 2 ^ 32 else 0
  decide (e.1 < 32) && 1 ≤ n && n ≤ 12 && decide (i.sizeGib % unit = 0) &&
  bases.all (fun b => b + e.share ≤ (if i.capacity then 64 else 128)) &&
  (!i.mirror || (!i.capacity && 2 ≤ n)) &&
  decide (lo ≤ i.base) && decide (i.base + i.sizeGib * 2 ^ 30 ≤ lo + 1536 * 2 ^ 30) && i.tileList.all (fun t => decide (t < 12))

/-- R214: whether two sets' ranges of addresses, or their contributions on one tile, share a byte. -/
def SetEntry.clashes (a b : SetEntry) : Bool :=
  let i := a.iset
  let j := b.iset
  i.valid && j.valid &&
  (overlap i.base (i.sizeGib * 2 ^ 30) j.base (j.sizeGib * 2 ^ 30) ||
   (i.capacity == j.capacity && (List.range i.count).any fun p => (List.range j.count).any fun q =>
      i.tileAt p = j.tileAt q && overlap ((a.2.2.2[p]?).getD 0) a.share ((b.2.2.2[q]?).getD 0) b.share))

/-- The sets that the warden loads: well formed, naming no absent die, and clashing with none loaded before (R214, R403). -/
def loadable (up : Nat → Bool) (es : List SetEntry) : List SetEntry :=
  es.foldl (fun l e => if SetEntry.wellFormed e && e.iset.tileList.all up && !l.any (SetEntry.clashes · e) then l ++ [e] else l) []

/-- R214: a write of v to a register, at an offset, of set n of tile t: where it leaves two valid sets of the tile overlapping, it is
reported. -/
def State.setOverlap (s : State) (t n off v : Nat) : State :=
  let i := (s.tile t).iset n
  if i.valid && (List.range 32).any fun m =>
      let j := (s.tile t).iset m
      m ≠ n && j.valid && overlap i.base (i.sizeGib * 2 ^ 30) j.base (j.sizeGib * 2 ^ 30) then
    s.recordAnyUnit t { typ := 0x0E, cls := 1, source := t, unit := 0, payload := pack [(0, 4, off), (8, 8, v)] }
  else s

/-- R213: the three registers of set n of tile t are written. -/
def State.putSet (s : State) (t n : Nat) (f : ISet → ISet) : State := s.modTile t fun k => { k with isets := kmod {} k.isets n f }

/-- R353: a set written on one tile: CFG, TILES and, where the tile is in the list, LOCAL, each a write of R214. -/
def State.writeSet (s : State) (e : SetEntry) (t : Nat) : State :=
  let off := 0x5000 + 0x20 * e.1
  let cfg := e.2.1 &&& 0x000FFFFFC7FFFFFF
  let tiles := e.2.2.1 &&& 0x000FFFFFFFFFFFFF
  let s := (s.putSet t e.1 fun i => { i with cfg := cfg }).setOverlap t e.1 off cfg.toNat
  let s := (s.putSet t e.1 fun i => { i with tiles := tiles }).setOverlap t e.1 (off + 8) tiles.toNat
  let i := (s.tile t).iset e.1
  match (List.range i.count).find? fun p => i.tileAt p = t with
  | some p =>
    let l := (e.2.2.2[p]?).getD 0 % 256
    ((s.putSet t e.1 fun i => { i with local_ := BitVec.ofNat 64 l }).setOverlap t e.1 (off + 16) l).noteC (.tile (Fin.ofNat 12 t))
  | none => s.noteC (.tile (Fin.ofNat 12 t))

/-- R353: sets written on every tile that is up; those of a fenced tile are kept for its readmission (R459). -/
def State.writeSets (s : State) (es : List SetEntry) : State :=
  es.foldl (fun s e => ((List.range 12).filter fun t => (s.tile t).up || (s.tile t).fenced).foldl (fun s t => s.writeSet e t) s) s

/-! ## Cores, DRAM and UCIe modules (R12, R20 to R22, R220, R463) -/

/-- R20: the position that logical core k of a die has without repairs. -/
def homePosition (k : Nat) : Nat := k / 32 * 34 + k % 32

/-- R20: the position that the image gives logical core k of die d; 0xFF: absent. -/
def ConfigImage.positionOf (c : ConfigImage) (d k : Nat) : Nat :=
  match c.repairs.find? fun x => x.1 = d && x.2.1 = k with
  | some x => x.2.2
  | none => homePosition k

/-- R21, R462: the core at a position of a die gives way to the lowest-numbered unused spare of its region. -/
def State.replacePosition (s : State) (d p : Nat) : State :=
  match (List.range 128).find? fun k => (s.core (d * 128 + k)).present && decide ((s.core (d * 128 + k)).position.toNat = p) with
  | none => s
  | some k =>
    let spare := (s.die d).spare (k / 32)
    let s := s.modCore (d * 128 + k) fun c => { c with position := BitVec.ofNat 8 (spare.getD 0xFF), present := spare.isSome }
    s.modDie d fun x => { x with used := x.used ++ spare.toList, failed := x.failed ++ [p] }

/-- R402 step 5: the core map of the image, then the retirements of the repair record. -/
def State.mapCores (s : State) (d : Nat) : State :=
  let img := s.boot.config
  let put := fun (s : State) (k : Nat) =>
    let p := img.positionOf d k
    s.modCore (d * 128 + k) fun c => { c with position := BitVec.ofNat 8 p, present := decide (p < 136), resetAt := s.arithCycles d }
  let s := (List.range 128).foldl put s
  let ps := (List.range 128).map (img.positionOf d)
  let s := s.modDie d fun x => { x with
    used := ps.filter fun p => decide (p < 136) && decide (32 ≤ p % 34)
    failed := ((List.range 128).filter fun k => img.positionOf d k ≠ homePosition k).map homePosition }
  s.flash.repairs.foldl (fun s e => if e.1 = 0 && e.2 / 136 = d then s.replacePosition d (e.2 % 136) else s) s

/-- R10, R220: the repairs of the configuration image and then those of the repair record. -/
def State.repairList (s : State) : List (Nat × Nat) := s.boot.config.repairsMore ++ s.flash.repairs

/-- R220, R402 step 6: the DRAM repairs for tile t. -/
def State.repairDram (s : State) (t : Nat) : State :=
  s.repairList.foldl (fun s e =>
    let dev := e.2 / 2 ^ 28 % 4
    let key := e.2 % 2 ^ 28
    if e.1 = 1 && e.2 / 2 ^ 30 = t then
      let left := s.sparesOf t dev (key / 2 ^ 20)
      s.modTile t fun k => { k with drams := kmod {} k.drams dev fun x => { x with
        spares := kset x.spares (key / 2 ^ 20) (left - 1), repaired := x.repaired ++ [key] } }
    else s) s

/-- R11, R12, R463: the lane repairs of tile t, and its UCIe modules that are disabled. -/
def State.repairUcie (s : State) (t : Nat) : State :=
  let s := s.modTile t fun k => { k with ucieLanes := (s.boot.config.ucieLanes.filter fun x => x.1 = t).map (·.2) }
  s.repairList.foldl (fun s e =>
    if e.1 = 2 && e.2 / 128 = t then s.modTile t fun k => { k with ucieDisabled := setBit k.ucieDisabled (e.2 % 128) true } else s) s

/-- Modules of a tile's UCIe link: its mask in ucieDisabled. -/
def ucieMask (d : BitVec 72) (link : Nat) : Nat := if link = 2 then fld d 64 8 else fld d (32 * link) 32

/-- R12: the rate of a tile's UCIe link in GT/s. -/
def Tile.ucieRate (k : Tile) (link : Nat) : Nat :=
  if link = 2 then (if k.ucie32 then 32 else 16) else if k.ucieSlow.getLsbD link then 16 else 32

/-- R12, R463: modules that fail training are disabled and enter the repair record; a link that fails at 32 GT/s runs at 16; each link
that changed writes UCIE_DEGRADED. -/
def State.degradeUcie (s : State) (t : Nat) (bad slow : List Nat) : State :=
  let old := s.tile t
  let bad := bad.filter fun m => !old.ucieDisabled.getLsbD m
  let s := bad.foldl (fun s m =>
    (s.modTile t fun k => { k with ucieDisabled := setBit k.ucieDisabled m true }).repairEntry 2 (t * 128 + m)) s
  let s := slow.foldl (fun s l => s.modTile t fun k =>
    if l = 2 then { k with ucie32 := false } else { k with ucieSlow := setBit k.ucieSlow l true }) s
  let k := s.tile t
  (List.range 3).foldl (fun s l =>
    if ucieMask k.ucieDisabled l = ucieMask old.ucieDisabled l && !slow.contains l then s else
    s.record t { typ := 0x0C, cls := 3, source := t, unit := unitOf 0x0B t
                 payload := pack [(0, 1, l), (1, 1, k.ucieRate l), (4, 4, ucieMask k.ucieDisabled l)] }) s

/-! ## The capability handshake (R404, R405) -/

/-- R404: whether a word has the section's minimum FLOOR_VER. -/
def ConfigImage.verOk (c : ConfigImage) (w : BitVec 32) : Bool := decide (c.floorMin ≤ fld w 8 8)

/-- R404: whether flags contain the section's mandatory mask. -/
def ConfigImage.flagsOk (c : ConfigImage) (w : BitVec 32) : Bool := decide (w &&& c.mandatory = c.mandatory)

/-- R404: whether a die with word w is admitted beside a hub with word h. -/
def ConfigImage.admits (c : ConfigImage) (h w : BitVec 32) : Bool :=
  c.pairs.contains (fld h 0 8, fld w 0 8) && c.verOk w && c.flagsOk (h &&& w)

/-- R404: HUB_CAPS for a hub and the admitted dies. -/
def packageCaps (h : BitVec 32) (ws : List (BitVec 32)) : BitVec 32 :=
  let ver := ws.foldl (fun v w => Nat.min v (fld w 8 8)) (fld h 8 8)
  let flags := ws.foldl (fun f w => f &&& w) h
  BitVec.ofNat 32 (fld h 0 8 + ver * 256 + fld flags 16 2 * 65536)

/-- R404: the rate of a tile's hub link. -/
def hubLink32 (h w : BitVec 32) : Bool := bit h 16 && bit w 16

/-! ## Measurements (R413) -/

/-- R413: M := SHA3-256(M ‖ v). -/
def State.extend (s : State) (n : Nat) (v : BitVec 256) : State :=
  let m : BitVec 256 := kget 0 s.boot.meas n
  s.modBoot fun b => { b with meas := kset b.meas n (digest (sha3 (leBytes 32 m.toNat ++ leBytes 32 v.toNat))) }

/-- R413: HUB_CAPS followed by the dies' words, absent dies as zero. -/
def State.capsBytes (s : State) : List Byte :=
  leBytes 4 s.boot.caps.toNat ++ (List.range 12).flatMap fun d =>
    leBytes 4 (if s.boot.admitted.getLsbD d then (kget (0 : BitVec 32) s.boot.dieCaps d).toNat else 0)

/-! ## The CRC commit of boot and of a die reset (R434, R436) -/

/-- R436: a window is committed, and CHECK and ACTION are set from the image once the commit completes. -/
def State.bootCommit (s : State) (w : Window) : State :=
  s.modCrc w fun c => { c with pending := true, commitAt := s.ticks, arm := some (s.boot.config.check, s.boot.config.action) }

/-- R404: the word that a die reports is kept in HUB_DIE_CAPS_d, whether or not the die is admitted. -/
def State.noteCaps (s : State) (d : Nat) (w : BitVec 32) : State :=
  s.modBoot fun b => { b with dieCaps := kset b.dieCaps d (w &&& 0x3FFFF) }

/-- R402, R392: a die and its tile come up: the words' flags, the clocks and the loaded timestamp counter (R25). -/
def State.bringUp (s : State) (d : Nat) (w : BitVec 32) : State :=
  let s := s.modDie d fun k => { k with pll := true, time := s.hub.time, timeLoaded := true }
  let s := s.modTile d fun k => { k with ucie32 := hubLink32 s.boot.hubWord w, up := true }
  ((s.mapCores d).repairUcie d).setStep d

/-- R402 step 7, R392 step 4: last-level memory and stream detector of a tile as the image has them. -/
def State.configureTile (s : State) (t : Nat) : State :=
  let c := s.boot.config
  let s := s.modTile t fun k => { k with classMask := c.classMasks.foldl (fun m x => kset m x.1 x.2) k.classMask
                                         streamEnable := c.streamEnable }
  (s.setLlmEnable t c.llmEnable).noteC (.tile (Fin.ofNat 12 t))

end Sys2Proof.Machine
end

