-- ==== Sys2Proof/Machine/RegMap.lean ====
section
/-! DEFINITION. The register map (R439, Tables 14.8 to 14.10): which register lies at an offset of a window, its fields, what it
reads, and what a write of it does (R423). -/

namespace Sys2Proof.Machine

/-- The registers of a hub, tile or die window. -/
inductive Reg where
  | crc (k : Nat)
  -- hub
  | hubTime | bootStatus | lease | hubCaps | dieCaps (d : Nat) | sideband | attn | hostViol | hubSat
  | hostStatus | winCtl | ring (r k : Nat) | msix (w : Nat) | pba
  | pwrCtl | pwrLimit | pwrMeas | pwrStatus | pwrEvent | pwrDie (d : Nat) | pwrEnergy (d c : Nat) | pwrEnergyHub
  | invVa | invCtl | invDone
  | meas (n w : Nat) | nonce (w : Nat) | attCtl | debugState | debugNonce (w : Nat) | attBuf (w : Nat)
  -- hub and tile: the error ring
  | err (k : Nat) | errRec (slot w : Nat)
  -- tile
  | llmCtl | classMask (c : Nat) | streamCtl | sliceCfg (j : Nat) | iset (n k : Nat)
  | hotBase | hotCtl | hotWrite | hotRead | hotDrops | dramStage | flrSat | protoErr
  | link (j k : Nat) | lnkCnt (j k : Nat) | lnkSelf | msgTable | lnkSlow | modRoute (m : Nat) | podRoute (p : Nat)
  -- die
  | dieTime | corePresent (k : Nat) | satCell (n : Nat) | satRegion (r : Nat) | corePosition (i : Nat) | coreTimeout (i : Nat)
deriving DecidableEq, Repr

/-- Registers of stride size from base, n of them, each of size bytes at the start of its stride. -/
def slotAt (off base stride n : Nat) : Option Nat :=
  if base ≤ off && off < base + stride * n && (off - base) % stride = 0 then some ((off - base) / stride) else none

/-- The ring registers (Table 10.6). -/
def ringReg (off : Nat) : Option Reg :=
  let k := off % 0x40
  let ok := k % 8 = 0 && k < 0x30
  if 0x10100 ≤ off && off < 0x10130 then (if ok then some (.ring 32 (k / 8)) else none)
  else if 0x11000 ≤ off && off < 0x11800 then (if ok then some (.ring ((off - 0x11000) / 0x40) (k / 8)) else none)
  else none

/-- Table 14.8, and the tables it names. -/
def hubReg (off : Nat) : Option Reg :=
  match off with
  | 0x10 => some .hubTime | 0x100 => some .bootStatus | 0x108 => some .lease | 0x110 => some .hubCaps | 0x200 => some .sideband
  | 0x1000 => some .attn | 0x1008 => some .hostViol | 0x1010 => some .hubSat | 0x10000 => some .hostStatus | 0x10010 => some .winCtl
  | 0x18400 => some .pba | 0x20000 => some .pwrCtl | 0x20008 => some .pwrLimit | 0x20010 => some .pwrMeas | 0x20018 => some .pwrStatus
  | 0x20020 => some .pwrEvent | 0x20380 => some .pwrEnergyHub | 0x42000 => some .invVa | 0x42008 => some .invCtl
  | 0x42010 => some .invDone | 0x50120 => some .attCtl | 0x50128 => some .debugState
  | _ =>
    ((slotAt off 0x180 8 12).map .dieCaps).orElse fun _ =>
    ((slotAt off 0xF00 8 6).map .crc).orElse fun _ =>
    (ringReg off).orElse fun _ =>
    ((slotAt off 0x18000 4 132).map .msix).orElse fun _ =>
    ((slotAt off 0x20100 8 12).map .pwrDie).orElse fun _ =>
    (((slotAt off 0x20200 8 48).bind fun i => if i % 4 < 3 then some (.pwrEnergy (i / 4) (i % 4)) else none)).orElse fun _ =>
    ((slotAt off 0x30000 8 5).map .err).orElse fun _ =>
    ((slotAt off 0x31000 8 2048).map fun i => .errRec (i / 8) (i % 8)).orElse fun _ =>
    ((slotAt off 0x50000 8 32).map fun i => .meas (i / 4) (i % 4)).orElse fun _ =>
    ((slotAt off 0x50100 8 4).map .nonce).orElse fun _ =>
    ((slotAt off 0x50140 8 4).map .debugNonce).orElse fun _ => (slotAt off 0x51000 8 1024).map .attBuf

/-- The registers of a link's window (Tables 9.17 to 9.19). -/
def linkReg (off : Nat) : Option Reg :=
  let j := (off - 0x20000) / 0x400
  let k := off % 0x400
  if k = 0 || k = 8 || k = 16 then some (.link j (k / 8)) else (slotAt k 0x40 8 10).map (.lnkCnt j)

/-- Table 14.9. -/
def tileReg (off : Nat) : Option Reg :=
  match off with
  | 0x4000 => some .llmCtl | 0x4040 => some .streamCtl | 0x6000 => some .hotBase | 0x6008 => some .hotCtl | 0x6010 => some .hotWrite
  | 0x6018 => some .hotRead | 0x6020 => some .hotDrops | 0x6100 => some .dramStage | 0x7000 => some .flrSat | 0x7008 => some .protoErr
  | 0x30000 => some .lnkSelf | 0x30008 => some .msgTable | 0x30010 => some .lnkSlow
  | _ =>
    if 0x20000 ≤ off && off < 0x22000 then linkReg off else
    ((slotAt off 0xF00 8 6).map .crc).orElse fun _ =>
    ((slotAt off 0x4010 4 7).map .classMask).orElse fun _ =>
    ((slotAt off 0x4800 4 128).map .sliceCfg).orElse fun _ =>
    ((slotAt off 0x5000 8 128).bind fun i => if i % 4 < 3 then some (.iset (i / 4) (i % 4)) else none).orElse fun _ =>
    ((slotAt off 0x7100 8 5).map .err).orElse fun _ =>
    ((slotAt off 0x8000 8 512).map fun i => .errRec (i / 8) (i % 8)).orElse fun _ =>
    ((slotAt off 0x31000 4 128).map .modRoute).orElse fun _ => (slotAt off 0x32000 4 1024).map .podRoute

/-- Table 14.10. -/
def dieReg (off : Nat) : Option Reg :=
  match off with
  | 0x10 => some .dieTime | 0x1000 => some (.corePresent 0) | 0x1008 => some (.corePresent 1)
  | _ =>
    ((slotAt off 0xF00 8 6).map .crc).orElse fun _ =>
    ((slotAt off 0x2000 8 16).map .satCell).orElse fun _ =>
    ((slotAt off 0x2080 8 4).map .satRegion).orElse fun _ =>
    ((slotAt off 0x80000 0x1000 128).map .corePosition).orElse fun _ => (slotAt off 0x80040 0x1000 128).map .coreTimeout

/-- The register whose first byte lies at an offset of a window. -/
def regAt (w : Window) (off : Nat) : Option Reg := match w with
  | .hub => hubReg off
  | .tile _ => tileReg off
  | .die _ => dieReg off

/-- Whether a register has 64 bits. -/
def Reg.wide : Reg → Bool
  | .crc k => k = 5
  | .hubCaps | .dieCaps _ | .sideband | .attn | .msix _ => false
  | .ring _ k => k ≠ 1
  | .pwrCtl | .pwrLimit | .pwrStatus | .pwrEvent | .pwrDie _ => false
  | .invDone | .attCtl | .debugState => false
  | .err k => k ≠ 3
  | .llmCtl | .classMask _ | .streamCtl | .sliceCfg _ | .hotCtl | .dramStage | .lnkSlow | .modRoute _ | .podRoute _ => false
  | .link _ k => k = 1
  | .corePosition _ | .coreTimeout _ => false
  | .hubTime | .bootStatus | .lease | .hostViol | .hubSat | .hostStatus | .winCtl | .pba | .pwrMeas | .pwrEnergy _ _
  | .pwrEnergyHub | .invVa | .invCtl | .meas _ _ | .nonce _ | .debugNonce _ | .attBuf _ | .errRec _ _ | .iset _ _ | .hotBase
  | .hotWrite | .hotRead | .hotDrops | .flrSat | .protoErr | .lnkCnt _ _ | .lnkSelf | .msgTable | .dieTime | .corePresent _
  | .satCell _ | .satRegion _ => true

/-- Access codes that a write heeds (Table 0.4). -/
inductive Code where
  | rw | wo | sq
deriving DecidableEq, Repr

/-- A field that a write reaches: its place, its code, whether it is configuration-class, and its range (R425). -/
structure RegField where
  lo : Nat
  len : Nat
  code : Code := .rw
  conf : Bool := false
  min : Nat := 0
  max : Option Nat := none
deriving DecidableEq, Repr

/-- The fields of a register that writes reach. -/
def Reg.fields : Reg → List RegField
  | .crc k => match k with
    | 0 => [{ lo := 0, len := 1 }, { lo := 1, len := 3, max := some 3 }, { lo := 4, len := 1, code := .wo }]
    | 1 => [{ lo := 0, len := 32 }]
    | 4 => [{ lo := 0, len := 16, code := .sq }]
    | _ => []
  | .sideband => [{ lo := 16, len := 16, code := .sq }]
  | .winCtl => [{ lo := 0, len := 1 }, { lo := 1, len := 4 }, { lo := 32, len := 20 }]
  | .ring _ k => match k with
    | 0 => [{ lo := 12, len := 52 }]
    | 1 => [{ lo := 0, len := 1 }, { lo := 1, len := 5, min := 6, max := some 16 }, { lo := 6, len := 1 }, { lo := 7, len := 8 }]
    | 2 => [{ lo := 0, len := 64 }]
    | _ => []
  | .msix _ => [{ lo := 0, len := 32 }]
  | .pwrCtl => [{ lo := 0, len := 1, conf := true }, { lo := 1, len := 11, conf := true, min := 50, max := some 2000 },
      { lo := 12, len := 1, code := .wo }, { lo := 13, len := 1, code := .wo }]
  | .pwrEvent => [{ lo := 0, len := 16, code := .sq }]
  | .invVa => [{ lo := 12, len := 45 }]
  | .invCtl => [{ lo := 0, len := 16 }, { lo := 16, len := 5 }, { lo := 21, len := 2 }, { lo := 24, len := 12 }, { lo := 48, len := 16 }]
  | .nonce _ => [{ lo := 0, len := 64 }]
  | .attCtl => [{ lo := 0, len := 1, code := .wo }]
  | .err k => match k with
    | 1 => [{ lo := 0, len := 64 }]
    | 3 => [{ lo := 0, len := 16, code := .sq }]
    | _ => []
  | .llmCtl => [{ lo := 0, len := 1, conf := true }]
  | .classMask _ => [{ lo := 0, len := 16, conf := true }]
  | .streamCtl => [{ lo := 0, len := 1, conf := true }, { lo := 1, len := 10, conf := true, min := 16 },
      { lo := 11, len := 5, conf := true, min := 8, max := some 16 }]
  | .sliceCfg _ => [{ lo := 0, len := 16, conf := true }]
  | .iset _ k => match k with
    | 0 => [{ lo := 0, len := 1, conf := true }, { lo := 1, len := 1, conf := true }, { lo := 2, len := 1, conf := true },
        { lo := 3, len := 1, conf := true }, { lo := 4, len := 12, conf := true }, { lo := 16, len := 11, conf := true },
        { lo := 30, len := 22, conf := true }]
    | 1 => { lo := 0, len := 4, conf := true, min := 1, max := some 12 } ::
        (List.range 12).map fun i => { lo := 4 + 4 * i, len := 4, conf := true }
    | _ => [{ lo := 0, len := 8, conf := true }]
  | .hotBase => [{ lo := 12, len := 40, conf := true }]
  | .hotCtl => [{ lo := 0, len := 1, conf := true }, { lo := 1, len := 5, conf := true, min := 8, max := some 20 },
      { lo := 6, len := 5, conf := true, max := some 20 }]
  | .hotRead => [{ lo := 0, len := 64 }]
  | .link _ k => match k with
    | 0 => [{ lo := 0, len := 1, conf := true }, { lo := 1, len := 1, code := .wo }, { lo := 2, len := 2, conf := true },
        { lo := 4, len := 1, code := .wo }]
    | 2 => [{ lo := 0, len := 16, code := .sq }]
    | _ => []
  | .msgTable => [{ lo := 0, len := 1, conf := true }, { lo := 6, len := 46, conf := true }]
  | .modRoute _ | .podRoute _ => { lo := 0, len := 3, conf := true, max := some 4 } ::
      (List.range 4).map fun i => { lo := 3 + 7 * i, len := 7, conf := true, max := some 95 }
  | .coreTimeout _ => [{ lo := 0, len := 6, conf := true, min := 20, max := some 40 }, { lo := 8, len := 5, conf := true, min := 12, max := some 20 }]
  | .hubTime | .bootStatus | .lease | .hubCaps | .dieCaps _ | .attn | .hostViol | .hubSat | .hostStatus | .pba | .pwrLimit
  | .pwrMeas | .pwrStatus | .pwrDie _ | .pwrEnergy _ _ | .pwrEnergyHub | .invDone | .meas _ _ | .debugState | .debugNonce _
  | .attBuf _ | .errRec _ _ | .hotWrite | .hotDrops | .dramStage | .flrSat | .protoErr | .lnkCnt _ _ | .lnkSelf | .lnkSlow
  | .dieTime | .corePresent _ | .satCell _ | .satRegion _ | .corePosition _ => []

/-- R428: the registers whose write starts an action. -/
def Reg.wideOnly : Reg → Bool
  | .invCtl => true
  | _ => false

/-! ## Reading -/

/-- The number of a list of bit fields: (place, value). -/
def joinFields (l : List (Nat × Nat)) : Nat := l.foldl (fun v x => v + x.2 * 2 ^ x.1) 0

def flag (b : Bool) : Nat := if b then 1 else 0

/-- R431: whether an SQ field is pending. -/
def ErrRing.pending (e : ErrRing) : Bool := decide (e.seq ≠ e.acked)
def CrcRegs.eventPending (c : CrcRegs) : Bool := decide (c.seq ≠ c.acked)

/-- R432: HUB_ATTN. -/
def State.attention (s : State) : Nat :=
  let die := fun (d : Nat) =>
    let k := s.tile d
    k.crc.eventPending || k.errs.pending || (s.die d).crc.eventPending ||
    (List.range 8).any fun j => let l := s.link (8 * d + j); decide (l.seq ≠ l.acked)
  let hub := s.hub.crc.eventPending || s.hub.errs.pending || decide (s.power.seq ≠ s.power.acked) || decide (s.hub.sideSeq ≠ s.hub.sideAcked)
  joinFields (((List.range 12).map fun d => (d, flag (die d))) ++ [(12, flag hub)])

/-- The counters of Table 9.19, in the order of their offsets. -/
def Link.counter (l : Link) : Nat → BitVec 64
  | 0 => l.corr0 | 1 => l.corr1 | 2 => l.uncorr | 3 => l.replayCnt | 4 => l.retrains | 5 => l.foreign | 6 => l.rejects | 7 => l.nakRx
  | 8 => l.stale | _ => l.creditWait

/-- Table 14.6. -/
def CrcRegs.read (c : CrcRegs) : Nat → Nat
  | 0 => joinFields [(0, flag c.check), (1, c.action.toNat)]
  | 1 => c.ref.toNat
  | 2 => c.value.toNat
  | 3 => joinFields [(0, flag c.dirty), (1, flag c.pending), (2, flag c.mismatch)]
  | 4 => c.seq.toNat
  | _ => c.reject.toNat

/-- Table 15.5. -/
def ErrRing.register (e : ErrRing) : Nat → Nat
  | 0 => e.write.toNat
  | 1 => e.read.toNat
  | 2 => e.overflow.toNat
  | 3 => joinFields [(0, e.seq.toNat), (16, e.lastType.toNat)]
  | _ => e.ce.toNat

/-- Table 10.6. -/
def State.readRing (s : State) (r : Nat) : Nat → Nat
  | 0 => (s.ring r).base.toNat
  | 1 => let k := s.ring r; joinFields [(0, flag k.enable), (1, k.log2.toNat), (6, flag k.intEn), (7, k.modUs.toNat)]
  | 2 => (s.ring r).read.toNat
  | 3 => (s.ring r).write.toNat
  | 4 => (s.ring r).epochSeq.toNat
  | _ => let k := s.ring r; if r = 32 then k.drops.toNat else joinFields [(0, k.backlog.length), (10, flag (decide (256 ≤ k.backlog.length)))]

/-- What a register reads. -/
def State.regValue (s : State) (w : Window) (r : Reg) : Nat :=
  let t := w.ring
  let k := s.tile t
  let h := s.hub
  let p := s.power
  match r with
  | .crc n => (s.crcOf w).read n
  | .hubTime => h.time.toNat
  | .bootStatus =>
    let b := s.boot
    joinFields [(0, b.stage), (4, b.error), (8, b.fwSlot), (9, b.cfgCopy), (10, flag b.diverge), (11, flag b.abandoned), (12, b.admitted.toNat), (32, b.count.toNat)]
  | .lease => joinFields [(0, s.velvet.epoch.toNat), (32, s.velvet.holder), (33, (kget 0 s.boot.wardens 0).toNat), (36, (kget 0 s.boot.wardens 1).toNat)]
  | .hubCaps => s.boot.caps.toNat
  | .dieCaps d => (kget (0 : BitVec 32) s.boot.dieCaps d).toNat
  | .sideband =>
    let v := s.velvet
    joinFields [(0, flag v.perstN), (1, flag v.coolOk), (2, flag v.brakeN), (3, v.chatter.toNat), (6, h.slotId.toNat), (12, flag (h.strap ≠ h.slotId)), (16, h.sideSeq.toNat)]
  | .attn => s.attention
  | .hostViol => s.host.violations.toNat
  | .hubSat => h.sat.toNat
  | .hostStatus => joinFields [(0, s.host.epoch.toNat), (16, flag s.host.linkUp), (17, flag s.host.posting), (18, s.host.lastReset.toNat)]
  | .winCtl => s.host.win.toNat
  | .ring n i => s.readRing n i
  | .msix i => (kget 0 s.host.msixTable i).toNat
  | .pba => joinFields ((List.range 33).map fun v => (v, flag (s.msiPending v)))
  | .pwrCtl => joinFields [(0, flag p.lendAcross), (1, p.ramp.toNat)]
  | .pwrLimit => joinFields [(0, s.velvet.sustained), (12, s.effectiveW)]
  | .pwrMeas => joinFields [(0, p.meas % 65536), (16, p.model % 65536), (32, p.target % 65536)]
  | .pwrStatus => joinFields [(0, flag p.diverge), (1, flag (p.rails.any fun x => x.2.replaced)), (2, flag p.brake), (3, flag p.floor), (4, flag p.fastHeld),
      (5, flag p.coolStop), (6, flag p.rampLimited), (7, flag p.standby), (8, p.coolantStage)]
  | .pwrEvent => joinFields [(0, p.seq.toNat), (16, p.lastCode.toNat)]
  | .pwrDie d => let x := s.pwr d; joinFields [(0, x.n), (7, x.m), (12, x.stage), (16, x.temp % 256), (24, x.cause)]
  | .pwrEnergy d c => kget 0 (s.pwr d).energy c / 1000000
  | .pwrEnergyHub => p.hubEnergy / 1000000
  | .invVa => h.invVa.toNat
  | .invCtl => h.invCtl.toNat
  | .invDone => joinFields [(0, h.doneSeq.toNat), (16, h.invs.length), (21, flag h.refused)]
  | .meas n i => fld (kget (0 : BitVec 256) s.boot.meas n) (64 * i) 64
  | .nonce i => fld s.boot.nonce (64 * i) 64
  | .attCtl => joinFields [(1, flag s.boot.attDone)]
  | .debugState => joinFields [(0, s.boot.debugScope.toNat), (2, s.boot.debugDies.toNat)]
  | .debugNonce i => fld s.boot.debugNonce (64 * i) 64
  | .attBuf i => leNat ((s.boot.attBuf.drop (8 * i)).take 8)
  | .err i => (s.errs t).register i
  | .errRec slot i => fld (kget 0 (s.errs t).recs slot) (64 * i) 64
  | .llmCtl => flag k.llmEnable
  | .classMask c => (kget 0 k.classMask c).toNat
  | .streamCtl => joinFields [(0, flag k.streamEnable), (1, k.threshold.toNat), (11, k.gapExp.toNat)]
  | .sliceCfg j => let x := k.slice j; joinFields [(0, x.target.toNat), (16, flag (x.conv.isSome || decide (x.scratch ≠ x.target)))]
  | .iset n i => let x := k.iset n; (match i with | 0 => x.cfg | 1 => x.tiles | _ => x.local_).toNat
  | .hotBase => k.hot.base.toNat
  | .hotCtl => joinFields [(0, flag k.hot.enable), (1, k.hot.sizeLog2.toNat), (6, k.hot.rate.toNat)]
  | .hotWrite => k.hot.write.toNat
  | .hotRead => k.hot.read.toNat
  | .hotDrops => k.hot.drops.toNat
  | .dramStage =>
    let d := fun (n : Nat) => (kget {} k.drams n : Dram)
    joinFields [(0, (d 0).stage.toNat), (3, (d 1).stage.toNat), (6, (d 2).stage.toNat), (16, (d 0).temp % 256)]
  | .flrSat => k.sat.toNat
  | .protoErr => k.protoErr.toNat
  | .link j i =>
    let l := s.link (8 * t + j)
    match i with
    | 0 => joinFields [(0, flag l.enable), (2, l.laneEn.toNat)]
    | 1 => joinFields [(0, l.state.code), (3, l.lanes.toNat), (5, l.decom.toNat), (7, l.mismatch.toNat), (10, l.peerSlow.toNat), (12, flag l.peerStopped),
        (16, l.peerSelf.toNat)]
    | _ => joinFields [(0, l.seq.toNat), (16, l.lastState.toNat)]
  | .lnkCnt j i => ((s.link (8 * t + j)).counter i).toNat
  | .lnkSelf => joinFields [(0, (s.selfAddr t).toNat), (32, (s.pidOf t).toNat)]
  | .msgTable => k.msgTable.toNat
  | .lnkSlow => joinFields [(0, s.slowOf (s.partOf t)), (2, flag (s.stoppedNow (s.partOf t)))]
  | .modRoute m => (kget 0 k.modRoutes m).toNat
  | .podRoute m => (kget 0 k.podRoutes m).toNat
  | .dieTime => let x := s.die t; if x.timeLoaded then x.time.toNat else 0
  | .corePresent i => joinFields ((List.range 64).map fun b => (b, flag (s.core (t * 128 + 64 * i + b)).present))
  | .satCell n => (kget 0 (s.die t).satCell n).toNat
  | .satRegion n => (kget 0 (s.die t).satRegion n).toNat
  | .corePosition i => (s.core (t * 128 + i)).position.toNat
  | .coreTimeout i => let c := s.core (t * 128 + i); joinFields [(0, c.barrierExp.toNat), (8, c.remoteExp.toNat)]

/-! ## Writing -/

/-- R469: the causes of ALERT_N that an acknowledgement ends: a power event, a CRC event of ACTION 2 or 3. -/
def State.settleAlert (s : State) : State :=
  let crcs := s.hub.crc :: ((List.range 12).map fun t => (s.tile t).crc) ++ (List.range 12).map fun d => (s.die d).crc
  let a := crcs.any fun c => c.eventPending && decide (2 ≤ c.action.toNat)
  (s.modHub fun h => { h with alert := setBit (if s.power.seq = s.power.acked then setBit h.alert 1 false else h.alert) 2 a }).alertErrors

/-- R431: a value written to the SQ field of a register: the present SEQ acknowledges it. -/
def State.ackReg (s : State) (w : Window) (r : Reg) (v : BitVec 16) : State :=
  let t := w.ring
  let s := match r with
    | .crc _ => s.modCrc w fun c => if v = c.seq then { c with acked := v } else c
    | .sideband => s.modHub fun h => if v = h.sideSeq then { h with sideAcked := v } else h
    | .pwrEvent => s.modPower fun p => if v = p.seq then { p with acked := v } else p
    | .err _ => s.modErrs t fun e => if v = e.seq then { e with acked := v } else e
    | .link j _ => s.modLink (8 * t + j) fun l => if v = l.seq then { l with acked := v } else l
    | _ => s
  s.settleAlert

/-- R413: GO accepted: an attestation takes the nonce. -/
def State.startAttest (s : State) : State :=
  if s.boot.attBusy.isSome then s else s.modBoot fun b => { b with attDone := false, attBusy := some b.nonce }

/-- A bank of the boot registers: its 64-bit word i. -/
def setWord (v : BitVec 256) (i x : Nat) : BitVec 256 := setFld v (64 * i) 64 x

/-- R423: what a register's RW fields, now v, and its WO fields, written as wo, do. A register with neither does nothing. The hotness count
(R231) begins at 0 where ENABLE of FLR_HOT_CTL goes from 0 to 1 (DESIGN CHOICE, log 100). -/
def State.applyReg (s : State) (w : Window) (r : Reg) (v wo : Nat) : State :=
  let t := w.ring
  let b64 : BitVec 64 := BitVec.ofNat 64 v
  match r with
  | .crc 0 =>
    let s := s.modCrc w fun c => { c with check := decide (v % 2 = 1), action := BitVec.ofNat 3 (fldN v 1 3) }
    if fldN wo 4 1 = 1 then s.modCrc w fun c => { c with pending := true, commitAt := s.ticks } else s
  | .crc 1 => s.modCrc w fun c => { c with ref := BitVec.ofNat 32 v, dirty := false, pending := false }
  | .winCtl => s.modHost fun h => { h with win := b64 }
  | .ring n 0 => s.modRing n fun k => { k with base := b64 }
  | .ring n 1 => s.setRingCtl n v
  | .ring n 2 => s.modRing n fun k => { k with read := b64 }
  | .msix i => s.modHost fun h => { h with msixTable := kset h.msixTable i (BitVec.ofNat 32 v) }
  | .pwrCtl =>
    let s := s.modPower fun p => { p with lendAcross := decide (v % 2 = 1), ramp := BitVec.ofNat 11 (fldN v 1 11) }
    let s := if fldN wo 12 1 = 0 then s
      else if s.standbyRefused then s.rangeReject .hub 0x20000 (v + wo)
      else if s.power.standby then s else s.enterStandby
    if fldN wo 13 1 = 1 then s.leaveStandby else s
  | .invVa => s.modHub fun h => { h with invVa := b64 }
  | .invCtl => s.startInvalidation v
  | .nonce i => s.modBoot fun b => { b with nonce := setWord b.nonce i v }
  | .attCtl => if wo % 2 = 1 then s.startAttest else s
  | .err 1 => s.modErrs t fun e => { e with read := b64 }
  | .llmCtl => s.setLlmEnable t (decide (v % 2 = 1))
  | .classMask c => s.modTile t fun k => { k with classMask := kset k.classMask c (BitVec.ofNat 16 v) }
  | .streamCtl => s.setStreamCtl t v
  | .sliceCfg j => s.setScratchWays t j (BitVec.ofNat 16 v)
  | .iset n 0 => s.modTile t fun k => { k with isets := kmod {} k.isets n fun i => { i with cfg := b64 } }
  | .iset n 1 => s.modTile t fun k => { k with isets := kmod {} k.isets n fun i => { i with tiles := b64 } }
  | .iset n _ => s.modTile t fun k => { k with isets := kmod {} k.isets n fun i => { i with local_ := b64 } }
  | .hotBase => s.modTile t fun k => { k with hot := { k.hot with base := b64 } }
  | .hotCtl => s.modTile t fun k =>
    let on := decide (v % 2 = 1)
    let h : Hot := { k.hot with enable := on, sizeLog2 := BitVec.ofNat 5 (fldN v 1 5), rate := BitVec.ofNat 5 (fldN v 6 5) }
    { k with hot := if on && !k.hot.enable then { h with count := 0 } else h }
  | .hotRead => s.modTile t fun k => { k with hot := { k.hot with read := b64 } }
  | .link j 0 =>
    let l := 8 * t + j
    let s := s.setLaneEn l (BitVec.ofNat 2 (fldN v 2 2))
    let s := if (s.link l).enable = decide (v % 2 = 1) then s else s.setEnable l (decide (v % 2 = 1))
    let s := if fldN wo 1 1 = 1 then s.writeRetrain l else s
    if fldN wo 4 1 = 1 then s.laneReenable l else s
  | .msgTable => s.modTile t fun k => { k with msgTable := b64 }
  | .modRoute m => s.modTile t fun k => { k with modRoutes := kset k.modRoutes m (BitVec.ofNat 32 v) }
  | .podRoute m => s.modTile t fun k => { k with podRoutes := kset k.podRoutes m (BitVec.ofNat 32 v) }
  | .coreTimeout i => s.modCore (t * 128 + i) fun c => { c with barrierExp := BitVec.ofNat 6 (fldN v 0 6), remoteExp := BitVec.ofNat 5 (fldN v 8 5) }
  | _ => s

/-- R214: a write to a register of a set is reported where it leaves two valid sets of the tile overlapping. -/
def State.checkOverlap (s : State) (w : Window) (r : Reg) (off v : Nat) : State :=
  match r with
  | .iset n _ => s.setOverlap w.ring n off v
  | _ => s

/-! ## A write and a read (R419 to R428) -/

def RegField.of (f : RegField) (v : Nat) : Nat := fldN v f.lo f.len

/-- R425: whether a value is in a field's range. -/
def RegField.ok (f : RegField) (x : Nat) : Bool := decide (f.min ≤ x) && (match f.max with
  | none => true
  | some m => decide (x ≤ m))

/-- R423 to R425, R434: the bits of a register that mask names take their values in v. -/
def State.writeReg (s : State) (w : Window) (r : Reg) (off v mask : Nat) : State :=
  let old := s.regValue w r
  let touched := fun (f : RegField) => decide (f.of mask ≠ 0)
  let cand := fun (f : RegField) => f.of (v &&& mask) + (f.of old - f.of (old &&& mask))
  let rw := r.fields.filter fun f => f.code = .rw
  let taken := fun (f : RegField) => touched f && f.ok (cand f)
  let new := joinFields (rw.map fun f => (f.lo, if taken f then cand f else f.of old))
  let wo := joinFields ((r.fields.filter fun f => f.code = .wo).map fun f => (f.lo, f.of (v &&& mask)))
  let s := if rw.any fun f => touched f && !f.ok (cand f) then s.rangeReject w off v else s
  let s := if rw.any fun f => f.conf && taken f then s.noteC w else s
  let s := if rw.any taken || wo ≠ 0 then (s.applyReg w r new wo).checkOverlap w r off v else s
  match r.fields.find? fun f => f.code = .sq && f.of mask = 0xFFFF with
  | some f => s.ackReg w r (BitVec.ofNat 16 (f.of v))
  | none => s

/-- The register that holds the 4 bytes at an offset, and its own offset. -/
def wordReg (w : Window) (off : Nat) : Option (Reg × Nat) :=
  match regAt w off with
  | some r => some (r, off)
  | none => if off % 8 = 4 then
      match regAt w (off - 4) with
      | some r => if r.wide then some (r, off - 4) else none
      | none => none
    else none

/-- A write of 4 bytes (R420, R428). -/
def State.write4 (s : State) (w : Window) (off v : Nat) : State :=
  match wordReg w off with
  | none => s.regReject w
  | some (r, base) =>
    if r.wideOnly then s.regReject w
    else if base = off then s.writeReg w r base (v % 2 ^ 32) (2 ^ 32 - 1)
    else s.writeReg w r base (v % 2 ^ 32 * 2 ^ 32) ((2 ^ 32 - 1) * 2 ^ 32)

/-- A write of 8 bytes. -/
def State.write8 (s : State) (w : Window) (off v : Nat) : State :=
  match regAt w off with
  | some r => if r.wide then s.writeReg w r off v (2 ^ 64 - 1) else (s.write4 w off v).write4 w (off + 4) (v / 2 ^ 32)
  | none => (s.write4 w off v).write4 w (off + 4) (v / 2 ^ 32)

/-- What 4 bytes at an offset read. -/
def State.read4 (s : State) (w : Window) (off : Nat) : Nat :=
  match wordReg w off with
  | none => 0
  | some (r, base) => fldN (s.regValue w r) (if base = off then 0 else 32) 32

/-- R427, R438: whether the counter of a saturation register counts in the cycle after this one. Whether a request of a cell or region waits
then is free, as the waits of countCores are (log 11). -/
def State.countsNext (s : State) (w : Window) (r : Reg) : Bool :=
  let may := decide (s.draw.1.toNat % 2 = 1)
  let d := s.die w.ring
  let runs := d.pll && !d.pllFailed && decide (0 < (s.pwr w.ring).n)
  match r with
  | .hubSat => s.reqWaits 12
  | .flrSat => s.reqWaits w.ring || s.withholds w.ring
  | .satCell n => may && runs && s.xbarCells.contains (w.ring * 16 + n)
  | .satRegion n => may && runs && s.portRegions.contains (w.ring * 4 + n)
  | .lnkCnt l 9 => let k := s.link (w.ring * 8 + l); k.state = .active && k.txq.any fun f => k.credit f.vc.toNat < f.need
  | _ => false

/-- R427: the high half that an 8-byte read captures: that of a counter is captured one cycle of its clock after the low half. Those that
count events count none between the two (log 89). -/
def State.highHalf (s : State) (w : Window) (off : Nat) : Nat :=
  match regAt w off with
  | some .hubTime => (s.hub.time.toNat + 1) / 2 ^ 32 % 2 ^ 32
  | some .dieTime => let x := s.die w.ring; if x.timeLoaded then (x.time.toNat + 1) / 2 ^ 32 % 2 ^ 32 else 0
  | some r => if s.countsNext w r then Nat.min (s.read4 w off + 2 ^ 32 * s.read4 w (off + 4) + 1) (2 ^ 64 - 1) / 2 ^ 32 else s.read4 w (off + 4)
  | none => s.read4 w (off + 4)

/-- What n bytes, 4 or 8, at an aligned offset read. -/
def State.readReg (s : State) (w : Window) (off n : Nat) : Nat :=
  if n = 8 then s.read4 w off + 2 ^ 32 * s.highHalf w off else s.read4 w off

/-! ## The bit-alias region (R429) -/

/-- A write of one bit: it is one write of the whole register, every other RW bit as it is and every other WO bit 0. -/
def State.writeAlias (s : State) (off b v : Nat) : State :=
  match wordReg .hub off with
  | none => s.regReject .hub
  | some (r, base) =>
    let i := b + 8 * (off - base)
    if r.fields.any fun f => f.code ≠ .sq && f.lo ≤ i && i < f.lo + f.len then
      let old := s.regValue .hub r
      let x := v % 2 * 2 ^ i
      if r.wideOnly then s.writeReg .hub r base (old - fldN old i 1 * 2 ^ i + x) (2 ^ 64 - 1) else s.writeReg .hub r base x (2 ^ i)
    else s.regReject .hub

/-- A read of one bit. -/
def State.readAlias (s : State) (off b : Nat) : Nat := fldN (s.read4 .hub off) b 1

end Sys2Proof.Machine
end

