-- ==== Sys2Proof/Machine/Regs.lean ====
section
/-! DEFINITION. The commands that write registers (R419 to R436), register messages on the floor (R189), and the configuration
check's sweep (R433 to R436). Every row that writes one named register is the same write of that register. -/

namespace Sys2Proof

/-- Where a window begins in register space (Table 1.9). -/
def Window.base : Window → Nat
  | .hub => 0
  | .tile t => 0x1000000 + t * 0x100000
  | .die d => 0x2000000 + d * 0x100000

end Sys2Proof

namespace Sys2Proof.Machine

/-- Whether an agent's access comes to the hub at all: the hub runs, and the tray host's function is reachable (R323, R325). -/
def State.accessReaches (s : State) (a : Agent) : Bool :=
  s.hubUp && (match a with
  | .trayHost => s.host.reachable
  | .hostCore _ => true
  | .warden _ => true
  | .commandProcessor => true)

/-- The window and the offset in it of a place in register space, where it is a window's. -/
def windowAt (off : Nat) : Option (Window × Nat) := match regionOf off with
  | .hub o => some (.hub, o)
  | .tile t o => some (.tile (Fin.ofNat 12 t), o)
  | .die d o => some (.die (Fin.ofNat 12 d), o)
  | .alias_ _ _ => none
  | .doorbell _ => none
  | .none => none

/-- A write of 4 or 8 bytes that Table 14.2 allows, and its answer: 2 where it was refused or discarded, else 0. -/
def State.performWrite (s : State) (off n v : Nat) : State :=
  match regionOf off with
  | .alias_ o b =>
    let t := if n = 4 then s.writeAlias o b v else s.regReject .hub
    t.answerAccess (if t.hub.crc.reject = s.hub.crc.reject then 0 else 2)
  | .doorbell o =>
    let q := o / 4096
    if n = 8 && o % 4096 = 0 then (s.ringDoorbell q (BitVec.ofNat 64 v)).answerAccess 0 else (s.badDoorbellWrite q v).answerAccess 2
  | _ =>
    match windowAt off with
    | none => s.answerAccess 1
    | some (w, o) =>
      let t := if n = 8 then s.write8 w o v else s.write4 w o v
      t.answerAccess (if (t.crcOf w).reject = (s.crcOf w).reject then 0 else 2)

/-- R420, R421, R326: an access that does not reach its register completes with a decode error; the tray host's write is discarded. -/
def State.refuseAccess (s : State) (a : Agent) : State := (match a with
  | .trayHost => s.hostRefused
  | .hostCore _ => s
  | .warden _ => s
  | .commandProcessor => s).answerAccess 1

/-- A write of a register by an agent (R419 to R428). The tray host's misaligned write is a violation (R307); another agent's is
no register access. -/
def State.regWrite (s : State) (a : Agent) (off : Nat) (wide : Bool) (v : Nat) : State :=
  let n := if wide then 8 else 4
  let bell : Bool := match a, regionOf off with
    | .hostCore _, .doorbell _ => true
    | _, _ => false
  if !s.accessReaches a then s
  else if bell then s.performWrite off n (v % 256 ^ n)
  else if off % n ≠ 0 then (match a with
    | .trayHost => s.violateRow 1 true
    | .hostCore _ => s.answerAccess 1
    | .warden _ => s.answerAccess 1
    | .commandProcessor => s.answerAccess 1)
  else if !s.mayReach a off true then s.refuseAccess a
  else s.performWrite off n (v % 256 ^ n)

/-- R429: a read of the bit-alias region of anything but 4 bytes is counted as it is discarded. -/
def State.noteRead (s : State) (off n : Nat) : State := match regionOf off with
  | .alias_ _ _ => if n = 4 then s else s.regReject .hub
  | .hub _ => s
  | .tile _ _ => s
  | .die _ _ => s
  | .doorbell _ => s
  | .none => s

/-- What a register access reads (R420, R421): none where it completes with a decode error. -/
def State.regRead (s : State) (off n : Nat) : Nat :=
  match regionOf off with
  | .alias_ o b => if n = 4 then s.readAlias o b else 0
  | .doorbell o => leNat (s.readDoorbells o n)
  | _ => match windowAt off with
    | none => 0
    | some (w, o) => s.readReg w o n

/-- REGISTER_WRITE (R423): a register without a row of its own, or any other. -/
def execRegisterWrite (a : Agent) (off : BitVec 26) (wide : Bool) (v : BitVec 64) (s : State) : Res :=
  .next (s.regWrite a off.toNat wide v.toNat)

/-- Where a register of a tile stands. -/
def tileOff (t off : Nat) : Nat := 0x1000000 + t * 0x100000 + off

/-- FLR_LLM_SLICE_CFG (R208). -/
def execFlrLlmSliceCfg (a : Agent) (t : Fin 12) (j : Fin 128) (v : BitVec 32) (s : State) : Res :=
  .next (s.regWrite a (tileOff t (0x4800 + 4 * j)) false v.toNat)

/-- FLR_LLM_CTL (R206). -/
def execFlrLlmCtl (a : Agent) (t : Fin 12) (v : BitVec 32) (s : State) : Res := .next (s.regWrite a (tileOff t 0x4000) false v.toNat)

/-- FLR_STREAM_CTL (R209). -/
def execFlrStreamCtl (a : Agent) (t : Fin 12) (v : BitVec 32) (s : State) : Res := .next (s.regWrite a (tileOff t 0x4040) false v.toNat)

/-- HUB_XLAT_INV_CTL (R235, R428). -/
def execHubXlatInvCtl (a : Agent) (wide : Bool) (v : BitVec 64) (s : State) : Res := .next (s.regWrite a 0x42008 wide v.toNat)

/-- Where LNK_CTL of a link stands. -/
def lnkCtlOff (l : Nat) : Nat := tileOff (l / 8) (0x20000 + l % 8 * 0x400)

/-- LNK_CTL's RW fields as they are. -/
def State.lnkCtl (s : State) (l : Nat) : Nat := let k := s.link l; joinFields [(0, flag k.enable), (2, k.laneEn.toNat)]

/-- LNK_CTL_ENABLE (R301): ENABLE written, LANE_EN as it is. -/
def execLnkCtlEnable (a : Agent) (l : Fin 96) (v : BitVec 1) (s : State) : Res :=
  .next (s.regWrite a (lnkCtlOff l) false (v.toNat + (s.link l).laneEn.toNat * 4))

/-- RETRAIN (R272): written as 1. -/
def execRetrain (a : Agent) (l : Fin 96) (s : State) : Res := .next (s.regWrite a (lnkCtlOff l) false (s.lnkCtl l + 2))

/-- LANE_EN (R301). -/
def execLaneEn (a : Agent) (l : Fin 96) (v : BitVec 2) (s : State) : Res :=
  .next (s.regWrite a (lnkCtlOff l) false (flag (s.link l).enable + v.toNat * 4))

/-- LANE_REENABLE (R301): written as 1. -/
def execLaneReenable (a : Agent) (l : Fin 96) (s : State) : Res := .next (s.regWrite a (lnkCtlOff l) false (s.lnkCtl l + 16))

/-- HUB_WIN_CTL (R310): written whole, or one half. -/
def execHubWinCtl (a : Agent) (half : Fin 3) (v : BitVec 64) (s : State) : Res :=
  .next (match half.val with
  | 0 => s.regWrite a 0x10010 true v.toNat
  | 1 => s.regWrite a 0x10010 false v.toNat
  | _ => s.regWrite a 0x10014 false v.toNat)

/-- HUB_HCR_CTL (R315): the CTL of a completion ring, or of the outbox. -/
def execHubHcrCtl (a : Agent) (ring : Fin 33) (v : BitVec 32) (s : State) : Res :=
  .next (s.regWrite a (if ring.val = 32 then 0x10108 else 0x11008 + 0x40 * ring) false v.toNat)

/-- STANDBY (R362): PWR_CTL written with STANDBY at 1 and its other fields as they are. -/
def execStandby (a : Agent) (s : State) : Res := .next (s.regWrite a 0x20000 false (s.regValue .hub .pwrCtl + 0x1000))

/-- WAKE (R362). -/
def execWake (a : Agent) (s : State) : Res := .next (s.regWrite a 0x20000 false (s.regValue .hub .pwrCtl + 0x2000))

/-- GO (R413): SEC_ATTEST_CTL written. -/
def execGo (a : Agent) (v : BitVec 32) (s : State) : Res := .next (s.regWrite a 0x50120 false v.toNat)

/-- BIT_ALIAS_WRITE (R429): off is the offset in the bit-alias region. Anything but an aligned access of 4 bytes is discarded and
counted; of the tray host, one that is no register access at all is a violation (R307). -/
def execBitAliasWrite (a : Agent) (off : BitVec 24) (size : Nat) (v : BitVec 64) (s : State) : Res :=
  let o := 0x3000000 + off.toNat
  if a = .trayHost && ((size ≠ 4 && size ≠ 8) || off.toNat % size ≠ 0) then .next (if s.accessReaches a then s.violateRow 1 true else s)
  else if size = 4 && off.toNat % 4 = 0 then .next (s.regWrite a o false v.toNat)
  else if !s.accessReaches a then .next s
  else if !s.mayReach a o true then .next (s.refuseAccess a)
  else .next ((s.regReject .hub).answerAccess 2)

/-- Where the SQ field of the register at a place in register space stands, 0 where it has none. -/
def sqPlace (off : Nat) : Nat := match windowAt off with
  | none => 0
  | some (w, o) => (((regAt w o).bind fun r => r.fields.find? fun f => f.code = .sq).map (·.lo)).getD 0

/-- SQ_ACKNOWLEDGE (R431): v written back in the SQ field of its register, with zeros beside it. -/
def execSqAcknowledge (a : Agent) (off : BitVec 26) (v : BitVec 16) (s : State) : Res :=
  .next (s.regWrite a off.toNat false (v.toNat * 2 ^ sqPlace off.toNat))

/-- COMMIT (R434): X_CRC_CTL written with COMMIT at 1, CHECK and ACTION as they are. -/
def execCommit (a : Agent) (w : Window) (s : State) : Res := .next (s.regWrite a (w.base + 0xF00) false ((s.crcOf w).read 0 + 16))

/-- REF (R434). -/
def execRef (a : Agent) (w : Window) (v : BitVec 32) (s : State) : Res := .next (s.regWrite a (w.base + 0xF08) false v.toNat)

/-- REGISTER_ACCESS_TIMEOUT (R420): an access to a tile or die window that gets no answer completes with a decode error. -/
def execRegisterAccessTimeout (a : Agent) (w : Window) (s : State) : Res :=
  .next (match w with
  | .hub => s
  | .tile _ => if s.accessReaches a then s.answerAccess 1 else s
  | .die _ => if s.accessReaches a then s.answerAccess 1 else s)

/-- HOST_PROTOCOL_VIOLATION (R326): a request that no other row carries; a BAR0 read that R307 allows is a register
access and no violation (R419 to R421), and one that it does not reach completes with Completer Abort (R30, log 26). -/
def execHostProtocolViolation (v : Violation) (s : State) : Res :=
  let row := v.row.val
  if !s.host.linkUp || s.host.inReset || row = 0 then .next s
  else if row = 1 && v.read && (v.len = 4 || v.len = 8) && v.offset % v.len = 0 then
    .next (if !s.accessReaches .trayHost then s
      else if s.mayReach .trayHost v.offset false then
        (s.noteRead v.offset v.len).completeHost [.data (leBytes v.len (s.regRead v.offset v.len)) false]
      else s.hostRefused.completeHost [.abort])
  else if row = 6 then
    let s := s.violate 6 false v.header.toNat
    .next (if s.host.reachable then s.completeHost [.data (s.readDoorbells v.offset v.len) false] else s)
  else if row = 8 then .next ((s.violate 8 false v.header.toNat).completeHost [.unsupported])
  else if row = 9 || row = 10 then .next (s.violate row (row = 10 && !v.read) v.header.toNat)
  else if row = 3 then .next (s.violate 3 false v.header.toNat)
  else
    let s := s.violate row true v.header.toNat
    .next (if v.read || row = 7 then s.completeHost [.abort] else s)

/-! ## Register messages on the floor (R189, Table 7.4) -/

/-- The agent that sends a register message: the hub has checked its own; a host core's is checked here. -/
def State.floorAgent (m : FloorMsg) : Option Agent :=
  if m.srcTile.toNat = 12 then some .commandProcessor
  else if 256 ≤ m.srcAgent.toNat && m.srcAgent.toNat < 264 then some (.hostCore (Fin.ofNat 96 (m.srcTile.toNat * 8 + (m.srcAgent.toNat - 256))))
  else none

/-- Whether a register of 64 bits, or a doorbell, begins at a place in register space. A bit alias is of 4 bytes (R429). -/
def wideAt (off : Nat) : Bool := match regionOf off with
  | .doorbell _ => off % 8 = 0
  | _ => off % 8 = 0 && ((windowAt off).any fun x => (regAt x.1 x.2).any (·.wide))

/-- The place in register space and the size of a register message: 8 bytes where a register of 64 bits begins, else 4 (log 32). -/
def regTarget (m : FloorMsg) : Option (Nat × Nat) :=
  if m.addr.toNat / 2 ^ 26 * 2 ^ 26 = 0x0F0000000000 && m.addr.toNat % 4 = 0 then
    some (m.addr.toNat % 2 ^ 26, if wideAt (m.addr.toNat % 2 ^ 26) then 8 else 4)
  else none

/-- Whether the window of a register lies on the message's destination. -/
def onTile (m : FloorMsg) (off : Nat) : Bool := match regionOf off with
  | .tile t _ => t = m.dstTile.toNat
  | .die d _ => d = m.dstTile.toNat
  | .hub _ => m.dstTile.toNat = 12
  | .alias_ _ _ => m.dstTile.toNat = 12
  | .doorbell _ => m.dstTile.toNat = 12
  | .none => false

/-- A register message at its destination. -/
def State.regMessage (s : State) (op : FloorOp) (m : FloorMsg) (act : Nat → Nat → State → State) (write : Bool) : Res :=
  s.asked op m fun s =>
    match State.floorAgent m, regTarget m with
    | some a, some (off, n) => if onTile m off && s.mayReach a off write then act off n s else s.refuse m .decode
    | _, _ => s.refuse m .decode

/-- REG_RD. -/
def execRegRd (m : FloorMsg) (s : State) : Res :=
  s.regMessage .regRd m (fun off n s => (s.noteRead off n).sendFloor .dataClean { reply m 3 1 with data := BitVec.ofNat 1024 (s.regRead off n) }) false

/-- REG_WR: acknowledged once it has taken effect. -/
def execRegWr (m : FloorMsg) (s : State) : Res :=
  s.regMessage .regWr m (fun off n s => ((s.performWrite off n (fld m.data 0 (8 * n))).settleOf m).sendFloor .ack (ackOf m 0)) true

/-! ## The configuration check (R433 to R436) -/

/-- The offsets of a window's registers that hold C bits, in ascending order. -/
def confOffsets : Window → List Nat
  | .hub => [0x20000]
  | .tile _ =>
    [0x4000] ++ (List.range 7).map (fun c => 0x4010 + 4 * c) ++ [0x4040] ++ (List.range 128).map (fun j => 0x4800 + 4 * j) ++
    (List.range 32).flatMap (fun n => [0x5000 + 0x20 * n, 0x5008 + 0x20 * n, 0x5010 + 0x20 * n]) ++ [0x6000, 0x6008] ++
    (List.range 8).map (fun j => 0x20000 + 0x400 * j) ++ [0x30008] ++ (List.range 128).map (fun m => 0x31000 + 4 * m) ++
    (List.range 1024).map fun p => 0x32000 + 4 * p
  | .die _ => (List.range 128).map fun i => 0x80040 + 0x1000 * i

/-- R433: the masked words of a register: those that contain a C bit. -/
def State.confWords (s : State) (w : Window) (off : Nat) : List Byte :=
  match regAt w off with
  | none => []
  | some r =>
    let v := s.regValue w r
    let fs := r.fields.filter (·.conf)
    let masked := joinFields (fs.map fun f => (f.lo, f.of v))
    (List.range (if r.wide then 2 else 1)).flatMap fun i =>
      if fs.any fun f => f.lo < 32 * (i + 1) && 32 * i < f.lo + f.len then leBytes 4 (fldN masked (32 * i) 32) else []

/-- R433: the CRC-32C of a window. -/
def State.confCrc (s : State) (w : Window) : Nat := crc32c ((confOffsets w).flatMap (s.confWords w))

/-- R435: what a mismatch does that was not there before. -/
def State.crcMismatch (s : State) (w : Window) : State :=
  let c := s.crcOf w
  let s := s.modCrc w fun c => { c with mismatch := true, seq := c.seq + 1 }
  if c.action = 0 then s else
  let r : Rec := { typ := 0x0F, cls := 2, source := w.ring, unit := unitOf 0x0B w.ring, payload := pack [(0, 4, c.value.toNat), (4, 4, c.ref.toNat)] }
  let s := if w.ring = 12 then s.recordAnyUnit 12 r else s.record w.ring r
  let (code, s) := s.draw
  let s := s.event w.ring (fld code 0 16) (fld code 16 32)
  let s := s.settleAlert
  if c.action = 3 && w.ring ≠ 12 then s.startFence w.ring 4 else s

/-- CRC_SWEEP (R433 to R436): a sweep of a window completes. A mismatch on a fenced die is recorded (Table 15.14). -/
def execCrcSweep (w : Window) (s : State) : Res :=
  let reach := match w with
    | .hub => s.hubUp
    | .tile t => (s.tile t).up
    | .die d => (s.tile d).up
  if !reach then .next s else
  let v : BitVec 32 := BitVec.ofNat 32 (s.confCrc w)
  let s := s.modCrc w fun c => { c with value := v }
  let c := s.crcOf w
  let began := s.ticks - s.hub.time.toNat % 100000
  if c.pending && c.commitAt < began then
    .next (s.modCrc w fun c =>
      let c := { c with ref := v, dirty := false, pending := false }
      match c.arm with
      | some (ch, ac) => { c with check := ch, action := ac, arm := none }
      | none => c)
  else if !c.check || c.dirty || c.pending then .next s
  else if c.ref = v then .next (s.modCrc w fun c => { c with mismatch := false })
  else if c.mismatch then .next s
  else .next (s.crcMismatch w)

end Sys2Proof.Machine
end

