-- ==== Sys2Proof/Machine/Boot.lean ====
section
/-! DEFINITION. Input power (R471, R472), boot (R402 to R405), the warden pair (R406 to R408), attestation (R413), and the restart
of the command processor (R453). -/

namespace Sys2Proof.Machine

/-! ## Input power (R23, R389, R471, R472, R485) -/

/-- POWER_ON (R389, R390): input power is present: the Velvet domain starts from its power-on values. -/
def execPowerOn (s : State) : Res :=
  if s.velvet.powered then .next s
  else .next { s with velvet := { powered := true, perstSince := some s.ticks, inputSince := s.ticks } }

/-- INPUT_POWER_VALID (R471, R472): once the input can have held its level for 10 ms, boot starts, at step 2 after a brown-out. A latched trip and a hub whose rail failed hold it off
(R382, R485, log 33). -/
def execInputPowerValid (s : State) : Res :=
  if !s.velvet.powered || s.velvet.valid || !s.elapsed s.velvet.inputSince (10 * msTicks) then .next s else
  let s := s.modVelvet fun v => { v with valid := true }
  if s.velvet.thermTrip || 3 ≤ s.velvet.hubFails then .next s
  else .next (s.scope5 (if s.velvet.brownOut then 2 else 1) (some s.ticks))

/-- R472: everything but the Velvet domain and flash is off; ALERT_N bit 4 shows the flag. -/
def State.dark (s : State) : State := s.scope5 0 none

/-- BROWN_OUT (R472). -/
def execBrownOut (s : State) : Res :=
  if !s.velvet.valid then .next s else
  let s := s.dark.modVelvet fun v => { v with valid := false, brownOut := true, inputSince := s.ticks }
  .next (s.modHub fun h => { h with alert := setBit h.alert 4 true })

/-- INPUT_POWER_ABSENT (R23): the Velvet domain loses its contents. -/
def execInputPowerAbsent (s : State) : Res := .next ({ s.dark with velvet := {} }.modHub fun h => { h with alert := 0, jtag := none })

/-- HUB_POWER_FAIL (R485): VDD_HUB fails to come up at step 2; at the third failure in a row the module is held off. -/
def execHubPowerFail (s : State) : Res :=
  if s.boot.stage ≠ 2 || !s.velvet.valid then .next s else
  let s := s.modVelvet fun v => { v with hubFails := v.hubFails + 1 }
  if s.velvet.hubFails < 3 then .next s
  else .next (s.dark.modHub fun h => { h with alert := setBit h.alert 5 true })

/-! ## Step 3 (R398 to R401, R413) -/

/-- R398: whether a firmware slot is valid. -/
def Flash.fwValid (f : Flash) (k : Nat) : Bool := match kfind f.fw k with
  | some i => i.valid && f.minSvnFw.toNat ≤ i.svn.toNat
  | none => false

def Flash.slot (f : Flash) (k : Nat) : SlotState := kget .invalid f.slots k

/-- R398: the slot to try, and the flash with the attempt counted. -/
def Flash.selectFw (f : Flash) : Option (Nat × Flash) :=
  let pend := [0, 1].findSome? fun k => match f.slot k with
    | .pending n => if n < 2 && f.fwValid k then some (k, n) else none
    | .invalid => none
    | .active => none
    | .old => none
  match pend with
  | some (k, n) => some (k, { f with slots := kset f.slots k (.pending (n + 1)) })
  | none =>
    match [0, 1].find? fun k => f.slot k = .active && f.fwValid k with
    | some k => some (k, f)
    | none => ([0, 1].find? f.fwValid).map fun k => (k, f)

/-- R403: a PENDING slot has had two attempts without READY. -/
def Flash.abandons (f : Flash) : Bool := [0, 1].any fun k => f.slot k = .pending 2

/-- R410: whether the security engine accepts the serial of an image: the identity public key derived for it is the one of its section. -/
def ConfigImage.accepted (c : ConfigImage) : Bool := decide (c.identityKey = Config.mldsaPublic (identitySeedOf c.serial))

/-- R396, R397, R410: whether a configuration copy is valid. -/
def Flash.cfgValid (f : Flash) (k : Nat) : Bool := match kfind f.cfg k with
  | some i => i.valid && f.minSvnCfg.toNat ≤ i.svn.toNat && i.config.accepted
  | none => false

def Flash.copy (f : Flash) (k : Nat) : FlashImage := kget {} f.cfg k

/-- R399: the copy selected, with the image counter of the Velvet domain. -/
def Flash.selectCfg (f : Flash) (counter : Nat) : Option Nat :=
  let a := f.copy 0
  let b := f.copy 1
  match f.cfgValid 0, f.cfgValid 1 with
  | false, false => none
  | true, false => some 0
  | false, true => some 1
  | true, true =>
    if a.svn.toNat ≠ b.svn.toNat then some (if b.svn.toNat < a.svn.toNat then 0 else 1)
    else if a.count.toNat = b.count.toNat || a.count.toNat = counter then some 0
    else if b.count.toNat = counter then some 1
    else some (if b.count.toNat < a.count.toNat then 0 else 1)

/-- R403: boot stops with an ERROR. -/
def State.bootError (s : State) (e : Nat) : State := s.modBoot fun b => { b with error := e, watchdog := none }

/-- R350, R401, R402, R415: at the first step 3 after power-on the Velvet counters are restored from the boot record. -/
def State.restoreCounters (s : State) : State :=
  if s.velvet.restored then s else
  let f := s.flash
  s.modVelvet fun v => { v with restored := true, ctx0Counter := f.ctx0Counter + 0x10000, boardCounter := f.boardCounter + 0x10000
                                imageCount := f.imageCount }

/-- R401: the image counter is raised, first in the Velvet domain and then in the boot record. -/
def State.raiseImageCount (s : State) (n : BitVec 32) : State :=
  let s := if s.velvet.imageCount.toNat < n.toNat then s.modVelvet fun v => { v with imageCount := n } else s
  if s.flash.imageCount.toNat < n.toNat then s.modFlash fun f => f.writeBoot fun f => { f with imageCount := n } else s

/-- R413: M0 to M3 and M5. -/
def State.measureBoot (s : State) : State :=
  let f := s.flash
  let b := s.boot
  let v5 := leBytes 4 f.minSvnFw.toNat ++ leBytes 4 f.minSvnCfg.toNat ++ leBytes 1 b.fwSlot ++ leBytes 1 b.cfgCopy
  ((((s.extend 0 Config.romMeasure).extend 1 (kget {} f.fw b.fwSlot).h).extend 2 (f.copy b.cfgCopy).h).extend 3
    (Config.repairDigest f.repairs)).extend 5 (digest (sha3 v5))

/-- R418: COOL_OK has been high for 100 ms. -/
def State.coolHeld (s : State) : Bool := match s.velvet.coolOkSince with
  | some t => s.elapsed t (100 * msTicks)
  | none => false

/-- R418: step 4 begins, or boot holds for COOL_OK with the watchdog suspended. -/
def State.toStep4 (s : State) : State :=
  if s.coolHeld then s.modBoot fun b => { b with stage := 4, hold := false, watchdog := if b.hold then some s.ticks else b.watchdog }
  else s.modBoot fun b => { b with hold := true, watchdog := none }

/-- R394, R411, R463: the records as boot reads them, some copies having changed in flash; none where a record has no valid copy. -/
def Flash.readRecords (f : Flash) (bad : List (Fin 4 × Fin 2)) : Option Flash :=
  (((bad.foldl (fun f x => f.spoil x.1 x.2) f).readBoot.bind fun f => f.readKey 0).bind fun f => f.readKey 1).bind Flash.readRepairs

/-- R398: an attempt counted in the boot record. -/
def Flash.attempted (old new : Flash) : Flash := if new.slots = old.slots then new else old.writeBoot fun _ => new

/-- Step 3 completes: the device root, the boot record, the images. A record that has no valid copy stops boot as a flash error
(log 86). -/
def State.step3 (s : State) (r : BootReport) : State :=
  if !r.flashOk then s.bootError 5
  else if !r.rootOk then s.bootError 4
  else match s.flash.readRecords r.badTags with
  | none => s.bootError 5
  | some f0 =>
    let s := { s with flash := f0 }.restoreCounters
    let s := s.modBoot fun b => { b with count := s.flash.bootCount }
    let s := if s.velvet.brownOut then
        (s.modFlash fun f => f.logged (3, 0)).modVelvet fun v => { v with brownOut := false }
      else s
    match s.flash.selectFw with
    | none => s.bootError 1
    | some (k, f) =>
      let s := { s with flash := s.flash.attempted f }.modBoot fun b => { b with fwSlot := k, abandoned := s.flash.abandons }
      match s.flash.selectCfg s.velvet.imageCount.toNat with
      | none => s.bootError 2
      | some c =>
        let i := s.flash.copy c
        let diverge := s.flash.cfgValid 0 && s.flash.cfgValid 1 && decide ((s.flash.copy 0).h ≠ (s.flash.copy 1).h)
        let s := s.modBoot fun b => { b with cfgCopy := c, diverge := diverge, config := i.config }
        ((s.raiseImageCount i.count).measureBoot).toStep4

/-! ## Steps 4 to 8 (R402 to R405) -/

/-- Step 4 completes: the capability handshake and admission. -/
def State.step4 (s : State) (r : BootReport) : State :=
  let c := s.boot.config
  let h := r.hubCaps
  let word := fun (d : Nat) => (r.dieCaps.find? fun x => x.1 = d).map (·.2)
  let s := (List.range 12).foldl (fun s d => match word d with
    | some w => s.noteCaps d w
    | none => s) s
  let s := (s.modBoot fun b => { b with hubWord := h, caps := h &&& 0x3FFFF }).modVelvet fun v => { v with hubRev := some (BitVec.ofNat 4 (fld h 0 4)) }
  if !c.verOk h || !c.flagsOk h then s.bootError 3 else
  let ds := (List.range 12).filter fun d => match word d with
    | some w => c.admits h w
    | none => false
  if ds.isEmpty then s.bootError 6 else
  let caps := packageCaps h (ds.map fun d => (word d).getD 0)
  s.modBoot fun b => { b with stage := 5, caps := caps, admitted := maskOf 12 ds }

/-- Step 5 completes: the dies come up with their core maps; M4 is measured. -/
def State.step5 (s : State) (r : BootReport) : State :=
  let ds := (setBits s.boot.admitted).filter fun d => !(r.failed.map (·.val)).contains d
  if ds.isEmpty then s.bootError 6 else
  let word := fun (d : Nat) => kget (0 : BitVec 32) s.boot.dieCaps d
  let caps := packageCaps s.boot.hubWord (ds.map word)
  let s := s.modBoot fun b => { b with admitted := maskOf 12 ds, caps := caps &&& 0x3FFFF }
  let s := ds.foldl (fun s d => s.bringUp d (word d)) s
  let mods := fun (d : Nat) => (r.ucieBad.filter fun x => x.1.val = d).map (·.2.val)
  let slow := fun (d : Nat) => (r.ucieSlow.filter fun x => x.1.val = d).map (·.2.val)
  let s := ds.foldl (fun s d => s.degradeUcie d (mods d) (slow d)) s
  (s.extend 4 (digest (sha3 s.capsBytes))).modBoot fun b => { b with stage := 6 }

/-- Step 6 completes: DRAM and scratch ways are zero, and the repairs of the repair record are applied. -/
def State.step6 (s : State) : State :=
  let s := { s with mem := reserveCells s.mem, poison := reserveSectors s.poison, dramErrs := [] }
  ((setBits s.boot.admitted).foldl (fun s t => s.repairDram t) s).modBoot fun b => { b with stage := 7 }

/-- R411: K of a key record, for its kind and generation. -/
def unwrapRecord (serial : BitVec 128) (kind : Nat) (r : BitVec 64 × BitVec 256) : BitVec 256 :=
  let x := leBytes 16 serial.toNat ++ leBytes 1 kind ++ leBytes 8 r.1.toNat
  r.2 ^^^ digest (kmacXof256 (leBytes 32 Config.deviceRoot.toNat) x (ascii "FT2-KEY") 32)

/-- R411, R414: context 0, its key, its queue 0, and the board key. -/
def State.installKeys (s : State) : State :=
  let sn := s.boot.config.serial
  let k := unwrapRecord sn 0 s.flash.ctx0Key
  let s := s.createContext0
  let s := s.modContext 0 fun c => { c with key := some k }
  s.modBoot fun b => { b with boardKey := some (unwrapRecord sn 1 s.flash.boardKey) }

/-- R397: the window that a number of the REGISTERS section names. -/
def confWindow (n : Nat) : Window :=
  if n = 0 then .hub else if n < 13 then .tile (Fin.ofNat 12 (n - 1)) else .die (Fin.ofNat 12 (n - 13))

/-- Step 8 (R401, R402): the boot record is updated and the outbox enabled. -/
def State.toReady (s : State) : State :=
  let b := s.boot
  let f := s.flash
  let fresh : Bool := match f.slot b.fwSlot with
    | .pending _ => true
    | .invalid => false
    | .active => false
    | .old => false
  let age := fun (x : SlotState) => if x = .active then SlotState.old else x
  let slots := if fresh then kset (f.slots.map fun (k, x) => (k, age x)) b.fwSlot .active else f.slots
  let up := fun (a b : BitVec 32) => if a.toNat < b.toNat then b else a
  let s := s.modFlash fun f => f.writeBoot fun f => { f with
    bootCount := f.bootCount + 1, slots := slots
    minSvnFw := up f.minSvnFw (kget {} f.fw b.fwSlot).svn, minSvnCfg := up f.minSvnCfg (f.copy b.cfgCopy).svn }
  let s := s.modBoot fun x => { x with stage := 15, count := s.flash.bootCount, watchdog := none }
  let s := s.enableLinks (List.range 12)
  let s := (s.modRing 32 fun k => { k with enable := true, firstSeq := k.write }).modHub fun h => { h with alert := setBit h.alert 4 false }
  if b.diverge then s.event 12 0x0302 b.cfgCopy else s

/-- Step 7 completes: everything the image configures; READY follows at once. -/
def State.step7 (s : State) : State :=
  let c := s.boot.config
  let ds := setBits s.boot.admitted
  let up := fun (d : Nat) => s.boot.admitted.getLsbD d
  let s := s.writeSets (loadable up c.sets)
  let s := ds.foldl (fun s t => s.configureTile t) s
  let parts := c.partitions.filter fun x => ((List.range x.2).map (x.1 + ·)).all up
  let form := fun (m : KMap Partition) (x : Nat × Nat) => kset m x.1 ({ dies := x.2 } : Partition)
  let s := { s with partitions := parts.foldl form s.partitions }
  let s := s.installKeys
  let s := c.registers.foldl (fun s x =>
    let w := confWindow x.1
    if w.ring = 12 || up w.ring then s.write4 w x.2.1 x.2.2.toNat else s) s
  let s := s.bootCommit .hub
  let s := ds.foldl (fun s d => (s.bootCommit (.tile (Fin.ofNat 12 d))).bootCommit (.die (Fin.ofNat 12 d))) s
  s.toReady

/-- R402 step 2, R406: the hub is up: the straps are latched, Warden A takes the lease, and the PCIe controller leaves reset. -/
def State.step2 (s : State) : State :=
  let e := s.velvet.epoch + 1
  let s := s.modVelvet fun v => { v with epoch := e, holder := 0, renewed := s.ticks, hubFails := 0 }
  let s := s.modBoot fun b => { b with stage := 3, wardens := [(0, 3), (1, 2)], held := [(0, e)] }
  let s := s.modHub fun h => { h with slotId := h.strap }
  let s := s.modPower fun p => { p with brake := !s.velvet.brakeN }
  s.modHost fun h => { h with inReset := !s.velvet.perstN }

/-- BOOT_STAGE (R402): the stage that runs completes, as the hardware reports, and the next begins; while a thermal trip is latched none
does (R382). -/
def execBootStage (r : BootReport) (s : State) : Res :=
  if !s.velvet.valid || s.boot.error ≠ 0 || s.power.tripped || s.velvet.thermTrip then .next s
  else .next (match s.boot.stage with
  | 1 => s.modBoot fun b => { b with stage := 2 }
  | 2 => s.step2
  | 3 => if s.boot.hold then s.toStep4 else s.step3 r
  | 4 => s.step4 r
  | 5 => s.step5 r
  | 6 => s.step6
  | 7 => s.step7
  | _ => s)

/-- BOOT_WATCHDOG (R402): 5 s of progress without READY. -/
def execBootWatchdog (s : State) : Res :=
  match s.boot.watchdog with
  | none => .next s
  | some t =>
    if !s.velvet.valid || s.power.tripped || s.velvet.thermTrip || !s.elapsed t (5 * secTicks) then .next s
    else .next (s.modFlash fun f => f.logged (2, s.boot.stage)).packageReset

/-- THERM_TRIP_CLEAR (R382): PERST_N has been asserted for 100 ms while every powered sensor, the hub's, reads below 85 °C. -/
def execThermTripClear (s : State) : Res :=
  let held := match s.velvet.perstSince with
    | some t => s.elapsed t (100 * msTicks)
    | none => false
  if !s.velvet.thermTrip || !held || !s.velvet.valid || s.power.hubTemps.any fun x => 85 ≤ x.2 then .next s
  else .next (s.modVelvet fun v => { v with thermTrip := false }).packageReset

/-! ## The warden pair (R406 to R408) -/

/-- R407: a warden that lost the lease, or whose renewal is refused, fences itself: it holds no EPOCH, and restarts as standby. -/
def State.fenceWarden (s : State) (w : Nat) : State :=
  s.modBoot fun b => { b with wardens := kset b.wardens w 4, fencedAt := kset b.fencedAt w s.ticks, held := kdel b.held w }

/-- R407, R409, R418, R468: a new holder: the other warden fences itself, open windows start afresh, and a boot under way starts again at
step 3, its dies reset. A boot that stopped with an ERROR stays stopped (R402). -/
def State.newHolder (s : State) (w : Nat) (epoch : BitVec 32) : State :=
  let s := s.modVelvet fun v => { v with epoch := epoch, holder := w, renewed := s.ticks }
  let s := if kget 0 s.boot.wardens (1 - w) = (3 : BitVec 3) then s.fenceWarden (1 - w) else s
  let s := s.modHub fun h => { h with windows := h.windows.map fun x => { x with opened := s.ticks } }
  let s := s.modBoot fun b =>
    let st : BitVec 3 := kget 0 b.wardens w
    { b with held := kset b.held w epoch, wardens := if st = 2 then kset b.wardens w 3 else b.wardens }
  if 3 ≤ s.boot.stage && s.boot.stage < 15 && s.boot.error = 0 then
    s.loseDies.modBoot fun b => { b with stage := 3, hold := false, admitted := 0, watchdog := some s.ticks }
  else s

/-- LEASE_LOST (R408): 100 ms without an accepted renewal. -/
def execLeaseLost (s : State) : Res :=
  if s.boot.stage < 3 || !s.velvet.valid || !s.elapsed s.velvet.renewed (100 * msTicks) then .next s
  else .next (s.modFlash fun f => f.logged (1, 0)).packageReset

/-! ## Attestation (R412, R413) -/

/-- R412: M0 to M5, as bytes. -/
def State.measBytes (s : State) (n : Nat) : List Byte := (List.range n).flatMap fun i => leBytes 32 (kget (0 : BitVec 256) s.boot.meas i).toNat

/-- R412: seeds of the identity and the alias key. -/
def State.identitySeed (s : State) : BitVec 256 :=
  identitySeedOf s.boot.config.serial
def State.aliasSeed (s : State) : BitVec 256 :=
  digest (kmac256 (leBytes 32 Config.deviceRoot.toNat) (s.measBytes 6) (ascii "FT2-ALIAS") 32)

/-- A signature's bytes. -/
def signBytes (seed : BitVec 256) (message : List Byte) (context : String) : List Byte :=
  leBytes 2420 (Config.mldsaSign seed (leNat message) (leNat (ascii context))).toNat

/-- R412: the alias certificate: the alias public key, M0 to M5 and BOOT_COUNT as it stood at step 7 (log 34), and the identity
key's signature. -/
def State.aliasCert (s : State) : List Byte :=
  let body := leBytes 1312 (Config.mldsaPublic s.aliasSeed).toNat ++ s.measBytes 6 ++ leBytes 4 (s.boot.count.toNat - 1)
  body ++ signBytes s.identitySeed body "FT2-CERT"

/-- R413: the report for a nonce, in the order of the spec's list; the alias certificate follows it (log 34). -/
def State.report (s : State) (nonce : BitVec 256) : List Byte :=
  let body := leBytes 16 s.boot.config.serial.toNat ++ leBytes 4 s.boot.count.toNat ++ s.capsBytes ++ leBytes 32 nonce.toNat ++
    s.measBytes 8 ++ leBytes 4 (s.regValue .hub .debugState)
  body ++ signBytes s.aliasSeed (sha3 body) "FT2-ATT" ++ s.aliasCert

/-- ATTESTATION_DONE (R413). -/
def execAttestationDone (s : State) : Res :=
  match s.boot.attBusy with
  | none => .next s
  | some n => .next (s.modBoot fun b => { b with attBusy := none, attDone := true, attBuf := s.report n })

/-! ## The command processor (R453) -/

/-- Whether a warden that holds the lease runs. -/
def State.wardenRuns (s : State) : Bool := kget 0 s.boot.wardens s.velvet.holder = (3 : BitVec 3)

/-- R453: the command processor restarts; every command that runs is terminated with RESTARTED. -/
def State.restartCp (s : State) : State :=
  let running := s.queues.filter fun x => match x.2.run with
    | some r => r.stage = .running || r.stage = .waitSlice
    | none => false
  let s := running.foldl (fun s x => s.terminate x.1 0x0013 0 5) s
  let recent := s.ticks :: s.boot.cpRestarts.filter fun t => !s.elapsed t secTicks
  let s := s.modBoot fun b => { b with cpUpAt := s.ticks + 20 * msTicks, cpRestarts := recent }
  s.record 12 { typ := 0x27, cls := 3, source := 12, unit := unitOf 0x07 0, payload := pack [(0, 1, recent.length), (8, 8, running.length)] }

/-- R453: the warden restarts the command processor; the third restart within 1 s starts a package reset. -/
def State.restartCpOnce (s : State) : State :=
  let s := s.restartCp
  if 3 ≤ s.boot.cpRestarts.length then s.packageReset else s

/-- CP_HEARTBEAT_MISSED (R453): the warden that holds the lease watches the heartbeat; a restarted command processor that misses its first
one starts a package reset. -/
def execCpHeartbeatMissed (s : State) : Res :=
  if !s.ready || !s.wardenRuns then .next s else
  if s.ticks < s.boot.cpUpAt then .next s
  else if !s.boot.cpRestarts.isEmpty && !s.elapsed s.boot.cpUpAt (11 * msTicks) then .next s.packageReset
  else .next s.restartCpOnce

end Sys2Proof.Machine
end

