-- ==== Sys2Proof/Machine/Kernel.lean ====
section
/-! DEFINITION. KERNEL and LAYER commands (R343, R344, R183 to R185), the code object (R132, R133), the slices of contexts
(R336 to R339), and the placement of teams (R45, R46, R78, R92, R99, R110, R205). -/

namespace Sys2Proof.Machine

/-! ## The code object (Table 4.18, R133) -/

def hdr (h : BitVec 512) (off w : Nat) : Nat := byteFld h off w

/-- R77: registers per thread that a header allocates, A. -/
def headerAlloc (h : BitVec 512) : Nat := 8 * ((hdr h 0xC 1 + 1 + 7) / 8)

/-- R71, R133: the lowest DETAIL among the conditions that reject a header; 0 where none does. -/
def headerBad (h : BitVec 512) : Nat :=
  let flags := hdr h 8 4
  let t := hdr h 0xD 1
  let beyond := flags / 8 % 2 = 1
  let groups := hdr h 0xE 1
  let units := headerAlloc h / 8
  if hdr h 0 4 ≠ 0x32544650 || hdr h 4 2 ≠ 1 || hdr h 6 2 ≠ 64 || hdr h 0x18 40 ≠ 0 then 2
  else if (if beyond then t < 20 || 40 < t else t ≠ 0) || groups < 1 || 32 < groups || hdr h 0xF 1 < 1 || 8 < hdr h 0xF 1 ||
      hdr h 0x10 4 % 1024 ≠ 0 || 327680 < hdr h 0x10 4 || hdr h 0x14 4 % 8 ≠ 0 || hdr h 0x14 4 < 64 then 3
  else if 32 ≤ flags then 4
  else if Nat.min 16 (64 / units) < (groups + 3) / 4 then 5
  else 0

/-- R343, R132: the header of a code object at a virtual address, read once by a coherent read under the queue's ATP through the
floor translation unit of the partition's first die. The error is the DETAIL of INVALID_CODE_OBJECT, or a wait. -/
def State.readHeader (s : State) (q first va : Nat) : State × Except (Option Nat) (BitVec 512) :=
  let k := s.queue q
  if va % 256 ≠ 0 then (s, .error (some 1)) else
  match s.floorXlat first k.context k.atp k.adHw va .load with
  | (s, .error .busy) => (s, .error none)
  | (s, .error (.fault _ _)) => (s, .error (some 1))
  | (s, .ok e) =>
    match s.cpRead k.context (e.phys va).pa 64 with
    | (s, .error .busy) => (s, .error none)
    | (s, .error _) => (s, .error (some 1))
    | (s, .ok bs) =>
      let h : BitVec 512 := BitVec.ofNat 512 (leNat bs)
      if headerBad h = 0 then (s, .ok h) else (s, .error (some (headerBad h)))

/-! ## Placement on a core (R78, R99) -/

/-- Free allocation units and free group slots of a quarter. -/
def Core.freeUnits (k : Core) (q : Nat) : Nat :=
  64 - k.blocks.foldl (fun n (_, b) => b.groups.foldl (fun n (_, g) => if g.quarter = q then n + b.alloc / 8 else n) n) 0
def Core.freeSlots (k : Core) (q : Nat) : List Nat :=
  (List.range 16).filter fun x => !(k.blocks.any fun (_, b) => b.groups.any fun (_, g) => g.quarter = q && g.slot = x)

/-- R78: the quarter with the most free units, the lowest of those. -/
def Core.firstQuarter (k : Core) : Nat := (List.range 4).foldl (fun b q => if k.freeUnits b < k.freeUnits q then q else b) 0

/-- R78: quarter and slot of each of n groups, none where they do not fit. -/
def Core.groupPlaces (k : Core) (n alloc : Nat) : Option (List (Nat × Nat)) :=
  let b := k.firstQuarter
  let want := fun q => ((List.range n).filter fun g => (b + g) % 4 = q).length
  if (List.range 4).all fun q => want q * (alloc / 8) ≤ k.freeUnits q && want q ≤ (k.freeSlots q).length then
    some ((List.range n).map fun g => ((b + g) % 4, ((k.freeSlots ((b + g) % 4))[g / 4]?).getD 0))
  else none

/-- Section of a granule of the local-memory space. -/
def granuleSection (g : Nat) : Nat := 11 - g / 32

def Core.usedGranule (k : Core) (g : Nat) : Bool := k.blocks.any fun (_, b) => b.granules.contains g

/-- R99: the lowest free range of n granules, within the sections that a test allows. -/
def Core.freeRange (k : Core) (n : Nat) (may : Nat → Bool) : Option Nat :=
  (List.range (321 - n)).find? fun a => (List.range n).all fun i => !k.usedGranule (a + i) && may (granuleSection (a + i))

def Core.isLocal (k : Core) (sec : Nat) : Bool := (kget {} k.sections sec).use = .localMem

/-- R99, R100: a section is being converted. -/
def Core.converting (k : Core) : Bool := k.sections.any fun x => match x.2.use with
  | .toLocal _ => true
  | .way => false
  | .localMem => false

/-- Where a block goes on a core: its position, its groups' places and its first granule. -/
structure Spot where
  pos : Nat
  places : List (Nat × Nat)
  granule : Nat
deriving DecidableEq, Repr

/-- R78: the spot of a block on a core whose local sections can hold it; anywhere, as on a core whose ways could be converted. Of the free
block positions it takes the lowest (DESIGN CHOICE, log 93). -/
def Core.spot (k : Core) (groups alloc granules : Nat) (anywhere : Bool) : Option Spot :=
  match (List.range 16).find? fun p => (kfind k.blocks p).isNone with
  | none => none
  | some pos =>
    match k.groupPlaces groups alloc, k.freeRange granules (fun sec => anywhere || k.isLocal sec) with
    | some pl, some g => some { pos := pos, places := pl, granule := g }
    | _, _ => none

/-- R99: the highest-numbered L1 way begins to become a local section. -/
def Core.convertWay (k : Core) : Core :=
  match (List.range 12).reverse.find? fun w => 2 ≤ w && (kget {} k.sections w).use = .way with
  | none => k
  | some w => { k with sections := kmod {} k.sections w fun x => { x with use := .toLocal 0 } }

/-! ## What a range can hold (R46, R343) -/

/-- Cores of a global cell that take work: present, not being retired, on a die that is not fenced (R22, R456). -/
def State.cellCores (s : State) (cell : Nat) : List Nat :=
  let d := cell / 16
  if (s.tile d).fenced || (s.tile d).fence.isSome then [] else
  ((List.range 8).map (d * 128 + cell % 16 * 8 + ·)).filter fun c => (s.core c).present && (s.core c).retiring.isNone

/-- The global cells of a launch's range. -/
def Launch.cells (l : Launch) (first : Nat) : List Nat := (List.range l.cellCount).map (first * 16 + l.cellFirst + ·)

/-- How many blocks of a code object an empty core holds, at most n more. -/
def emptyCoreHolds (h : BitVec 512) (n : Nat) (k : Core) : Nat := match n with
  | 0 => 0
  | n + 1 =>
    match k.spot (hdr h 0xE 1) (headerAlloc h) (hdr h 0x10 4 / 1024) true with
    | none => 0
    | some sp =>
      let gs : KMap Group := (List.range sp.places.length).map fun g =>
        (g, { quarter := ((sp.places[g]?).getD (0, 0)).1, slot := ((sp.places[g]?).getD (0, 0)).2 })
      let b : Block := { alloc := headerAlloc h, localBytes := hdr h 0x10 4, localBase := sp.granule * 1024, groups := gs }
      1 + emptyCoreHolds h n { k with blocks := kset k.blocks sp.pos b }

/-- R46, R92: teams that a cell holds with its m cores empty. -/
def cellHolds (h : BitVec 512) (m : Nat) : Nat :=
  let n := hdr h 0xF 1
  if m < n then 0 else
  let t := m * emptyCoreHolds h 16 {} / n
  if 2 ≤ n then Nat.min 16 t else t

/-- R343: whether a launch can never be resident on its range. -/
def State.tooLarge (s : State) (first : Nat) (l : Launch) : Bool :=
  let n := hdr l.header 0xF 1
  let cells := l.cells first
  !(cells.any fun c => n ≤ (s.cellCores c).length) ||
  (hdr l.header 8 4 / 4 % 2 = 1 &&
    cells.foldl (fun t c => t + cellHolds l.header (s.cellCores c).length) 0 < l.teams)

/-! ## Slices (R336, R337) -/

/-- The queues of a context in a partition whose sliced command waits for its slice. -/
def State.waitingQueues (s : State) (ctx : Nat) : List Nat :=
  (s.queues.filter fun x => x.2.live && x.2.context = ctx && (x.2.run.any fun r => r.stage = .waitSlice && r.start.isNone)).map (·.1)

/-- R337: whether a context is ready. -/
def State.ctxReady (s : State) (ctx : Nat) : Bool :=
  !(s.waitingQueues ctx).isEmpty && !s.stalled ctx && (s.waitingQueues ctx).any fun q => s.serves q

/-- Whether a context has a sliced command that runs, or whose ending is not yet written. -/
def State.slicedRuns (s : State) (ctx : Nat) : Bool :=
  s.queues.any fun x => x.2.live && x.2.context = ctx && (x.2.run.any fun r =>
    (r.opcode = 2 || r.opcode = 3) && r.start.isSome && r.stage ≠ .done)

/-- The contexts bound to a partition, in the order after a given one (R337). -/
def State.ctxAfter (s : State) (first c : Nat) : List Nat :=
  ((List.range 31).map fun i => (c + i) % 31 + 1).filter fun x => (s.context x).live && (s.context x).first = some first

/-- R337: since when a context is ready: the read of the oldest of its commands that wait for a slice. -/
def State.readySince (s : State) (ctx : Nat) : Nat :=
  (((s.waitingQueues ctx).filterMap fun q => (s.run q).map (·.readAt)).min?).getD 0

/-- R337: of the contexts of a partition that are ready, the one that has been so the longest (log 101). -/
def State.firstReady (s : State) (first : Nat) : Option Nat :=
  ((s.ctxAfter first 31).filter s.ctxReady).foldl (fun o c => match o with
    | none => some c
    | some b => if s.readySince c < s.readySince b then some c else some b) none

/-- R337: the partition passes to a context. -/
def State.makeCurrent (s : State) (first ctx : Nat) : State :=
  s.modPartition first fun p => { p with current := some ctx, sliceAt := s.ticks, sliceOver := false }

/-- SLICE_END (R337): the slice of the current context ends; it has a new one when no other context is ready. -/
def execSliceEnd (firstDie : Fin 12) (s : State) : Res :=
  let p := s.partition firstDie
  match p.current with
  | none => .next s
  | some c =>
    if p.sliceOver || !s.elapsed p.sliceAt ((s.context c).sliceUs * usTicks) then .next s
    else if (s.ctxAfter firstDie c).any fun x => x ≠ c && s.ctxReady x then .next (s.modPartition firstDie fun p => { p with sliceOver := true })
    else .next (s.modPartition firstDie fun p => { p with sliceAt := s.ticks })

/-- CONTEXT_SWITCH (R337, R338): the last sliced command of the current context has ended, and the partition passes to the next
ready context; without a current context, to the first that became ready. -/
def execContextSwitch (firstDie : Fin 12) (s : State) : Res :=
  let p := s.partition firstDie
  match p.current with
  | none =>
    (match s.firstReady firstDie with
    | none => .next s
    | some x => .next (s.makeCurrent firstDie x))
  | some c =>
    if !p.sliceOver || s.slicedRuns c then .next s else
    match (s.ctxAfter firstDie c).find? fun x => x ≠ c && s.ctxReady x with
    | none => .next (s.makeCurrent firstDie c)
    | some x => .next (s.makeCurrent firstDie x)

/-- R337: whether a sliced command of a context may start; a partition without a current context is given to the first
that became ready. -/
def State.takeSlice (s : State) (first ctx : Nat) : Option State :=
  let p := s.partition first
  match p.current with
  | none => if s.firstReady first = some ctx then some (s.makeCurrent first ctx) else none
  | some c => if c = ctx && !p.sliceOver then some s else none

/-! ## KERNEL (R343) -/

/-- The cell range of a launch: a CELL_COUNT of 0 means every cell of the partition. -/
def cellRange (cf cc dies : Nat) : Nat × Nat := if cc = 0 then (0, 16 * dies) else (cf, cc)

/-- Whether a launch leaves its range within the partition: which of CELL_FIRST and CELL_COUNT is out of range. -/
def rangeBad (cf cc dies : Nat) : Option Bool :=
  if cc = 0 then none else if 16 * dies ≤ cf then some true else if 16 * dies < cf + cc then some false else none

/-- R337, R339, R340: a sliced command takes its slice and starts: its limit counts, and it has its place in the order of starts. One
that has started, and whose reads wait, goes on. none: its slice is not there. -/
def State.beginSliced (s : State) (q first : Nat) (r : Run) : Option State :=
  if r.start.isSome then some s else
  (s.takeSlice first (s.queue q).context).map fun s =>
    ({ s with nextOrder := s.nextOrder + 1 }.modRun q fun r => { r with order := s.nextOrder }).startClock q

/-- A launch added to a command, with its command's place in the order of starts (R339). -/
def State.addLaunch (s : State) (q : Nat) (l : Launch) : State :=
  s.modRun q fun r => { r with launches := r.launches ++ [{ l with order := r.order }] }

/-- R329, R340: the checks of a sliced command when it is read; it then waits for its slice. -/
def State.slicedCheck (s : State) (q op : Nat) (ps : Run → List Param) : Res :=
  s.command q op (fun _ => (s.queue q).context ≠ 0) ps (fun _ => true) fun _ s => s.modRun q fun r => { r with stage := .waitSlice }

/-- The run of a queue that waits for its slice, with the first die of its partition. -/
def State.sliceWaiter (s : State) (q op : Nat) : Option (Run × Nat) :=
  match s.run q, (s.context (s.queue q).context).first with
  | some r, some f => if r.stage = .waitSlice && r.opcode = op && s.serves q then some (r, f) else none
  | _, _ => none

/-- The parameters of a KERNEL (Table 11.3). -/
def kernelParams (dies : Nat) (r : Run) : List Param :=
  let bad := rangeBad (r.p 0x28 2) (r.p 0x2A 2) dies
  [(0x10, 8, true), (0x18, 8, true), (0x20, 4, decide (1 ≤ r.p 0x20 4) && decide (r.p 0x20 4 < 2 ^ 31)), (0x24, 2, decide (1 ≤ r.p 0x24 2)),
   (0x26, 2, decide (1 ≤ r.p 0x26 2)), (0x28, 2, bad ≠ some true), (0x2A, 2, bad ≠ some false)]

/-- R343: a KERNEL in its slice: its code object is read and checked, and its launch begins. -/
def State.startKernel (s0 : State) (q first : Nat) (r : Run) : State :=
  match s0.readHeader q first (r.p 0x10 8) with
  | (u, .error none) => s0.woken u
  | (s, .error (some d)) => s.reject q 0x0005 d
  | (s, .ok h) =>
    let (cf, cc) := cellRange (r.p 0x28 2) (r.p 0x2A 2) (s.partition first).dies
    let l : Launch := { code := BitVec.ofNat 64 (r.p 0x10 8), header := h, args := BitVec.ofNat 64 (r.p 0x18 8), gridX := r.p 0x20 4
                        gridY := r.p 0x24 2, gridZ := r.p 0x26 2, cellFirst := cf, cellCount := cc }
    if s.tooLarge first l then s.reject q 0x0007 0 else (s.runOn q).addLaunch q l

/-- KERNEL: the checks of its packet, then, in its slice, its start. -/
def execKernel (queue : Fin 256) (s : State) : Res :=
  match s.sliceWaiter queue 2 with
  | some (r, f) => .next (match s.beginSliced queue f r with
    | none => s
    | some s => s.startKernel queue f r)
  | none =>
    let dies := (s.partition ((s.context (s.queue queue).context).first.getD 0)).dies
    s.slicedCheck queue 2 (kernelParams dies)

/-! ## LAYER (R344) -/

/-- A field of a kernel-list entry. -/
def entryFld (e : BitVec 256) (off w : Nat) : Nat := byteFld e off w

/-- R344: whether the fields of a kernel-list entry fail. -/
def entryBad (e : BitVec 256) (dies : Nat) (table : Bool) : Bool :=
  entryFld e 0x1C 4 ≠ 0 || entryFld e 0x10 4 = 0 || 2 ^ 31 ≤ entryFld e 0x10 4 || entryFld e 0x14 2 = 0 || entryFld e 0x16 2 = 0 ||
  (rangeBad (entryFld e 0x18 2) (entryFld e 0x1A 2) dies).isSome ||
  (table && (entryFld e 0x18 2 ≠ 0 || entryFld e 0x1A 2 ≠ 0))

/-- A launch of kernel k of a LAYER, on a range, for a step-table entry. -/
def layerLaunch (k : Nat) (x : BitVec 256 × BitVec 512) (range : Nat × Nat) (entry : Option (Nat × BitVec 128)) : Launch :=
  let e := x.1
  let off := match entry with
    | some (_, y) => byteFld y 8 4
    | none => 0
  { kidx := k, entry := entry.map (·.1), stepPhase := match entry with
      | some (_, y) => BitVec.ofNat 8 (byteFld y 2 1)
      | none => 0xFF
    code := BitVec.ofNat 64 (entryFld e 0 8), header := x.2, args := BitVec.ofNat 64 (entryFld e 8 8 + off), gridX := entryFld e 0x10 4
    gridY := entryFld e 0x14 2, gridZ := entryFld e 0x16 2, cellFirst := range.1, cellCount := range.2 }

/-- R344: a LAYER that fails by an entry of its list. -/
def State.rejectEntry (s : State) (q status detail k : Nat) : State :=
  s.modRun q fun r => { r.fail status detail none with result := BitVec.ofNat 64 (k + 0xFFFF * 65536) }

/-- R344: the entries from k on are checked in list order, each entry's fields before its code object. The outcome: a wait, a
rejected command, or the entries with their headers. -/
def State.checkEntries (s : State) (q first dies : Nat) (table : Bool) :
    Nat → List (BitVec 256) → State × Except Bool (List (BitVec 256 × BitVec 512))
  | _, [] => (s, .ok [])
  | k, e :: es =>
    if entryBad e dies table then (s.rejectEntry q 0x0004 0x10 k, .error true) else
    match s.readHeader q first (entryFld e 0 8) with
    | (s, .error none) => (s, .error false)
    | (s, .error (some d)) => (s.rejectEntry q 0x0005 d k, .error true)
    | (s, .ok h) =>
      match s.checkEntries q first dies table (k + 1) es with
      | (s, .error b) => (s, .error b)
      | (s, .ok more) => (s, .ok ((e, h) :: more))

/-- R184: the reason for which a step table is rejected: 0xFFFF for its header, else the entry. -/
def State.stepBad (s : State) (first dies : Nat) (ks : List (BitVec 256 × BitVec 512)) (head : BitVec 128) (es : List (BitVec 128)) : Option Nat :=
  let n := byteFld head 6 2
  let ends := (es.filter fun e => byteFld e 3 1 % 2 = 1).length
  if byteFld head 0 4 ≠ 0x50545331 || byteFld head 4 2 ≠ 1 || n = 0 || 4096 < n || byteFld head 10 6 ≠ 0 || byteFld head 8 2 ≠ ends then some 0xFFFF else
  match (List.range es.length).find? fun i =>
      let e := (es[i]?).getD 0
      let k := byteFld e 0 2
      let cf := byteFld e 4 2
      let cc := byteFld e 6 2
      2 ≤ byteFld e 3 1 || byteFld e 0xC 4 ≠ 0 || ks.length ≤ k || cc = 0 || 16 * dies < cf + cc ||
      (i + 1 = es.length && byteFld e 3 1 = 0) ||
      (match ks[k]? with
       | some x => hdr x.2 8 4 / 4 % 2 = 1 && s.tooLarge first (layerLaunch k x (cf, cc) (some (i, e)))
       | none => false) with
  | some i => some i
  | none => none

/-- The 16-byte entries in a list of bytes. -/
def stepEntries (bs : List Byte) (n : Nat) : List (BitVec 128) :=
  (List.range n).map fun i => BitVec.ofNat 128 (leNat ((bs.drop (16 * i)).take 16))

/-- R344: a LAYER in its slice: its kernel list, its step table and every code object are read and checked; without a table its first
kernel is launched. -/
def State.startLayer (s0 : State) (q first : Nat) (r : Run) : State :=
  let ctx := (s0.queue q).context
  let dies := (s0.partition first).dies
  let n := r.p 0x18 2
  let tab := r.p 0x20 8
  match s0.cpRead ctx (r.p 0x10 8) (32 * n) with
    | (u, .error .busy) => s0.woken u
    | (s, .error _) => s.reject q 0x0008 0
    | (s, .ok bs) =>
      let es := (List.range n).map fun i => BitVec.ofNat 256 (leNat ((bs.drop (32 * i)).take 32))
      let begin := fun (s : State) (steps : Option (BitVec 128 × List (BitVec 128))) =>
        match s.checkEntries q first dies (tab ≠ 0) 0 es with
        | (u, .error false) => s0.woken u
        | (s, .error true) => s
        | (s, .ok ks) =>
          match steps with
          | none =>
            (match ks with
             | [] => s
             | x :: _ =>
               let l := layerLaunch 0 x (cellRange (entryFld x.1 0x18 2) (entryFld x.1 0x1A 2) dies) none
               let s := s.modRun q fun r => { r with kernels := ks }
               if s.tooLarge first l then s.rejectEntry q 0x0007 0 0 else (s.runOn q).addLaunch q l)
          | some (head, es) =>
            match s.stepBad first dies ks head es with
            | some 0xFFFF => s.reject q 0x0006 0xFFFF
            | some i =>
              let k := byteFld ((es[i]?).getD 0) 0 2
              s.modRun q fun r => { r.fail 0x0006 i none with result := BitVec.ofNat 64 (k + i * 65536) }
            | none => (s.runOn q).modRun q fun r => { r with kernels := ks, steps := es }
      if tab = 0 then begin s none else
      match s.cpRead ctx tab 16 with
      | (u, .error .busy) => s0.woken u
      | (s, .error _) => s.reject q 0x0008 0
      | (s, .ok hb) =>
        let head : BitVec 128 := BitVec.ofNat 128 (leNat hb)
        let m := byteFld head 6 2
        let m := if 4096 < m then 0 else m
        match s.cpRead ctx (tab + 16) (16 * m) with
        | (u, .error .busy) => s0.woken u
        | (s, .error _) => s.reject q 0x0008 0
        | (s, .ok eb) => begin s (some (head, stepEntries eb m))

/-- The parameters of a LAYER (Table 11.3); a step table is 64-byte aligned (R183). -/
def layerParams (r : Run) : List Param :=
  [(0x10, 8, r.p 0x10 8 % 64 = 0), (0x18, 2, decide (1 ≤ r.p 0x18 2) && decide (r.p 0x18 2 ≤ 1024)), (0x20, 8, r.p 0x20 8 % 64 = 0)]

/-- LAYER: the checks of its packet, then, in its slice, its start. -/
def execLayer (queue : Fin 256) (s : State) : Res :=
  match s.sliceWaiter queue 3 with
  | some (r, f) => .next (match s.beginSliced queue f r with
    | none => s
    | some s => s.startLayer queue f r)
  | none => s.slicedCheck queue 3 layerParams

/-- A running LAYER and the first die of its partition. -/
def State.runningLayer (s : State) (q : Nat) : Option (Run × Nat) :=
  match s.run q, (s.context (s.queue q).context).first with
  | some r, some f => if r.stage = .running && r.opcode = 3 && r.status = 0 then some (r, f) else none
  | _, _ => none

/-- LAYER_KERNEL_ADVANCE (R344): without a step table, kernel k + 1 starts once kernel k has completed. -/
def execLayerKernelAdvance (queue : Fin 256) (s : State) : Res :=
  match s.runningLayer queue with
  | none => .next s
  | some (r, f) =>
    let k := r.launches.length
    if !r.steps.isEmpty || !(r.launches.all (·.done)) || s.power.coolStop then .next s else
    match r.kernels[k]? with
    | none => .next s
    | some x =>
      let l := layerLaunch k x (cellRange (entryFld x.1 0x18 2) (entryFld x.1 0x1A 2) (s.partition f).dies) none
      if s.tooLarge f l then .next (s.rejectEntry queue 0x0007 0 k) else .next (s.addLaunch queue l)

/-- R185: the number of steps that end before entry i. -/
def stepOf (es : List (BitVec 128)) (i : Nat) : Nat := ((es.take i).filter fun e => byteFld e 3 1 % 2 = 1).length

/-- R185: whether two entries share a cell. -/
def sharesCell (a b : BitVec 128) : Bool :=
  decide (byteFld a 4 2 < byteFld b 4 2 + byteFld b 6 2) && decide (byteFld b 4 2 < byteFld a 4 2 + byteFld a 6 2)

/-- R185: whether entry i has not started, its step has, and every earlier entry of its step that shares a cell with it has
completed. -/
def Run.entryReady (r : Run) (i : Nat) : Bool :=
  let isDone := fun (j : Nat) => r.launches.any fun l => l.entry = some j && l.done
  let e := (r.steps[i]?).getD 0
  let si := stepOf r.steps i
  decide (i < r.steps.length) && !(r.launches.any fun l => l.entry = some i) &&
  (List.range r.steps.length).all fun j =>
    let sj := stepOf r.steps j
    isDone j || !(sj < si || (sj = si && decide (j < i) && sharesCell e ((r.steps[j]?).getD 0)))

/-- R185 step 2: whether entry i may start now: of the entries that are ready, the first in table order. -/
def Run.mayStart (r : Run) (i : Nat) : Bool := r.entryReady i && (List.range i).all fun j => !r.entryReady j

/-- STEP_ENTRY_START (R185): entries of a step start in table order, each once the earlier ones on its cells have completed. -/
def execStepEntryStart (queue : Fin 256) (entry : Nat) (s : State) : Res :=
  match s.runningLayer queue with
  | none => .next s
  | some (r, f) =>
    if !r.mayStart entry || s.power.coolStop then .next s else
    let e := (r.steps[entry]?).getD 0
    let k := byteFld e 0 2
    match r.kernels[k]? with
    | none => .next s
    | some x =>
      let l := layerLaunch k x (byteFld e 4 2, byteFld e 6 2) (some (entry, e))
      if s.tooLarge f l then .next (s.modRun queue fun r => { r.fail 0x0007 0 none with result := l.result })
      else .next (s.addLaunch queue l)

/-! ## Placement of teams (R45, R339) -/

/-- R339: the range of a command that has started and whose code object or lists are still being read: a KERNEL's is in its packet, and
a LAYER, whose ranges its lists give, holds every cell of its partition until they are read (DESIGN CHOICE, log 101). -/
def Run.startRange (r : Run) (dies : Nat) : Nat × Nat :=
  if r.opcode = 2 then cellRange (r.p 0x28 2) (r.p 0x2A 2) dies else (0, 16 * dies)

/-- R339: a command that started earlier and still has teams to place holds a cell. -/
def State.cellHeld (s : State) (cell order : Nat) : Bool :=
  s.queues.any fun x => match x.2.run, (s.context x.2.context).first with
    | some r, some f =>
      (r.stage = .running && r.status = 0 && r.launches.any fun l =>
        decide (l.order < order) && decide (l.placed < l.teams) && (l.cells f).contains cell) ||
      (let (a, n) := r.startRange (s.partition f).dies
       r.stage = .waitSlice && r.start.isSome && decide (r.order < order) && decide (16 * f + a ≤ cell) && decide (cell < 16 * f + a + n))
    | _, _ => false

/-- R92: team entries of a cell that are free. -/
def State.entryFree (s : State) (cell : Nat) : Bool := decide ((s.teams.filter fun t => t.2.cell = cell && t.2.entry).length < 16)

/-- R205: the scratch ways of a partition that another context wrote are cleared. -/
def State.clearScratch (s : State) (first ctx : Nat) : State :=
  (s.partDies first).foldl (fun s t => (s.tile t).slices.foldl (fun s x =>
    (x.2.writer.filter fun w => w.2 ≠ ctx && x.2.scratch.getLsbD w.1).foldl (fun s w =>
      (s.zeroWay t x.1 w.1).modSlice t x.1 fun sl => { sl with writer := kdel sl.writer w.1 }) s) s) s

/-- R205: scratch is cleared before the first block of a command is placed: no launch of it has placed one. -/
def State.firstClear (s : State) (first ctx : Nat) (r : Run) : State :=
  if r.launches.all fun l => l.placed = 0 then s.clearScratch first ctx else s

/-- R51: the local memory of a block cleared at its start, unless it keeps what its context left. -/
def Core.keepsLocal (k : Core) (ctx base n : Nat) (keep : Bool) : Bool :=
  keep && ((List.range (n / 1024)).map (base / 1024 + ·)).all fun g => kget ctx k.lastOwner g = ctx
def Core.clearLocal (k : Core) (ctx base n : Nat) (keep : Bool) : Core :=
  if k.keepsLocal ctx base n keep then k else
  { k with lmem := k.lmem.filter (fun x => decide (x.1 < base) || decide (base + n ≤ x.1))
           lpoison := k.lpoison.filter fun w => decide (4 * w < base) || decide (base + n ≤ 4 * w) }

/-- Everything that a launch's blocks share. -/
structure Placing where
  queue : Nat
  run : Run
  n : Nat
  launch : Launch
  ctx : Nat
deriving DecidableEq, Repr

/-- A block of a team, with its groups at the entry point (R44, R132). -/
def Placing.block (p : Placing) (s : State) (team member : Nat) (sp : Spot) : Block :=
  let l := p.launch
  let h := l.header
  let k := s.queue p.queue
  let t := l.placed
  let entry := l.code + BitVec.ofNat 64 (hdr h 0x14 4)
  let threads : KMap Thread := (List.range 32).map fun i => (i, { pc := entry })
  let groups : KMap Group := (List.range sp.places.length).map fun g =>
    (g, { quarter := ((sp.places[g]?).getD (0, 0)).1, slot := ((sp.places[g]?).getD (0, 0)).2, threads := threads })
  { context := p.ctx, queue := p.queue, index := p.run.index, launch := p.n, stepPhase := l.stepPhase, team := team, member := member
    teamBlocks := hdr h 0xF 1, teamX := BitVec.ofNat 32 (t % l.gridX), teamY := BitVec.ofNat 32 (t / l.gridX % l.gridY)
    teamZ := BitVec.ofNat 32 (t / (l.gridX * l.gridY)), gridX := BitVec.ofNat 32 l.gridX, gridY := BitVec.ofNat 32 l.gridY
    gridZ := BitVec.ofNat 32 l.gridZ, flags := BitVec.ofNat 32 (hdr h 8 4), alloc := headerAlloc h, timeoutExp := hdr h 0xD 1
    groupCount := hdr h 0xE 1, localBytes := hdr h 0x10 4, localBase := sp.granule * 1024, args := l.args, aperture := k.aperture
    atp := k.atp, adHw := k.adHw, groups := groups }

/-- A block put on a core; at its command's first block there, the instruction caches are invalidated (R110). -/
def Placing.put (p : Placing) (s : State) (team member core : Nat) (sp : Spot) : State :=
  let b := p.block s team member sp
  let fresh := !(p.run.launches.any fun l => l.cores.contains core)
  let keeps := (s.core core).keepsLocal p.ctx b.localBase b.localBytes (bit b.flags 4)
  let lost := fun (u : Upset) => decide (u.unit = core) && ((decide (u.mem = .regFile) && decide (u.word / 2 ^ 18 = sp.pos)) ||
    (!keeps && decide (u.mem = .localStore) && decide (b.localBase ≤ 4 * u.word) && decide (4 * u.word < b.localBase + b.localBytes)))
  (s.dropUpsets lost).modCore core fun k =>
    let k := k.clearLocal p.ctx b.localBase b.localBytes (bit b.flags 4)
    let k := if fresh then { k with icache := [], qcache := [] } else k
    { k with blocks := kset k.blocks sp.pos b }

/-- What stands in the way of a team on some cores: none: it cannot go there; or the state in which it is waited for: a region
woken (R27), a way being converted (R99). -/
def State.prepare (s : State) (h : BitVec 512) (cores : List Nat) : Option State :=
  let size := hdr h 0x10 4 / 1024
  cores.foldl (fun (o : Option State) c => o.bind fun s =>
    let k := s.core c
    match k.spot (hdr h 0xE 1) (headerAlloc h) size true with
    | none => none
    | some _ =>
      let s := s.wakeRegion (c / 128) (c / 32 % 4)
      if k.converting || (k.spot (hdr h 0xE 1) (headerAlloc h) size false).isSome then some s
      else some (s.modCore c Core.convertWay)) (some s)

/-- Whether every core of a team can take its block now. -/
def State.teamReady (s : State) (h : BitVec 512) (cores : List Nat) : Bool :=
  cores.all fun c => s.coreRuns c && !(s.core c).converting &&
    ((s.core c).spot (hdr h 0xE 1) (headerAlloc h) (hdr h 0x10 4 / 1024) false).isSome

/-- R45: a team put on its cores. -/
def Placing.team (p : Placing) (s : State) (cell : Nat) (cores : List Nat) : State :=
  let h := p.launch.header
  let team := s.nextTeam
  let spots := cores.map fun c => (c, (s.core c).spot (hdr h 0xE 1) (headerAlloc h) (hdr h 0x10 4 / 1024) false)
  let members := spots.map fun (c, sp) => (c, (sp.map (·.pos)).getD 0)
  let s := { s with nextTeam := team + 1, teams := kset s.teams team { cell := cell, members := members, entry := decide (2 ≤ cores.length) } }
  (List.range cores.length).foldl (fun s m => match spots[m]? with
    | some (c, some sp) => p.put s team m c sp
    | _ => s) s

/-- R70, R343: the launch counts a team placed on its cores. -/
def State.countTeam (s : State) (q n : Nat) (cores : List Nat) : State :=
  s.modRun q fun r => { r with launches := r.launches.mapIdx fun i l =>
    if i = n then { l with placed := l.placed + 1, live := l.live + cores.length, cores := cores.foldl numIns l.cores } else l }

/-- A launch of a running command whose teams may be placed. -/
def State.placing (s : State) (q n : Nat) : Option (Placing × Nat) :=
  match s.run q, (s.context (s.queue q).context).first with
  | some r, some f =>
    match r.launches[n]? with
    | none => none
    | some l =>
      if r.stage = .running && r.status = 0 && l.placed < l.teams && !s.power.coolStop then
        some ({ queue := q, run := r, n := n, launch := l, ctx := (s.queue q).context }, f)
      else none
  | _, _ => none

/-- R45, R92, R339, R343: whether a team may be on these cores of a cell, the state of the cores themselves apart. -/
def State.teamAllowed (s : State) (p : Placing) (first cell : Nat) (cores : List Nat) : Bool :=
  (p.launch.cells first).contains cell && !s.cellHeld cell p.launch.order && cores.length = hdr p.launch.header 0xF 1 &&
  decide cores.Nodup && cores.all (s.cellCores cell).contains && (decide (cores.length < 2) || s.entryFree cell)

/-- TEAM_PLACE (R45, R78, R99, R205, R339): the next team of a launch goes to cores of a cell; where a region must wake or a way be
converted first, that begins. -/
def execTeamPlace (queue : Fin 256) (launch : Nat) (cell : Fin 192) (cores : List (Fin 8)) (s : State) : Res :=
  match s.placing queue launch with
  | none => .next s
  | some (p, f) =>
    let cs := cores.map fun k => cell.val / 16 * 128 + cell.val % 16 * 8 + k.val
    if hdr p.launch.header 8 4 / 4 % 2 = 1 || !s.teamAllowed p f cell cs then .next s
    else if !s.teamReady p.launch.header cs then .next ((s.prepare p.launch.header cs).getD s)
    else
      let s := s.firstClear f p.ctx p.run
      .next ((p.team s cell cs).countTeam queue launch cs)

/-- R46: the teams of a cooperative kernel placed one after another; none where one of them does not fit. -/
def State.placeAll (s : State) (q n : Nat) : List (Nat × List Nat) → Option State
  | [] => some s
  | (cell, cs) :: more =>
    match s.placing q n with
    | none => none
    | some (p, f) =>
      if !s.teamAllowed p f cell cs || !s.teamReady p.launch.header cs then none
      else ((p.team s cell cs).countTeam q n cs).placeAll q n more

/-- COOPERATIVE_START (R46): all teams of a cooperative kernel start at once, where all can be resident at once. -/
def execCooperativeStart (queue : Fin 256) (launch : Nat) (places : List (Fin 192 × List (Fin 8))) (s : State) : Res :=
  match s.placing queue launch with
  | none => .next s
  | some (p, f) =>
    let ps := places.map fun (cell, ks) => (cell.val, ks.map fun (k : Fin 8) => cell.val / 16 * 128 + cell.val % 16 * 8 + k.val)
    if hdr p.launch.header 8 4 / 4 % 2 = 0 || ps.length ≠ p.launch.teams then .next s else
    match (s.firstClear f p.ctx p.run).placeAll queue launch ps with
    | some s => .next s
    | none => .next (ps.foldl (fun s x => if s.teamAllowed p f x.1 x.2 then (s.prepare p.launch.header x.2).getD s else s) s)

/-- R70: whether a running KERNEL or LAYER has done everything it was asked to. -/
def Run.allDone (r : Run) : Bool :=
  r.launches.all (·.done) && (if r.opcode = 2 then !r.launches.isEmpty else
    if r.steps.isEmpty then r.launches.length = r.kernels.length && !r.kernels.isEmpty else r.launches.length = r.steps.length)

end Sys2Proof.Machine
end

