-- ==== Sys2Proof/Machine/CmdCrit.lean ====
section
/-! DEFINITION. Critical commands (R347 to R354): their authentication, and POWER_LIMIT, PARTITION_SET, SYSTEM_ADDRESS, RESET,
FIRMWARE_UPDATE, KEY_ROTATE and DEBUG_UNLOCK. -/

namespace Sys2Proof.Machine

/-! ## Authentication (R347 to R352) -/

/-- R348: the tag of X under a key. -/
def tagOf (key : BitVec 256) (x : List Byte) (custom : String) : BitVec 128 :=
  BitVec.ofNat 128 (leNat (kmac256 (leBytes 32 key.toNat) x (ascii custom) 16))

/-- Table 11.9. -/
def State.message (s : State) (ctx : Nat) (packet : BitVec 512) (payload : Option (List Byte)) : List Byte :=
  leBytes 16 s.boot.config.serial.toNat ++ leBytes 1 ctx ++ leBytes 48 (fld packet 0 384) ++
  (match payload with
   | some bs => sha3 bs
   | none => leBytes 32 0)

/-- R352: one more AUTH_FAIL of a context; the 16th in a row begins its lockout. -/
def State.authFail (s : State) (ctx : Nat) : State :=
  let n := (s.context ctx).fails + 1
  if n < 16 then s.modContext ctx fun c => { c with fails := n }
  else (s.modContext ctx fun c => { c with fails := 0, lockedAt := some s.ticks }).event 12 0x0301 ctx

/-- R350: context 0's counter is written to flash when it crosses a multiple of 2^16. -/
def crosses (a b : BitVec 64) : Bool := decide (a.toNat / 65536 ≠ b.toNat / 65536)

/-- R349 step 5, R350: the stored counter of a context takes a value. -/
def State.setCounter (s : State) (ctx : Nat) (v : BitVec 64) : State :=
  if ctx = 0 then
    let s := if crosses s.velvet.ctx0Counter v then s.modFlash fun f => f.writeBoot fun f => { f with ctx0Counter := v } else s
    s.modVelvet fun k => { k with ctx0Counter := v }
  else s.modContext ctx fun c => { c with counter := v }

/-- What a critical command needs: its issuer's rights, its parameters, its target's state, and what it does. -/
structure Critical where
  may : Run → Bool
  ps : Run → List Param
  /-- A field that is wrong for a reason of the command's own. -/
  more : Run → List Byte → Option Nat
  okState : Run → Bool
  act : Run → List Byte → State → State

/-- R349 steps 3 to 5 and R329 steps 3 to 6, with the payload copied. -/
def State.authenticated (s : State) (q ctx : Nat) (r : Run) (payload : Option (List Byte)) (c : Critical) : State :=
  let counter : BitVec 64 := BitVec.ofNat 64 (r.p 0x28 8)
  let good := match (s.context ctx).key with
    | some k => decide ((tagOf k (s.message ctx r.packet payload) "FT2-CMD").toNat = r.p 0x30 16)
    | none => false
  if !good then (s.authFail ctx).reject q 0x000A 0 else
  let s := s.modContext ctx fun k => { k with fails := 0 }
  if counter.toNat ≤ (s.counterOf ctx).toNat then s.reject q 0x000B 0 else
  let s := s.setCounter ctx counter
  if !c.may r then s.reject q 0x000C 0
  else match (r.badField (c.ps r)).orElse fun _ => c.more r (payload.getD []) with
    | some off => s.reject q 0x0004 off
    | none => if !c.okState r then s.reject q 0x000D 0 else c.act r (payload.getD []) (s.startClock q)

/-- R352: whether a critical command of another queue was read before and is still to be handled. -/
def State.criticalBefore (s : State) (q : Nat) (r : Run) : Bool :=
  s.queues.any fun x => x.1 ≠ q && (match x.2.run with
    | some y => y.stage = .fetched && decide (0x0800 ≤ y.opcode) && decide (y.readAt < r.readAt) && (s.fetched x.1 y.opcode).isSome
    | none => false)

/-- R349 step 2: the payload of a FIRMWARE_UPDATE is copied to the staging area of module flash. -/
def State.staged (s : State) (op : Nat) (bs : List Byte) : State := if op = 0x0804 then s.modFlash fun f => { f with staging := bs } else s

/-- R329, R349, R352: a critical command, once those read before it are handled: limit is the bound of its LENGTH, and size gives the bytes of its payload, if it has one. -/
def State.criticalCommand (s : State) (q op : Nat) (limit : Option Nat) (size : Run → Option Nat) (c : Critical) : Res :=
  let ctx := (s.queue q).context
  match s.fetched q op with
  | none => .next s
  | some r =>
    let long := match limit with
      | some n => decide (n < r.p 0x20 4)
      | none => false
    if long then .next (s.reject q 0x0004 0x20)
    else if s.criticalBefore q r then .next s
    else if (s.context ctx).lockedAt.isSome then .next (s.reject q 0x000A 0)
    else match size r with
      | none => .next (s.authenticated q ctx r none c)
      | some n => .next (s.afterRead q (s.cpRead ctx (r.p 0x18 8) n) fun bs s => (s.staged op bs).authenticated q ctx r (some bs) c)

/-- AUTH_LOCKOUT_END (R352): 1 s after a lockout began. -/
def execAuthLockoutEnd (context : Fin 32) (s : State) : Res :=
  match (s.context context).lockedAt with
  | none => .next s
  | some t => if s.elapsed t secTicks then .next (s.modContext context fun c => { c with lockedAt := none }) else .next s

/-- Table 11.5: whether a context has a privilege; context 0 has all. -/
def State.hasPriv (s : State) (ctx b : Nat) : Bool := ctx = 0 || (s.context ctx).priv.getLsbD b

def noPayload : Run → Option Nat := fun _ => none
def noMore : Run → List Byte → Option Nat := fun _ _ => none
def anyState : Run → Bool := fun _ => true

/-! ## POWER_LIMIT (R354, R368) -/

/-- POWER_LIMIT: a raised limit completes at the next update, a lowered one once the mean is at or below it, and one that leaves S as it is at the next update; under the brake or the
stop at once. -/
def execPowerLimit (queue : Fin 256) (s : State) : Res :=
  s.criticalCommand queue 0x0800 none noPayload
    { may := fun _ => s.hasPriv (s.queue queue).context 1
      ps := fun r => [(0x10, 2, 1500 ≤ r.p 0x10 2 && r.p 0x10 2 ≤ 3800)]
      more := noMore
      okState := anyState
      act := fun r _ s =>
        let w := r.p 0x10 2
        let old := s.velvet.sustained
        let s := (s.modVelvet fun v => { v with sustained := w }).modPower fun p => { p with limitAt := if old = w then p.limitAt else s.ticks }
        let s := s.powerEvent 0x020A w
        if s.power.brake || s.power.coolStop then s.finish queue 0
        else (s.runOn queue).modPower fun p => { p with limitWait := p.limitWait ++ [(queue.val, decide (old ≤ w))] } }

/-! ## PARTITION_SET (R353) -/

/-- Table 11.6: an entry of the payload; none where a reserved bit of it is set. -/
def setEntry (bs : List Byte) : Option SetEntry :=
  let at_ := fun (o n : Nat) => leNat ((bs.drop o).take n)
  let cfg : BitVec 64 := BitVec.ofNat 64 (at_ 0 8)
  let tiles : BitVec 64 := BitVec.ofNat 64 (at_ 8 8)
  let n := fld tiles 0 4
  if at_ 0x1D 3 ≠ 0 || cfg &&& 0xFFF0000038000000 ≠ 0 || tiles.toNat / 2 ^ (4 * n + 4) ≠ 0 then none
  else some (at_ 0x1C 1, cfg, tiles, (List.range 12).map fun i => at_ (0x10 + i) 1)

/-- R353 step 1: the payload's sets; none where one is not well formed, or has an owner outside the new partition. -/
def payloadSets (bs : List Byte) (n : Nat) (dies : BitVec 12) : Option (List SetEntry) :=
  let es := (List.range n).map fun i => setEntry ((bs.drop (32 * i)).take 32)
  if es.all fun e => match e with
      | some e => e.wellFormed && decide (BitVec.ofNat 12 (fld e.2.1 4 12) &&& ~~~ dies = 0)
      | none => false
  then some (es.filterMap id) else none

/-- R18. -/
def layoutOk (first n : Nat) : Bool := [1, 2, 3, 4, 6, 12].contains n && decide (first % n = 0) && decide (first + n ≤ 12)

/-- R353 step 4: the stack, packages and scratch ways of tile t hold zeros, and no copy of them stays in a cache (log 35). -/
def State.clearTile (s : State) (t : Nat) : State :=
  let s := s.zeroRange (memKey t 0) (memKey (t + 1) 0 - memKey t 0)
  let s := s.modTile t fun k => { k with
    dir := [], tags := [], slices := k.slices.map fun (j, sl) => (j, { sl with lines := [], victims := [], writer := [] }) }
  { s with caches := s.caches.map fun (n, ca) => (n, { ca with lines := ca.lines.filter fun x => x.2.home ≠ t }) }

/-- R353 step 3: the sets whose OWNER_DIES name one of some dies are made invalid on every tile. -/
def State.dropSets (s : State) (dies : BitVec 12) : State :=
  (List.range 12).foldl (fun s t =>
    (s.modTile t fun k => { k with isets := k.isets.map fun (n, i) =>
      (n, if BitVec.ofNat 12 (fld i.cfg 4 12) &&& dies ≠ 0 then ({ i with cfg := setBit i.cfg 0 false } : ISet) else i) }).noteC (.tile (Fin.ofNat 12 t))) s

/-- R353: a layout change. -/
def State.layOut (s : State) (first n : Nat) (pid : BitVec 32) (clear : Bool) (es : List SetEntry) : State :=
  let old := s.partitions.filter fun x => x.2.dies ≠ 0 && overlap x.1 x.2.dies first n
  let s := old.foldl (fun s x => if x.2.pid = 0 then s else s.setPid x.1 0) s
  let gone := old.flatMap fun (x : Nat × Partition) => (List.range x.2.dies).map (x.1 + ·)
  let s := { s with partitions := s.partitions.filter fun x => !(overlap x.1 x.2.dies first n) }
  let new := (List.range n).map (first + ·)
  let s := (s.dropSets (maskOf 12 (gone ++ new))).writeSets es
  let s := if clear then new.foldl (fun s t => s.clearTile t) s else s
  let fresh : Partition := { dies := n }
  let s := { s with partitions := kset s.partitions first fresh }
  if pid = 0 then s else s.setPid first pid

/-- PARTITION_SET. -/
def execPartitionSet (queue : Fin 256) (s : State) : Res :=
  let ctx := (s.queue queue).context
  let own := (s.context ctx).first
  let pidOnly := fun (r : Run) => r.p 0x12 1 % 2 = 1
  let dies := fun (r : Run) => maskOf 12 ((List.range (r.p 0x11 1)).map (r.p 0x10 1 + ·))
  s.criticalCommand queue 0x0801 none (fun r => if r.p 0x13 1 = 0 then none else some (32 * r.p 0x13 1))
    { may := fun r => ctx = 0 || (s.hasPriv ctx 2 && pidOnly r && own = some (r.p 0x10 1) && (s.partition (r.p 0x10 1)).dies = r.p 0x11 1)
      ps := fun r => [(0x10, 1, true), (0x11, 1, true), (0x12, 1, decide (r.p 0x12 1 < 4)), (0x13, 1, decide (r.p 0x13 1 ≤ 32)), (0x14, 4, true), (0x18, 8, true)]
      more := fun r bs =>
        if pidOnly r then none
        else if !layoutOk (r.p 0x10 1) (r.p 0x11 1) then some (if [1, 2, 3, 4, 6, 12].contains (r.p 0x11 1) then 0x10 else 0x11)
        else if (payloadSets bs (r.p 0x13 1) (dies r)).isNone then some 0x18 else none
      okState := fun r =>
        let first := r.p 0x10 1
        let n := r.p 0x11 1
        !(s.boot.debugScope = 2 && s.boot.debugDies &&& dies r ≠ 0 && r.p 0x14 4 ≠ 0) &&
        (if pidOnly r then 0 < n && (s.partition first).dies = n
         else !(s.contexts.any fun x => x.2.live && (match x.2.first with
           | none => false
           | some f => overlap f (s.partition f).dies first n || s.partitions.any fun p => p.2.dies ≠ 0 && p.1 = f && overlap f p.2.dies first n)))
      act := fun r bs s =>
        let pid : BitVec 32 := BitVec.ofNat 32 (r.p 0x14 4)
        let s := if pidOnly r then s.setPid (r.p 0x10 1) pid
          else s.layOut (r.p 0x10 1) (r.p 0x11 1) pid (decide (r.p 0x12 1 / 2 = 1)) ((payloadSets bs (r.p 0x13 1) (dies r)).getD [])
        s.finish queue 0 }

/-! ## SYSTEM_ADDRESS (R354) -/

/-- SYSTEM_ADDRESS. -/
def execSystemAddress (queue : Fin 256) (s : State) : Res :=
  s.criticalCommand queue 0x0802 none noPayload
    { may := fun _ => s.hasPriv (s.queue queue).context 3
      ps := fun r => [(0x10, 2, decide (r.p 0x10 2 < 1024)), (0x12, 1, decide (r.p 0x12 1 < 128))]
      more := noMore
      okState := anyState
      act := fun r _ s =>
        let s := s.modHub fun h => { h with pod := BitVec.ofNat 10 (r.p 0x10 2), module := BitVec.ofNat 7 (r.p 0x12 1), addressed := true }
        (s.retrainAll (List.range 12)).finish queue 0 }

/-! ## RESET (R391, R392) -/

/-- R392: a die reset of d begins, for a queue's command. A die that is fenced starts at step 2. -/
def State.resetDie (s : State) (q d : Nat) : State :=
  let s := s.startFence d 0
  s.modTile d fun k => { k with resetStep := if k.fenced then 2 else 1, resetBy := some q }

/-- RESET. -/
def execReset (queue : Fin 256) (s : State) : Res :=
  let ctx := (s.queue queue).context
  let own := (s.context ctx).first.getD 12
  let scope := fun (r : Run) => r.p 0x10 1
  let target := fun (r : Run) => r.p 0x11 1
  let dies := fun (r : Run) => if scope r = 2 then [target r] else if scope r = 3 then s.partDies (target r) else []
  s.criticalCommand queue 0x0803 none noPayload
    { may := fun r => ctx = 0 || (s.hasPriv ctx 4 && (match scope r with
        | 2 => (s.partDies own).contains (target r)
        | 3 => target r = own
        | _ => false))
      ps := fun r => [(0x10, 1, 2 ≤ scope r && scope r ≤ 5),
        (0x11, 1, match scope r with
          | 2 => decide (target r < 12)
          | 3 => decide ((s.partition (target r)).dies ≠ 0)
          | _ => decide (target r = 0))]
      more := noMore
      okState := fun r => (dies r).all fun d => let k := s.tile d; decide (k.resetStep = 0) && (k.up || k.fenced)
      act := fun r _ s =>
        if 4 ≤ scope r then (s.modRun queue fun k => { k with resetScope := scope r }).finish queue 0
        else
          let s := s.runOn queue
          let s := s.modRun queue fun k => { k with resetDies := dies r }
          (dies r).foldl (fun s d => s.resetDie queue d) s }

/-! ## FIRMWARE_UPDATE (R396, R400, R401) -/

/-- R396: whether signature and key of a header verify for an index of the boot ROM's digests. -/
def signedBy (bs : List Byte) (rom : Nat) (message : List Byte) (context : String) : Bool :=
  let key := (bs.drop 0x80).take 1312
  let sig := (bs.drop 0x5A0).take 2420
  decide (digest (sha3 key) = Config.romDigest rom) && Config.mldsaVerify (leNat key) (leNat message) (leNat (ascii context)) (leNat sig)

/-- R397: the sections of a configuration image's body, each with its type; none where a header or a section is cut short. -/
def bodySections : Nat → List Byte → Option (List (Nat × List Byte))
  | 0, bs => if bs.isEmpty then some [] else none
  | k + 1, bs =>
    if bs.isEmpty then some [] else
    let (typ, n, _) := Config.sectionHeader (leNat (bs.take 16))
    if bs.length < 16 + n then none else (bodySections k (bs.drop (16 + n))).map ((typ, (bs.drop 16).take n) :: ·)

/-- R397: the sections of a configuration image, where it has every required one of Table 13.4. -/
def imageSections (body : List Byte) : Option (List (Nat × List Byte)) :=
  (bodySections (body.length / 16 + 1) body).bind fun l => if [1, 2, 3, 4, 5, 6, 7].all fun t => l.any fun x => x.1 = t then some l else none

/-- R395, R396: the image that a staged copy holds, with its TYPE; none where it is not valid. -/
def State.verifyImage (s : State) (bs : List Byte) : Option (Nat × FlashImage) :=
  let at_ := fun (o n : Nat) => leNat ((bs.drop o).take n)
  let typ := at_ 4 2
  let body := at_ 0x10 4
  let top := (if typ = 1 then FlashArea.slot0.size else FlashArea.configA.size) - 4096
  let sections := imageSections ((bs.drop 4096).take body)
  let svn := at_ 8 4
  let h := sha3 (bs.take 0x5A0)
  let f := s.flash
  if at_ 0 4 = 0x4D495446 && (typ = 1 || typ = 2) && at_ 6 2 = 4096 && body ≤ top && 4096 + body ≤ bs.length &&
     at_ 0x15 11 = 0 && at_ 0x50 48 = 0 && at_ 0xF14 236 = 0 && at_ 0x14 1 < 3 &&
     decide (sha3 ((bs.drop 4096).take body) = (bs.drop 0x30).take 32) && signedBy bs (at_ 0x14 1) h "FT2-IMG" &&
     (if typ = 1 then decide (f.minSvnFw.toNat ≤ svn)
      else f.minSvnCfg.toNat ≤ svn && at_ 0x20 16 = s.boot.config.serial.toNat && sections.isSome) then
    some (typ, { h := digest h, svn := BitVec.ofNat 32 svn, count := BitVec.ofNat 32 (at_ 0xC 4)
                 config := if typ = 2 then Config.sectionFields (sections.getD []) else {} })
  else none

/-- R400, R418: an accepted image of queue q's command begins to be written, to the slot that did not boot or to the copy that was not
selected: what stood there is not valid any more. -/
def State.beginImage (s : State) (q typ : Nat) (i : FlashImage) : State :=
  let k := 1 - s.boot.fwSlot
  let s := if typ = 1 then s.modFlash fun f => f.writeBoot fun f => { f with fw := kdel f.fw k, slots := kset f.slots k .invalid }
    else s.modFlash fun f => { f with cfg := kdel f.cfg (1 - s.boot.cfgCopy) }
  s.modBoot fun b => { b with updates := kset b.updates q (typ, i) }

/-- R400, R401: an image has been written and verified: the slot is PENDING, or the image counter rises. -/
def State.storeImage (s : State) (typ : Nat) (i : FlashImage) : State :=
  if typ = 1 then
    let k := 1 - s.boot.fwSlot
    (s.modFlash fun f => f.writeBoot fun f => { f with fw := kset f.fw k i, slots := kset f.slots k (.pending 0) }).modBoot fun b =>
      { b with abandoned := false }
  else
    let s := s.modFlash fun f => { f with cfg := kset f.cfg (1 - s.boot.cfgCopy) i }
    let s := s.modVelvet fun v => { v with imageCount := i.count }
    (s.modFlash fun f => f.writeBoot fun f => { f with imageCount := i.count }).modBoot fun b => { b with abandoned := false }

/-- R400: the image of a queue's command, where one is being written, is complete as the command completes; a command that ends with
another status leaves it unfinished. -/
def State.endImage (s : State) (q : Nat) (r : Run) : State :=
  match kfind s.boot.updates q with
  | none => s
  | some (typ, i) => (if r.status = 0 then s.storeImage typ i else s).modBoot fun b => { b with updates := kdel b.updates q }

/-- FIRMWARE_UPDATE. -/
def execFirmwareUpdate (queue : Fin 256) (s : State) : Res :=
  s.criticalCommand queue 0x0804 (some FlashArea.staging.size) (fun r => some (r.p 0x20 4))
    { may := fun _ => s.hasPriv (s.queue queue).context 5
      ps := fun _ => [(0x18, 8, true), (0x20, 4, true)]
      more := noMore
      okState := fun _ => s.boot.debugScope ≠ 3
      act := fun _ bs s => match s.verifyImage bs with
        | none => s.reject queue 0x0004 0x18
        | some (typ, i) =>
          if typ = 2 && i.count.toNat ≠ s.velvet.imageCount.toNat + 1 then s.reject queue 0x0004 0x18
          else (s.beginImage queue typ i).runOn queue }

/-! ## KEY_ROTATE (R351, R411) -/

/-- R351: the new key from a wrapped one. -/
def unwrapKey (serial : BitVec 128) (key : BitVec 256) (target counter : Nat) (wrapped : BitVec 256) : BitVec 256 :=
  let x := leBytes 16 serial.toNat ++ leBytes 1 target ++ leBytes 8 counter
  wrapped ^^^ digest (kmacXof256 (leBytes 32 key.toNat) x (ascii "FT2-WRAP") 32)

/-- R411: the record that stores a key of a kind in the next generation. -/
def nextRecord (serial : BitVec 128) (kind : Nat) (old : BitVec 64 × BitVec 256) (k : BitVec 256) : BitVec 64 × BitVec 256 :=
  (old.1 + 1, unwrapRecord serial kind (old.1 + 1, k))

/-- KEY_ROTATE. -/
def execKeyRotate (queue : Fin 256) (s : State) : Res :=
  let ctx := (s.queue queue).context
  s.criticalCommand queue 0x0805 none (fun _ => some 32)
    { may := fun r => ctx = 0 || (s.hasPriv ctx 6 && r.p 0x10 1 = ctx)
      ps := fun r => [(0x10, 1, decide (r.p 0x10 1 < 32)), (0x18, 8, true)]
      more := noMore
      okState := fun r => (s.context (r.p 0x10 1)).live && s.boot.debugScope ≠ 3
      act := fun r bs s =>
        let t := r.p 0x10 1
        let sn := s.boot.config.serial
        let k := unwrapKey sn ((s.context ctx).key.getD 0) t (r.p 0x28 8) (digest bs)
        let s := s.modContext t fun c => { c with key := some k, counter := 0 }
        let s := if t = 0 then s.modFlash fun f => f.writeKey 0 (nextRecord sn 0 f.ctx0Key k) else s
        s.finish queue 0 }

/-! ## DEBUG_UNLOCK (R416, R417) -/

/-- R416, Table 13.13: whether a token is accepted for a scope. -/
def State.tokenOk (s : State) (bs : List Byte) (scope : Nat) : Bool :=
  let at_ := fun (o n : Nat) => leNat ((bs.drop o).take n)
  at_ 0 4 = 0x47444254 && at_ 5 1 = 0 && at_ 0x38 72 = 0 && 0xF14 ≤ bs.length && at_ 4 1 = scope &&
  (scope = 2 || at_ 6 2 = 0) && at_ 6 2 < 4096 && at_ 8 16 = s.boot.config.serial.toNat && at_ 0x18 32 = s.boot.debugNonce.toNat &&
  signedBy bs 3 (sha3 (bs.take 0x5A0)) "FT2-DBG"

/-- R416, Table 13.12: the condition of a scope, for the token's dies. -/
def State.scopeOk (s : State) (scope : Nat) (dies : BitVec 12) : Bool :=
  match scope with
  | 2 => (setBits dies).all fun d =>
      let f := s.partOf d
      (s.partition f).pid = 0 && !(s.contexts.any fun x => x.1 ≠ 0 && x.2.live && x.2.first = some f && (s.partDies f).contains d)
  | 3 => !(s.contexts.any fun x => x.1 ≠ 0 && x.2.live)
  | _ => true

/-- R417: an unlock, or RELOCK: SEC_DEBUG_STATE, the event, and for a token M6 and a new nonce. -/
def State.unlock (s : State) (scope : Nat) (dies : BitVec 12) (token : Option (List Byte)) : State :=
  let s := s.modBoot fun b => { b with debugScope := BitVec.ofNat 2 scope, debugDies := dies }
  match token with
  | none => s
  | some bs =>
    let s := s.extend 6 (digest (sha3 bs))
    let (n, s) := s.drawMany 4
    (s.modBoot fun b => { b with debugNonce := BitVec.ofNat 256 n }).event 12 0x0303 (scope + dies.toNat * 4)

/-- DEBUG_UNLOCK. -/
def execDebugUnlock (queue : Fin 256) (s : State) : Res :=
  s.criticalCommand queue 0x0806 (some 4096) (fun r => if r.p 0x10 1 = 0 then none else some (r.p 0x20 4))
    { may := fun _ => s.hasPriv (s.queue queue).context 7
      ps := fun r => [(0x10, 1, decide (r.p 0x10 1 < 4)), (0x18, 8, true), (0x20, 4, true)]
      more := noMore
      okState := anyState
      act := fun r bs s =>
        let scope := r.p 0x10 1
        if scope = 0 then (s.unlock 0 0 none).finish queue 0
        else if !s.tokenOk bs scope then s.reject queue 0x0004 0x18
        else
          let dies : BitVec 12 := BitVec.ofNat 12 (leNat ((bs.drop 6).take 2))
          if !s.scopeOk scope dies then s.reject queue 0x000D 0
          else (s.unlock scope dies (some (bs.take 0xF14))).finish queue 0 }

/-! ## Completion (R70, R334, R335, R391) -/

/-- Whether a run may complete: its command has ended, and what it waits for has. -/
def State.mayComplete (s : State) (q : Nat) (r : Run) : Bool :=
  let waits := r.destroys.isSome || r.destroysQueue.isSome || !r.resetDies.isEmpty
  match r.stage with
  | .ending => s.runEnded q r
  | .running =>
    if r.opcode = 0x0804 then (kfind s.boot.updates q).isSome
    else if waits then s.destroyed q r && r.resetDies.all fun d => (s.tile d).resetBy ≠ some q
    else (r.opcode = 2 || r.opcode = 3) && r.allDone && s.runEnded q r
  | .fetched => false
  | .waitSlice => false
  | .done => false

/-- R391, R392: what a completing RESET of dies reports. -/
def State.resetStatus (s : State) (r : Run) : Run :=
  let bad := r.resetDies.filter fun d => (s.tile d).fenced
  if r.resetDies.isEmpty || r.status ≠ 0 || bad.isEmpty then r
  else { r with status := 0x0011, detail := BitVec.ofNat 32 (maskOf 12 bad).toNat }

/-- R334, R335, R391: what follows a completion. -/
def State.afterComplete (s : State) (q : Nat) (r : Run) : State :=
  let s := match r.destroys with
    | some c => if r.status = 0 && (s.context c).ending = some q then s.eraseContext c else s
    | none => s
  let s := match r.destroysQueue with
    | some x => if (s.queue x).run.isNone then s.freeQueue x else s
    | none => s
  let waited := s.queues.any fun x => match x.2.run with
    | some k => k.destroysQueue = some q
    | none => false
  let s := if (s.queue q).stopping && !waited then s.freeQueue q else s
  match r.resetScope with
  | 4 => s.hostReset 4
  | 5 => s.packageReset
  | _ => s

/-- COMMAND_COMPLETE (R70). -/
def execCommandComplete (queue : Fin 256) (s : State) : Res :=
  match s.run queue with
  | none => .next s
  | some r =>
    if !s.ready || s.ticks < s.boot.cpUpAt || !s.mayComplete queue r then .next s else
    let r := s.resetStatus r
    match (s.endImage queue r).complete queue r with
    | .error u => .next (s.woken u)
    | .ok s => .next (s.afterComplete queue r)

end Sys2Proof.Machine
end

