-- ==== Sys2Proof/Machine/Fence.lean ====
section
/-! DEFINITION. The loss of a die (R16, R17, R258 to R261, R455 to R458), its reset and readmission (R392, R459), handling windows,
fence actions and escalation (R450 to R452), and regulator phases (R466). -/

namespace Sys2Proof.Machine

/-- The die on which a unit lies (Table 15.6), for a record of a SOURCE; package units have none. -/
def unitDie (source unit : Nat) : Option Nat :=
  let i := unit % 2 ^ 24
  match unit / 2 ^ 24 with
  | 0x01 => some (i / 136)
  | 0x02 => some (i / 4)
  | 0x03 => some (i / 128)
  | 0x04 => some source
  | 0x05 => some (i / 8)
  | 0x06 => some (i / 8)
  | 0x0B => some i
  | _ => none

/-- The tiles that survive. -/
def State.survivors (s : State) : List Nat := (List.range 12).filter fun t => (s.tile t).up && !(s.tile t).fenced

/-- The links of a tile. -/
def tileLinks (t : Nat) : List Nat := (List.range 8).map (8 * t + ·)

/-! ## Caches and homes (R258 to R261) -/

/-- The coherent caches of a die. -/
def dieCaches (d : Nat) : List Nat := (List.range 128).map (d * 128 + ·) ++ (List.range 8).map (1536 + d * 8 + ·)

/-- R258: PURGE, naming the fenced tile, to every cache of the partition. -/
def State.sendPurges (s : State) (d : Nat) : State :=
  let ds := (s.partDies (s.partOf d)).filter fun x => s.survivors.contains x
  let ns := ds.flatMap dieCaches
  let s := { s with floor := s.floor ++ ns.map fun n => ({ op := .purge, msg := s.cacheMsg n d 1 false } : Flight) }
  s.modHub fun h => { h with purges := h.purges ++ ns.map fun n => (n, d) }

/-- R225: the surviving tiles that hold the mirror copies of tile d's units. -/
def State.takers (s : State) (d : Nat) : List Nat :=
  s.survivors.filter fun m => (List.range 32).any fun n =>
    let i := (s.tile m).iset n
    i.valid && i.mirror && (List.range i.count).any fun p => i.tileAt p = d && i.tileAt ((p + 1) % i.count) = m

/-- R259: LINE_POISONED. -/
def State.linePoisoned (s : State) (t pa n : Nat) : State :=
  s.record t { typ := 0x06, cls := 2, source := t, unit := unitOf 0x0B (cacheTile n), payload := pack [(0, 8, pa), (8, 2, n)] }

/-- R259: the answer taken in place of cache n of the fenced die for the transaction on directory line l of tile t: an owner's is
DATA_DIRTY with every POISON bit set, forwarded where Table 8.5 forwards data; any other is SNP_MISS. -/
def State.answerFor (s : State) (t l n : Nat) : State :=
  match (s.tile t).txns.find? fun x => x.line = l && x.waiting.contains n with
  | none => s
  | some x =>
    let pa := (s.paOf t (x.recallOf.getD x.line * 128)).getD 0
    let bad : LineData := { data := 0, poison := 0xF }
    let owner : Bool := match x.recallOf with
      | some v => (((s.tile t).dirFind v).bind fun e => e.2.holder) = some n
      | none => x.owner = some n
    if !owner then s.answered t (pa / 128) n .miss none
    else if x.recallOf.isSome then (s.linePoisoned t pa n).answered t (pa / 128) n .wbData (some bad)
    else
      let toReq := fun (s : State) => s.sendFloor .dataDirty { reply x.req.msg 3 8 with data := 0, poison := 0xF }
      match x.req.op with
      | .rdS => (toReq s).answered t (pa / 128) n .fwdO none
      | .rdX => (toReq (s.linePoisoned t pa n)).answered t (pa / 128) n .fwdI none
      | .upg => (toReq (s.linePoisoned t pa n)).answered t (pa / 128) n .fwdI none
      | .rdLineNc => (toReq s).answered t (pa / 128) n .fwdKeep none
      | .rdSector => (toReq s).answered t (pa / 128) n .fwdKeep none
      | _ => (s.linePoisoned t pa n).answered t (pa / 128) n .wbData (some bad)

/-- R259 for every transaction that waits for a cache of die d. -/
def State.answerFenced (s : State) (d : Nat) : State :=
  let waits := s.survivors.flatMap fun t => (s.tile t).txns.flatMap fun x =>
    (x.waiting.filter fun n => cacheTile n = d).map fun n => (t, x.line, n)
  waits.foldl (fun s x => s.answerFor x.1 x.2.1 x.2.2) s

/-! ## The commands (R341, R456) -/

/-- Whether the command of queue q and index i has a block on die d. -/
def State.onDie (s : State) (d q : Nat) (i : BitVec 64) : Bool :=
  s.cores.any fun c => c.1 / 128 = d && c.2.blocks.any fun b => b.2.queue = q && b.2.index = i

/-- The queues whose commands have blocks on die d. -/
def State.blockQueues (s : State) (d : Nat) : List Nat :=
  (s.queues.filter fun x => match x.2.run with
    | some r => s.onDie d x.1 r.index
    | none => false).map (·.1)

/-- R341: the command of a queue ends with FENCED and the mask of its fenced dies. -/
def State.fenceRun (s : State) (q : Nat) : State :=
  match s.run q with
  | none => s
  | some r =>
    if r.status = 0x0011 then s.modRun q fun r => { r with detail := r.fencedDies.zeroExtend 32 }
    else s.terminate q 0x0011 r.fencedDies.toNat 8

/-- R341, R456: the commands with blocks or engines on the die end with FENCED; how many there are. -/
def State.fenceCommands (s : State) (d : Nat) : State × Nat :=
  let part := s.partOf d
  let qs := s.blockQueues d
  let cs := (s.colls.filter fun c => c.first = part && c.code.isNone).map fun c => c.queue
  let all := (qs ++ cs).eraseDups
  let s := all.foldl (fun s q => s.modRun q fun r => { r with fencedDies := setBit r.fencedDies d true }) s
  (qs.foldl (fun s q => s.fenceRun q) (s.endColls part 8), all.length)

/-! ## What is lost (R457) -/

/-- A DATA_LOST record (Table 15.11). -/
def State.dataLost (s : State) (unit set kind pos : Nat) (i : ISet) : State :=
  (s.recordAt 12 { typ := 0x22, cls := 4, source := 12, unit := unit
                   payload := pack [(0, 1, set), (1, 1, kind), (2, 1, pos), (3, 1, i.count), (8, 8, if kind = 2 then 0 else i.base),
                     (16, 2, if kind = 2 then 0 else i.sizeGib)]}).1

/-- R457, Table 15.10: the losses of the fence of die d. -/
def State.reportLosses (s : State) (d : Nat) : State :=
  let k := s.tile d
  let unit := unitOf 0x0B d
  let dead := fun (t : Nat) => (s.tile t).fenced
  let s := (List.range 32).foldl (fun s n =>
    let i := k.iset n
    match (List.range i.count).find? fun p => i.valid && i.tileAt p = d with
    | none => s
    | some p =>
      if i.count = 1 then s.dataLost unit n 1 p i
      else if i.mirror then
        ([p, (p + i.count - 1) % i.count].eraseDups.filter fun q => dead (i.tileAt q) && dead (i.tileAt ((q + 1) % i.count))).foldl
          (fun s q => s.dataLost unit n 3 q i) s
      else s.dataLost unit n 0 p i) s
  if k.slices.any fun x => x.2.scratch ≠ 0 then s.dataLost unit 0xFF 2 0 {} else s

/-! ## FENCE_TAKES_EFFECT (R16, R17, R258 to R260, R456) -/

/-- R455, R468: what was under way for units of die d is abandoned, its retirements and repairs among it; purges that its caches owed
are owed no more. -/
def State.abandon (s : State) (d : Nat) : State :=
  let stay := fun (x : Nat × Core) => (x.1, if x.1 / 128 = d then { x.2 with retiring := none } else x.2)
  let quiet := fun (x : Nat × Dram) => (x.1, { x.2 with candidates := [], heldBanks := [] })
  let s := { s with cores := s.cores.map stay }
  let s := s.modTile d fun k => { k with drams := k.drams.map quiet }
  let s := s.modHub fun h => { h with
    windows := h.windows.filter fun w => unitDie w.source w.unit.toNat ≠ some d
    actions := h.actions.filter fun a => unitDie a.1 a.2 ≠ some d
    purges := h.purges.filter fun p => cacheTile p.1 ≠ d }
  (List.range 12).foldl (fun s f => if (s.tile f).fenced && f ≠ d then s.purged f else s) s

/-- The blocks, crossbar requests and remote transactions of die d are gone. -/
def State.dropDie (s : State) (d : Nat) : State :=
  let s := ((List.range 128).map (d * 128 + ·)).foldl (fun s c =>
    (kkeys (s.core c).blocks).foldl (fun s b => s.releaseBlock c b) s) s
  let s := { s with xbar := s.xbar.filter fun x => x.2.core / 128 ≠ d, localFrames := s.localFrames.filter fun x => x.1 ≠ d }
  s.modTile d fun k => { k with remotes := [] }

/-- FENCE_TAKES_EFFECT: the fence's floor request timeout has expired. Requests to the die that are outstanding end by their own
timeout. -/
def execFenceTakesEffect (d : Fin 12) (s : State) : Res :=
  match (s.tile d).fence with
  | none => .next s
  | some (cause, at_) =>
    if !s.floorLate at_ then .next s else
    let t : Nat := d
    let s := s.modTile t fun k => { k with fence := none, fenced := true, resetStep := if k.resetStep = 1 then 2 else k.resetStep }
    let s := s.abandon t
    let s := s.sendPurges t
    let takers := s.takers t
    let s := s.survivors.foldl (fun s x => s.modTile x fun k => { k with
      scans := if k.scans.contains t then k.scans else k.scans ++ [t]
      taking := if takers.contains x && !k.taking.contains t then k.taking ++ [t] else k.taking }) s
    let s := (s.purged t).answerFenced t
    let (s, n) := s.fenceCommands t
    let s := (tileLinks t).foldl (fun s l => if (s.link l).state = .off then s else s.darken l .off) s
    let s := s.dropDie t
    let s := (s.recordAt 12 { typ := 0x20, cls := 4, source := 12, flags := if cause = 3 then 2 else 0, unit := unitOf 0x0B t
                              payload := pack [(0, 1, t), (1, 1, cause), (8, 8, n)] }).1
    let s := s.reportLosses t
    .next ((s.outbox 0x11 t cause 1).noteSlow (s.partOf t))

/-! ## What starts a fence (R455) -/

/-- HEARTBEAT_TIMEOUT (R455): the heartbeat of an admitted die or of its tile is absent for 10 ms. -/
def execHeartbeatTimeout (d : Fin 12) (s : State) : Res := .next (if (s.tile d).up then s.startFence d 2 else s)

/-- DIE_PLL_FAILURE (R455): the die's clocks stop by a fault; its cores and caches fall silent. -/
def execDiePllFailure (d : Fin 12) (s : State) : Res :=
  if (s.die d).pll then .next (s.modDie d fun k => { k with pllFailed := true }) else .next s

/-! ## Die reset (R390, R392, R459) -/

/-- R271, R303, R390: what of a link outlives a reset of its tile: decommissioned lanes and counters, and its rail's limit. ENABLE and
LANE_EN take their reset values; a link that was enabled is enabled again at the readmission (R392 step 5, log 37). -/
def Link.afterReset (k : Link) : Link :=
  { again := k.enable || k.again, oneLane := k.oneLane, decom := k.decom, corr0 := k.corr0, corr1 := k.corr1, uncorr := k.uncorr
    replayCnt := k.replayCnt, retrains := k.retrains, foreign := k.foreign, rejects := k.rejects, nakRx := k.nakRx, stale := k.stale
    creditWait := k.creditWait }

/-- Step 2: the die's clocks stop, and the die and tile logic are reset. The warden keeps the partition's interleave sets. -/
def State.resetLogic (s : State) (d : Nat) : State :=
  let k := s.tile d
  let fresh : Tile := { fenced := true, resetStep := 3, resetBy := k.resetBy, isets := k.isets }
  let s := s.modTile d fun _ => fresh
  let s := s.modDie d fun _ => {}
  let s := { s with
    cores := s.cores.filter fun x => x.1 / 128 ≠ d
    caches := s.caches.filter fun x => cacheTile x.1 ≠ d
    upsets := s.upsets.filter fun u => u.mem = Coded.reserve || decide (u.unit / 128 ≠ d) }
  let s := s.modBoot fun b => { b with halted := b.halted.filter fun c => c / 128 ≠ d, haltedHosts := b.haltedHosts.filter fun h => h / 8 ≠ d }
  let s := s.modPwr d fun x => { x with n := 0, m := 0 }
  (tileLinks d).foldl (fun s l => s.modLink l Link.afterReset) s

/-- The die reset ends without readmission: the die stays fenced. -/
def State.resetFails (s : State) (d : Nat) : State :=
  let fresh : Tile := { fenced := true, isets := (s.tile d).isets }
  s.modTile d fun _ => fresh

/-- Step 4: the handshake with the die's word, the core map, the repairs, the UCIe links' training (R12), the timestamp counter and the
image's registers. -/
def State.reloadDie (s : State) (d : Nat) (w : BitVec 32) (bad slow : List Nat) : State :=
  let s := (((s.bringUp d w).degradeUcie d bad slow).repairDram d).configureTile d
  let s := s.boot.config.registers.foldl (fun s x =>
    let v := confWindow x.1
    if v.ring = d then s.write4 v x.2.1 x.2.2.toNat else s) s
  s.modTile d fun k => { k with resetStep := 5 }

/-- The primary tile of the unit whose mirror copy holds a byte of tile m. -/
def State.takenFrom (s : State) (m tma : Nat) : Option Nat :=
  if isScratch tma then none else
  match s.setOfTma m tma with
  | none => none
  | some (n, p) =>
    let i := (s.tile m).iset n
    if i.mirror && decide (i.half ≤ offOf tma - i.localBase) then some (i.tileAt ((p + i.count - 1) % i.count)) else none

/-- R261: whether tile m still works on a unit that it took over from tile d. -/
def State.takenBusy (s : State) (m d : Nat) : Bool :=
  (s.tile m).txns.any (fun x => s.takenFrom m (x.line * 128) = some d) || (s.tile m).slices.any fun x => !x.2.misses.isEmpty || !x.2.parked.isEmpty

/-- R261: tile m recalls the entries of the units that it took over from tile d, and writes their lines. -/
def State.giveBack (s : State) (m d : Nat) : State :=
  let mine := fun (tma : Nat) => s.takenFrom m tma = some d
  let r : Req := { tile := m, part := s.partOf m, cls := 6 }
  let s := (((s.tile m).dir.map fun x => x.2.line).filter fun l => mine (l * 128)).foldl (fun s l => s.recallLine m l) s
  (s.tile m).slices.foldl (fun s (j, sl) =>
    let s := sl.victims.foldl (fun s v =>
      if mine (v.1 * 128) then
        (s.modSlice m j fun x => { x with victims := x.victims.erase v }).dramWrite m (v.1 * 128) { data := v.2.1, poison := v.2.2 } allBytes r
      else s) s
    sl.lines.foldl (fun s (key, l) =>
      let tma := llmTma j (key / 16) l.tag
      if sl.scratch.getLsbD (key % 16) || !mine tma then s else
      let s := s.modSlice m j fun x => { x with lines := kdel x.lines key }
      if l.dirty then s.dramWrite m tma { data := l.data, poison := l.poison } allBytes r else s) s) s

/-- n bytes of tile t's memory from a, with their poison and tags, copied to tile t' from a'. -/
def State.copyUnits (s : State) (t a t' a' n : Nat) : State :=
  let src := memKey t a
  let dst := memKey t' a'
  let cells := s.mem.filter fun c => decide (src ≤ c.1) && decide (c.1 < src + n)
  let bad := s.poison.filter fun p => decide (src / 32 ≤ p) && decide (p < (src + n) / 32)
  let tags := (s.tile t).tags.filter fun x => decide (a / 32 ≤ x.1) && decide (x.1 < (a + n) / 32)
  let s := s.zeroRange dst n
  let s := { s with mem := cells.foldl (fun m (c : Host.Cell) => cellSet m (dst + (c.1 - src)) c.2) s.mem
                    poison := bad.foldl (fun l p => numIns l (dst / 32 + (p - src / 32))) s.poison }
  s.modTile t' fun k => { k with tags := tags.foldl (fun m (x : Nat × BitVec 8) => kset m (a' / 32 + (x.1 - a / 32)) x.2) k.tags }

/-- R459 step 2: every mirrored unit with a copy on tile d is copied from its surviving copy; how many there are. A unit whose source
is on a fenced tile is lost (R468). -/
def State.resync (s : State) (d : Nat) : State × Nat :=
  (List.range 32).foldl (fun (x : State × Nat) n =>
    let s := x.1
    let i := (s.tile d).iset n
    match (List.range i.count).find? fun p => i.valid && i.mirror && i.tileAt p = d with
    | none => x
    | some p =>
      let m := i.tileAt ((p + 1) % i.count)
      let q := i.tileAt ((p + i.count - 1) % i.count)
      let base := fun (t : Nat) => ((s.tile t).iset n).localBase
      let live := fun (t : Nat) => s.survivors.contains t
      let s1 := if live m then s.copyUnits m (base m + i.half) d (base d) i.half else s
      let s2 := if live q then s1.copyUnits q (base q) d (base d + i.half) i.half else s1
      (s2, x.2 + (if live m then i.half / 4096 else 0) + (if live q then i.half / 4096 else 0))) (s, 0)

/-- R459, R392 step 5: the die is readmitted. -/
def State.readmit (s : State) (d : Nat) : State :=
  let s := (s.takers d).foldl (fun s m => s.giveBack m d) s
  let (s, n) := s.resync d
  let s := s.modTile d fun k => { k with fenced := false, resetStep := 0, resetBy := none }
  let s := (List.range 12).foldl (fun s t => (s.modTile t fun k => { k with taking := k.taking.filter (· ≠ d) }).retryHeld t) s
  let s := (s.recordAt 12 { typ := 0x21, cls := 0, source := 12, unit := unitOf 0x0B d, payload := pack [(0, 1, d), (8, 8, n)] }).1
  let s := s.outbox 0x11 d 0 0
  let s := (tileLinks d).foldl (fun s l => s.modLink l fun k => { k with enable := k.enable || k.again, again := false }) s
  let s := s.enableLinks [d]
  let s := (s.bootCommit (.tile (Fin.ofNat 12 d))).bootCommit (.die (Fin.ofNat 12 d))
  s.noteSlow (s.partOf d)

/-- DIE_RESET_STEP (R392, R404): the step under way completes; caps is the word that the die reports at step 4, and ok how its
repairs and UCIe links train. Step 5 waits while a tile works on units that go back. -/
def execDieResetStep (d : Fin 12) (caps : BitVec 32) (ok : DieTraining) (s : State) : Res :=
  let t : Nat := d
  match (s.tile t).resetStep with
  | 2 => .next (s.resetLogic t)
  | 3 => .next ((s.zeroRange (memKey t 0) (2 ^ 39)).modTile t fun k => { k with resetStep := 4 })
  | 4 =>
    let s := s.noteCaps t caps
    .next (if ok.ok && s.boot.config.admits s.boot.hubWord caps then s.reloadDie t caps (ok.bad.map (·.val)) (ok.slow.map (·.val)) else s.resetFails t)
  | 5 => if (s.takers t).any fun m => s.takenBusy m t then .next s else .next (s.readmit t)
  | _ => .next s

/-! ## Fence actions (R451, Table 15.6) -/

/-- Table 15.6, slice: its cache ways are written back and no longer used; its scratch ways are lost. -/
def State.fenceSlice (s : State) (t j : Nat) : State :=
  let sl := (s.tile t).slice j
  let dirty := (sl.lines.filter fun x => x.2.dirty).map fun (key, l) => (llmTma j (key / 16) l.tag / 128, l.data, l.poison)
  let s := s.modSlice t j fun x => { x with fenced := true, lines := [], victims := x.victims ++ dirty }
  let flush := fun (s : State) => match ((s.tile t).slice j).victims with
    | [] => s
    | v :: _ => if s.deviceHeld t (v.1 * 128) then s else s.flushVictim t j
  let s := (List.range (sl.victims.length + dirty.length)).foldl (fun s _ => flush s) s
  if sl.scratch = 0 then s else s.dataLost (unitOf 0x03 (t * 128 + j)) 0xFF 2 0 {}

/-- R462 for reason 0: the core at a position of a die is retired. -/
def State.retirePosition (s : State) (d p : Nat) : State :=
  match (List.range 128).find? fun k => (s.core (d * 128 + k)).present && decide ((s.core (d * 128 + k)).position.toNat = p) with
  | none => s
  | some k => s.beginRetire (d * 128 + k) 0

/-- R451, Table 15.6, DRAM bank: the rows of both records are repaired, where they have not been, and retired (R221). A second record that
is a PAGE_RETIRE calls for nothing more. -/
def State.retireRows (s : State) (source unit : Nat) : State :=
  let i := unit % 2 ^ 24
  let mine := fun (x : Nat × Nat × Nat) => decide (x.1 = source) && decide (x.2.1 = unit)
  let second := (s.hub.nestedRows.filter mine).map (·.2.2)
  if second.isEmpty then s else
  let rows := (((s.windowOf unit source).bind (·.row)).toList ++ second).eraseDups.filter fun r =>
    !(kget {} (s.tile source).drams (i / 256)).repaired.contains r
  rows.foldl (fun s r => s.addCandidate source (i / 256) (r / 2 ^ 20) (r % 2 ^ 20) true)
    (s.modHub fun h => { h with nestedRows := h.nestedRows.filter fun x => !mine x })

/-- R451: the fence action of a unit. A rail's is what R466 did at the loss of its phase. -/
def State.fenceAction (s : State) (source unit : Nat) : State :=
  let i := unit % 2 ^ 24
  match unit / 2 ^ 24 with
  | 0x01 => s.retirePosition (i / 136) (i % 136)
  | 0x02 => (regionCores (i / 4) (i % 4)).foldl (fun s c => s.beginRetire c 0) s
  | 0x03 => s.fenceSlice (i / 128) (i % 128)
  | 0x04 => s.retireRows source unit
  | 0x05 => s.fenceLink i
  | 0x06 => if i / 8 < 12 then s.startFence (i / 8) 6 else s
  | 0x07 => s.restartCpOnce
  | 0x08 => s.packageReset
  | 0x09 => s.hostReset 5
  | 0x0B => if i < 12 then s.startFence i 6 else s
  | _ => s

/-- R451: the fence actions that nested errors have called for are carried out, oldest first; a unit's window closes once its action has
completed, as after any recovery. That of the command processor waits for a running warden that holds the lease (R453). -/
def State.fenceActions (s : State) : State :=
  let waits := fun (a : Nat × Nat) => decide (a.2 / 2 ^ 24 = 7) && !s.wardenRuns
  let acts := s.hub.actions
  (acts.filter fun a => !waits a).foldl (fun s a => s.fenceAction a.1 a.2) (s.modHub fun h => { h with actions := h.actions.filter waits })

/-! ## Handling windows (R450, R452) -/

/-- R450: whether the recovery that a window's record calls for has completed (log 25). -/
def State.recovered (s : State) (w : Handling) : Bool :=
  let unit := w.unit.toNat
  let i := unit % 2 ^ 24
  let retires := fun (c : Nat) => (s.core c).retiring.isSome
  match unit / 2 ^ 24 with
  | 0x01 => !(List.range 128).any fun k =>
      retires (i / 136 * 128 + k) && decide ((s.core (i / 136 * 128 + k)).position.toNat = i % 136)
  | 0x02 => !(regionCores (i / 4) (i % 4)).any retires
  | 0x04 => s.wardenRuns && !(kget ({} : Dram) (s.tile w.source).drams (i / 256)).candidates.any fun c => c.1 / 2 ^ 20 = i % 256
  | 0x06 => s.wardenRuns && (s.tile (i / 8)).fence.isNone
  | 0x07 => s.wardenRuns && decide (s.boot.cpUpAt ≤ s.ticks)
  | 0x09 => s.wardenRuns && !s.host.resetting
  | 0x0B => s.wardenRuns && (s.tile i).fence.isNone
  | _ => s.wardenRuns

/-- R450: windows whose recovery has completed close. -/
def State.closeWindows (s : State) : State := s.modHub fun h => { h with windows := h.windows.filter fun w => !s.recovered w }

/-- R452: the ring and SEQ of a window's record. -/
def Handling.original (w : Handling) : Option (Nat × Nat) := some (w.ring, w.seq.toNat)

/-- R452: a window of the die or package level is escalated: the die is fenced, with cause 3, or the record has a fresh window of 100 ms for
the next holder. -/
def State.escalateWindow (s : State) (w : Handling) : State :=
  let u := w.unit.toNat
  match unitDie w.source u with
  | some d => (s.escalation 4 u w.source w.original).startFence d 3
  | none => (s.escalation 3 u w.source w.original).modHub fun h => { h with
      windows := (h.windows.filter fun x => !x.is u w.source) ++ [{ w with escalations := w.escalations + 1, opened := s.ticks }] }

/-- R452: whether the escalation of a window is the second of its record at the package level, which starts a package reset. -/
def Handling.lastOne (w : Handling) : Bool := (unitDie w.source w.unit.toNat).isNone && decide (1 ≤ w.escalations)

/-- R452: the second escalation of a record. -/
def State.escalateReset (s : State) (w : Handling) : State := (s.escalation 5 w.unit.toNat w.source w.original).packageReset

/-- R452: the lease passes to the other warden, where it stands by. -/
def State.passLease (s : State) : State :=
  let other := 1 - s.velvet.holder
  if kget 0 s.boot.wardens other = (2 : BitVec 3) then s.newHolder other (s.velvet.epoch + 1) else s

/-- Table 15.7: the windows that the warden handles: those of dies and of the package. -/
def State.wardenWindows (s : State) : List Handling :=
  s.hub.windows.filter fun w => w.unit.toNat / 2 ^ 24 ≠ 0x01 && w.unit.toNat / 2 ^ 24 ≠ 0x02

/-- R452, Table 15.7: the warden that holds the lease faults (it is silent, or its renewal is refused, log 25) while windows are open: each is
escalated, and then the lease passes as a function says. -/
def State.wardenFaults (s : State) (pass : State → State) : State :=
  match s.wardenWindows.find? Handling.lastOne with
  | some w => s.escalateReset w
  | none => pass (s.wardenWindows.foldl State.escalateWindow s)

/-- LEASE_RENEW (R406, R407): the holder's renewal with the lease's epoch is accepted; any other is refused, and that warden fences
itself. -/
def execLeaseRenew (w : Fin 2) (epoch : BitVec 32) (s : State) : Res :=
  if kget 0 s.boot.wardens w.val ≠ (3 : BitVec 3) then .next s
  else if w.val = s.velvet.holder && epoch = s.velvet.epoch then .next (s.modVelvet fun v => { v with renewed := s.ticks })
  else if w.val = s.velvet.holder then
    .next ((s.fenceWarden w).wardenFaults fun t => if s.wardenWindows.any fun x => (unitDie x.source x.unit.toNat).isNone then t.passLease else t)
  else .next (s.fenceWarden w)

/-- LEASE_CLAIM (R406, R452): a claim of a standby warden, accepted when its epoch exceeds EPOCH; a holder that still ran has faulted. -/
def execLeaseClaim (w : Fin 2) (epoch : BitVec 32) (s : State) : Res :=
  if kget 0 s.boot.wardens w.val ≠ (2 : BitVec 3) || !s.elapsed s.velvet.renewed (10 * msTicks) then .next s
  else if s.velvet.epoch.toNat < epoch.toNat then
    .next (if s.wardenRuns then s.wardenFaults fun t => t.newHolder w epoch else s.newHolder w epoch)
  else .next s

/-- HANDLING_WINDOW_TIMEOUT (R450, R452, Table 15.7): a window of the unit has been open for 100 ms. -/
def execHandlingWindowTimeout (unit : BitVec 32) (s : State) : Res :=
  match s.hub.windows.find? fun w => w.unit = unit && s.elapsed w.opened (100 * msTicks) && !s.recovered w with
  | none => .next s
  | some w =>
    let u := unit.toNat
    let i := u % 2 ^ 24
    match u / 2 ^ 24 with
    | 0x01 =>
      let s := s.escalation 3 u w.source w.original
      .next (((List.range 128).map (i / 136 * 128 + ·)).foldl (fun s c =>
        if (s.core c).present && decide ((s.core c).position.toNat = i % 136) then s.retireAtOnce c 1 else s) s)
    | 0x02 =>
      let s := s.escalation 3 u w.source w.original
      .next ((regionCores (i / 4) (i % 4)).foldl (fun s c => s.retireAtOnce c 1) s)
    | _ =>
      if w.lastOne then .next (s.escalateReset w)
      else
        let s := s.escalateWindow w
        .next (if (unitDie w.source u).isNone then s.passLease else s)

/-! ## Regulators (R466) -/

/-- R466: the links of a tile run on one lane each. -/
def State.oneLane (s : State) (t : Nat) : State :=
  (tileLinks t).foldl (fun s l =>
    let k := s.link l
    let s := s.modLink l fun k => { k with oneLane := true }
    if k.state = .active && k.lanes = 3 then s.enterRetrain l true else s) s

/-- REG_PHASE (R466): a rail loses phases, and has some number working; each phase lost has its record. -/
def execRegPhase (rail : Fin 74) (working : Nat) (s : State) : Res :=
  let r : Nat := rail
  let n := railN r
  let k : Rail := kget {} s.power.rails r
  if r = 0 || !s.hubUp || k.phases.getD (n + 1) ≤ working then .next s else
  let s := s.modPower fun p => { p with rails := kset p.rails r { k with phases := some working } }
  let lost := ((List.range (k.phases.getD (n + 1))).filter fun w => decide (working ≤ w)).reverse
  let s := lost.foldl (fun s w =>
    s.record 12 { typ := 0x10, cls := 3, source := 12, unit := unitOf 0x0A r, payload := pack [(0, 1, r), (1, 1, w), (2, 1, n)] }) s
  if n ≤ working then .next s
  else if working < (n + 1) / 2 then
    match railDie r with
    | some d => .next (if (s.tile d).up then s.startFence d 5 else s)
    | none => .next s.packageReset
  else match railDie r with
    | some d => .next (if 25 ≤ r && r ≤ 36 then s.oneLane d else s)
    | none => .next s

end Sys2Proof.Machine
end

