-- ==== Sys2Proof/Machine/Transc.lean ====
section
/-! DEFINITION. The special functions (R144): the exact mathematical function rounded once to nearest, ties to even.
Reciprocal and roots are exact quotients with a sticky bit. Exponential, logarithm, sine and cosine are enclosed between two
fixed-point bounds at growing precision until both bounds round to the same element; away from the arguments whose result
is exact, no such function value is a tie. -/

namespace Sys2Proof.Machine

/-- Integer square root from bit b downwards. -/
def isqrtFrom (n : Nat) : Nat → Nat → Nat
  | 0, r => r
  | b + 1, r => isqrtFrom n b (if (r + 2 ^ b) * (r + 2 ^ b) ≤ n then r + 2 ^ b else r)

/-- The largest r with r x r ≤ n. -/
def isqrt (n : Nat) : Nat := isqrtFrom n (Nat.log2 n / 2 + 1) 0

/-- A truncated positive value with its sticky bit: 2 x v + (1 if inexact). -/
def sticky (v : Nat) (inexact : Bool) : Nat := 2 * v + (if inexact then 1 else 0)

def Fmt.rcp (f : Fmt) (x : Nat) : Nat :=
  match f.decode x with
  | .nan => f.nan
  | .inf neg => f.sign neg
  | .fin neg m q =>
    if m = 0 then f.inf false neg else
    let k := f.mbits + 4 + Nat.log2 m
    f.round 0 false neg (sticky (2 ^ k / m) (2 ^ k % m ≠ 0)) (-q - k - 1)

def Fmt.sqrt (f : Fmt) (x : Nat) : Nat :=
  match f.decode x with
  | .nan => f.nan
  | .inf neg => if neg then f.nan else f.inf false false
  | .fin neg m q =>
    if m = 0 then f.sign neg else if neg then f.nan else
    let odd := q % 2 ≠ 0
    let m1 := if odd then 2 * m else m
    let q1 := if odd then q - 1 else q
    let n := m1 * 2 ^ (2 * (f.mbits + 4))
    let r := isqrt n
    f.round 0 false false (sticky r (r * r ≠ n)) (q1 / 2 - (f.mbits + 4) - 1)

def Fmt.rsq (f : Fmt) (x : Nat) : Nat :=
  match f.decode x with
  | .nan => f.nan
  | .inf neg => if neg then f.nan else 0
  | .fin neg m q =>
    if m = 0 then f.inf false neg else if neg then f.nan else
    let odd := q % 2 ≠ 0
    let m1 := if odd then 2 * m else m
    let q1 := if odd then q - 1 else q
    let k := f.mbits + 4 + Nat.log2 m1
    let n := 2 ^ (2 * k)
    let r := isqrt (n / m1)
    f.round 0 false false (sticky r (r * r * m1 ≠ n)) (-(q1 / 2) - k - 1)

/-! ## Fixed-point series; p is the number of fraction bits, and every result is within 2^16 units of the last place -/

/-- x^1/1 + x^3/3 + ... for x below 1/3, by term and its odd divisor. -/
def atanhSum (p x2 : Nat) : Nat → Nat → Nat → Nat
  | 0, _, _ => 0
  | n + 1, t, d => t / d + atanhSum p x2 n (t * x2 / 2 ^ p) (d + 2)

/-- x^1/1 - x^3/3 + ... -/
def atanSum (p x2 : Nat) : Nat → Nat → Nat → Bool → Int
  | 0, _, _, _ => 0
  | n + 1, t, d, s => (if s then -((t / d : Nat) : Int) else ((t / d : Nat) : Int)) + atanSum p x2 n (t * x2 / 2 ^ p) (d + 2) (!s)

/-- ln 2 = 2 atanh(1/3). -/
def ln2Fix (p : Nat) : Nat := 2 * atanhSum p (2 ^ p / 9) (p / 3 + 4) (2 ^ p / 3) 1

/-- pi by Machin's formula: 16 atan(1/5) - 4 atan(1/239). -/
def piFix (p : Nat) : Nat :=
  let a := atanSum p (2 ^ p / 25) (p / 4 + 4) (2 ^ p / 5) 1 false
  let b := atanSum p (2 ^ p / 57121) (p / 15 + 4) (2 ^ p / 239) 1 false
  (16 * a - 4 * b).toNat

/-- Sum of t + t x / k + t x x / (k (k+1)) + ... -/
def expSum (p x : Nat) : Nat → Nat → Nat → Nat
  | 0, _, _ => 0
  | n + 1, t, k => t + expSum p x n (t * x / 2 ^ p / k) (k + 1)

/-- t - t x2 / (k (k+1)) + ... -/
def altSum (p x2 : Nat) : Nat → Nat → Nat → Int
  | 0, _, _ => 0
  | n + 1, t, k => (t : Int) - altSum p x2 n (t * x2 / 2 ^ p / (k * (k + 1))) (k + 2)

/-- Error bound of every fixed-point result, in units of the last place. -/
def fixErr : Nat := 2 ^ 16

/-- The rounding of a value v x 2^-p known within fixErr, if both bounds agree. -/
def enclose (f : Fmt) (p : Nat) (v : Int) (e : Int) : Option Nat :=
  let lo := v - fixErr
  let hi := v + fixErr
  if lo ≤ 0 && 0 ≤ hi then none else
  let r := fun (x : Int) => f.round 0 false (x < 0) x.natAbs (e - p)
  if r lo = r hi then some (r lo) else none

/-- The first precision of the list at which the bounds agree; the last precision's value where none does. -/
def refine (f : Fmt) (val : Nat → Int × Int) : List Nat → Nat
  | [] => f.nan
  | [p] => let (v, e) := val p; f.round 0 false (v < 0) v.natAbs (e - p)
  | p :: ps => let (v, e) := val p; match enclose f p v e with
    | some r => r
    | none => refine f val ps

def precisions : List Nat := [128, 320, 640, 1280]

/-- 2^x for x = (-1)^neg x m x 2^q. -/
def exp2Val (neg : Bool) (m : Nat) (q : Int) (p : Nat) : Int × Int :=
  let x : Int := if 0 ≤ q + p then ((m <<< (q + p).toNat : Nat) : Int) else ((m >>> (-(q + p)).toNat : Nat) : Int)
  let x := if neg then -x else x
  let n := x / (2 ^ p : Nat)
  let y := (x % (2 ^ p : Nat)).toNat * ln2Fix p / 2 ^ p
  (expSum p y (p / 2 + 8) (2 ^ p) 1, n)

def Fmt.ex2 (f : Fmt) (x : Nat) : Nat :=
  match f.decode x with
  | .nan => f.nan
  | .inf neg => if neg then 0 else f.inf false false
  | .fin neg m q =>
    if m = 0 then f.round 0 false false 1 0 else
    let e := (Nat.log2 m : Int) + q
    if 12 ≤ e then (if neg then 0 else f.inf false false)
    else if e < -40 then f.round 0 false false 1 0
    else if 0 ≤ q || m % 2 ^ (-q).toNat = 0 then
      let n : Int := if 0 ≤ q then ((m <<< q.toNat : Nat) : Int) else ((m >>> (-q).toNat : Nat) : Int)
      f.round 0 false false 1 (if neg then -n else n)
    else refine f (exp2Val neg m q) precisions

/-- log2 of m x 2^q. -/
def log2Val (m : Nat) (q : Int) (p : Nat) : Int × Int :=
  let l := Nat.log2 m
  let y := m * 2 ^ p / 2 ^ l
  let z := (y - 2 ^ p) * 2 ^ p / (y + 2 ^ p)
  let ln := 2 * atanhSum p (z * z / 2 ^ p) (p / 3 + 4) z 1
  (((l : Int) + q) * (2 ^ p : Nat) + ((ln * 2 ^ p / ln2Fix p : Nat) : Int), 0)

def Fmt.lg2 (f : Fmt) (x : Nat) : Nat :=
  match f.decode x with
  | .nan => f.nan
  | .inf neg => if neg then f.nan else f.inf false false
  | .fin neg m q =>
    if m = 0 then f.inf false true else if neg then f.nan
    else if m = 2 ^ Nat.log2 m then
      let n := (Nat.log2 m : Int) + q
      f.round 0 false (n < 0) n.natAbs 0
    else refine f (log2Val m q) precisions

/-- sin or cos of m x 2^q, m x 2^q not small: reduced by multiples of pi / 2. -/
def trigVal (cos : Bool) (m : Nat) (q : Int) (p : Nat) : Int × Int :=
  let w := p + 192
  let half := piFix w / 2
  let x := if 0 ≤ q + w then m <<< (q + w).toNat else m >>> (-(q + w)).toNat
  let k := (x + half / 2) / half
  let r0 : Int := (x : Int) - ((k * half : Nat) : Int)
  let r := r0.natAbs / 2 ^ 192
  let x2 := r * r / 2 ^ p
  let s := altSum p x2 (p / 2 + 8) r 2
  let c := altSum p x2 (p / 2 + 8) (2 ^ p) 1
  let s := if r0 < 0 then -s else s
  let j := (if cos then k + 1 else k) % 4
  (match j with | 0 => s | 1 => c | 2 => -s | _ => -c, 0)

def Fmt.sin (f : Fmt) (x : Nat) : Nat :=
  match f.decode x with
  | .nan => f.nan
  | .inf _ => f.nan
  | .fin neg m q =>
    if m = 0 then f.sign neg
    else if (Nat.log2 m : Int) + q < -40 then fldN x 0 f.bits
    else
      let r := refine f (trigVal false m q) precisions
      if neg then r ^^^ f.sign true else r

def Fmt.cos (f : Fmt) (x : Nat) : Nat :=
  match f.decode x with
  | .nan => f.nan
  | .inf _ => f.nan
  | .fin _ m q =>
    if m = 0 || (Nat.log2 m : Int) + q < -40 then f.round 0 false false 1 0
    else refine f (trigVal true m q) precisions

end Sys2Proof.Machine
end

