-- ==== Sys2Proof/Machine/FpOps.lean ====
section
/-! DEFINITION. Vector floating point, special functions and conversion (FP, SF and CVT; Tables 4.7 to 4.9, R122, R123,
R143 to R148). -/

namespace Sys2Proof.Machine

end Sys2Proof.Machine

namespace Sys2Proof

open Machine

/-- TYPE of FP and SF (R122). -/
def Fields.ftype (f : Fields) : Nat := f.m 0 4
def Fields.fmt (f : Fields) : Fmt := (fmtOf f.ftype).getD fp32
/-- RND and OVF (R122). -/
def Fields.rnd (f : Fields) : Nat := f.m 4 3
def Fields.ovf (f : Fields) : Bool := f.m 7 1 = 1

end Sys2Proof

namespace Sys2Proof.Machine

/-- Registers of an operand of a format. -/
def Fmt.regs (f : Fmt) : Nat := if f.bits = 64 then 2 else 1

/-- Source n (1 to 3) with its NEG and ABS (R122). -/
def Group.fpOp (g : Group) (l : Nat) (f : Fields) (n : Nat) : Nat :=
  let r := if n = 1 then f.src1 else if n = 2 then f.src2 else f.src3
  let abs := if n = 1 then f.m 11 1 = 1 else if n = 2 then f.m 12 1 = 1 else false
  f.fmt.modify abs (f.m (7 + n) 1 = 1) (g.regs' l r.toNat f.fmt.regs)

end Sys2Proof.Machine

namespace Sys2Proof

open Machine

/-- R122: MOD of an arithmetic instruction: TYPE within its class, a rounding mode of 0 to 4, and bits [63:61] zero;
modifiers of sources that the instruction does not use are zero. -/
def Fields.fpModOk (f : Fields) (rounds : Bool) (n : Nat) : Bool :=
  decide (f.ftype ≤ 3) && (if rounds then decide (f.rnd ≤ 4) else f.m 4 4 = 0) && f.m 13 3 = 0 &&
  (decide (2 ≤ n) || (f.m 9 1 = 0 && f.m 12 1 = 0)) && (decide (3 ≤ n) || f.m 10 1 = 0)

end Sys2Proof

namespace Sys2Proof.Machine

def fpLegal (f : Fields) (rounds : Bool) (n : Nat) (a : Nat) : Bool :=
  let w := f.fmt.regs
  f.fpModOk rounds n && regOk a f.dst w && regOk a f.src1 w && regOk a f.src2 (if 2 ≤ n then w else 0) &&
  regOk a f.src3 (if 3 ≤ n then w else 0)

def fpUses (f : Fields) (n : Nat) : List Nat :=
  let w := f.fmt.regs
  regList f.dst w ++ regList f.src1 w ++ (if 2 ≤ n then regList f.src2 w else []) ++ (if 3 ≤ n then regList f.src3 w else [])

/-- A two-source instruction. -/
def fp2 (op : Nat) (rounds : Bool) (fn : Fmt → Nat → Bool → Nat → Nat → Nat) (g : GroupAt) (f : Fields) (s : State) : Res :=
  s.vector (rd := f.fmt.regs) g 3 op f (fpLegal f rounds 2) (fpUses f 2) fun t l =>
    { regs := regWrites f.dst f.fmt.regs (fn f.fmt f.rnd f.ovf (t.fpOp l f 1) (t.fpOp l f 2)) }

/-- A special function: TYPE 1 to 3, RND and OVF zero (R122). -/
def sf1 (op : Nat) (fn : Fmt → Nat → Nat) (g : GroupAt) (f : Fields) (s : State) : Res :=
  s.vector (rd := f.fmt.regs) g 4 op f (fun a => decide (1 ≤ f.ftype) && fpLegal f false 1 a) (fpUses f 1) fun t l =>
    { regs := regWrites f.dst 1 (fn f.fmt (t.fpOp l f 1)) }

/-- FADD (R143). -/
def execFadd (g : GroupAt) (f : Fields) (s : State) : Res :=
  fp2 0x00 true (fun k r o x y => k.add r o x y) g f s

/-- FSUB. -/
def execFsub (g : GroupAt) (f : Fields) (s : State) : Res :=
  fp2 0x01 true (fun k r o x y => k.sub r o x y) g f s

/-- FMUL. -/
def execFmul (g : GroupAt) (f : Fields) (s : State) : Res :=
  fp2 0x02 true (fun k r o x y => k.mul r o x y) g f s

/-- FFMA: one rounding. -/
def execFfma (g : GroupAt) (f : Fields) (s : State) : Res :=
  s.vector (rd := f.fmt.regs) g 3 0x03 f (fpLegal f true 3) (fpUses f 3) fun t l =>
    { regs := regWrites f.dst f.fmt.regs (f.fmt.fma f.rnd f.ovf (t.fpOp l f 1) (t.fpOp l f 2) (t.fpOp l f 3)) }

/-- FMIN: IEEE 754-2019 minimum (R140). -/
def execFmin (g : GroupAt) (f : Fields) (s : State) : Res :=
  fp2 0x04 false (fun k _ _ x y => k.minimum x y) g f s

/-- FMAX. -/
def execFmax (g : GroupAt) (f : Fields) (s : State) : Res :=
  fp2 0x05 false (fun k _ _ x y => k.maximum x y) g f s

/-- FMINNUM. -/
def execFminnum (g : GroupAt) (f : Fields) (s : State) : Res :=
  fp2 0x06 false (fun k _ _ x y => k.minNum x y) g f s

/-- FMAXNUM. -/
def execFmaxnum (g : GroupAt) (f : Fields) (s : State) : Res :=
  fp2 0x07 false (fun k _ _ x y => k.maxNum x y) g f s

/-- FCMP: predicate DST := SRC1 COND SRC2; [55:52] is COND. -/
def execFcmp (g : GroupAt) (f : Fields) (s : State) : Res :=
  let w := f.fmt.regs
  s.vector g 3 0x08 f
    (fun a => decide (f.ftype ≤ 3) && decide (f.m 4 4 ≤ 7) && f.m 10 1 = 0 && f.m 13 3 = 0 && predOk f.dst && regOk a f.src1 w &&
      regOk a f.src2 w && regOk a f.src3 0)
    (regList f.src1 w ++ regList f.src2 w)
    fun t l => { preds := [(f.dst.toNat, f.fmt.cmp (f.m 4 4) (t.fpOp l f 1) (t.fpOp l f 2))] }

/-- FCLASS: a 32-bit class mask. -/
def execFclass (g : GroupAt) (f : Fields) (s : State) : Res :=
  s.vector (rd := 1) g 3 0x09 f
    (fun a => f.fpModOk false 1 && regOk a f.dst 1 && regOk a f.src1 f.fmt.regs && regOk a f.src2 0 && regOk a f.src3 0)
    (regList f.dst 1 ++ regList f.src1 f.fmt.regs)
    fun t l => { regs := regWrites f.dst 1 (f.fmt.classMask (t.fpOp l f 1)) }

/-- RCP (R144). -/
def execRcp (g : GroupAt) (f : Fields) (s : State) : Res :=
  sf1 0 (fun k x => k.rcp x) g f s

/-- SQRT (R144). -/
def execSqrt (g : GroupAt) (f : Fields) (s : State) : Res :=
  sf1 1 (fun k x => k.sqrt x) g f s

/-- RSQ (R144). -/
def execRsq (g : GroupAt) (f : Fields) (s : State) : Res :=
  sf1 2 (fun k x => k.rsq x) g f s

/-- EX2 (R144). -/
def execEx2 (g : GroupAt) (f : Fields) (s : State) : Res :=
  sf1 3 (fun k x => k.ex2 x) g f s

/-- LG2 (R144). -/
def execLg2 (g : GroupAt) (f : Fields) (s : State) : Res :=
  sf1 4 (fun k x => k.lg2 x) g f s

/-- SIN (R144). -/
def execSin (g : GroupAt) (f : Fields) (s : State) : Res :=
  sf1 5 (fun k x => k.sin x) g f s

/-- COS (R144). -/
def execCos (g : GroupAt) (f : Fields) (s : State) : Res :=
  sf1 6 (fun k x => k.cos x) g f s

/-- Table 4.2: whether a type code is marked in the vector convert column. -/
def cvtCode (c : Nat) : Bool := [0x0, 0x1, 0x2, 0x3, 0x4, 0x5, 0xB].contains c

def codeFmt (c : Nat) : Fmt := (fmtOf c).getD fp32

end Sys2Proof.Machine

namespace Sys2Proof

open Machine

/-- R123: RND in [58:56], OVF in [59], [63:60] zero. -/
def Fields.cvtModOk (f : Fields) : Bool := decide (f.m 8 3 ≤ 4) && f.m 12 4 = 0

end Sys2Proof

namespace Sys2Proof.Machine

def cvtLegal (f : Fields) (ok : Bool) (wd ws : Nat) (a : Nat) : Bool :=
  f.cvtModOk && ok && regOk a f.dst wd && regOk a f.src1 ws && regOk a f.src2 0 && regOk a f.src3 0

/-- CVT.FF (R146). -/
def execCvtFf (g : GroupAt) (f : Fields) (s : State) : Res :=
  let fd := codeFmt (f.m 0 4)
  let fs := codeFmt (f.m 4 4)
  s.vector (rd := fd.regs) g 5 0x00 f (cvtLegal f (cvtCode (f.m 0 4) && cvtCode (f.m 4 4)) fd.regs fs.regs)
    (regList f.dst fd.regs ++ regList f.src1 fs.regs)
    fun t l => { regs := regWrites f.dst fd.regs (convert fd fs (f.m 8 3) (f.m 11 1 = 1) (t.regs' l f.src1.toNat fs.regs)) }

/-- CVT.FI (R147): [50:48] is the integer code, [51] zero, OVF zero. -/
def execCvtFi (g : GroupAt) (f : Fields) (s : State) : Res :=
  let k := f.m 0 3
  let fs := codeFmt (f.m 4 4)
  s.vector (rd := (if intWidth k = 64 then 2 else 1)) g 5 0x01 f (cvtLegal f (f.m 3 1 = 0 && f.m 11 1 = 0 && cvtCode (f.m 4 4)) (if intWidth k = 64 then 2 else 1) fs.regs)
    (regList f.dst (if intWidth k = 64 then 2 else 1) ++ regList f.src1 fs.regs)
    fun t l =>
      let v := toInt fs k (f.m 8 3) (t.regs' l f.src1.toNat fs.regs)
      { regs := regWrites f.dst (if intWidth k = 64 then 2 else 1) (if intWidth k = 64 then v else wrap (intVal k v) 32) }

/-- CVT.IF (R148): [54:52] is the integer code, [55] zero. -/
def execCvtIf (g : GroupAt) (f : Fields) (s : State) : Res :=
  let k := f.m 4 3
  let fd := codeFmt (f.m 0 4)
  let w := if intWidth k = 64 then 2 else 1
  s.vector (rd := fd.regs) g 5 0x02 f (cvtLegal f (f.m 7 1 = 0 && cvtCode (f.m 0 4)) fd.regs w)
    (regList f.dst fd.regs ++ regList f.src1 w)
    fun t l => { regs := regWrites f.dst fd.regs (ofInt fd k (f.m 8 3) (f.m 11 1 = 1) (t.regs' l f.src1.toNat w)) }

end Sys2Proof.Machine
end

