-- ==== Sys2Proof/Machine/HostCore.lean ====
section
/-! DEFINITION. Memory accesses of the host cores (R35, R39, R41, R57 to R60, R65, R226, R252, R419), with their Sv57 translation.
An access is performed by the L2, by a non-allocating access at the home, or as a register access; its outcome and what it read
stand in hub.hostStatus and hub.lastRead. -/

namespace Sys2Proof.Machine

/-- The cache number of a host core's L2 (R237). -/
def hostCache (h : Nat) : Nat := 1536 + h

/-- The parts of an access of n bytes, one in each line: address, bytes and memory type. -/
def linePieces (pa n pbmt : Nat) : List (Nat × Nat × Nat) :=
  let m := Nat.min n (128 - pa % 128)
  if m = n then [(pa, n, pbmt)] else [(pa, m, pbmt), (pa + m, n - m, pbmt)]

/-- The outcome of an access: 0 ok, 1 access fault, 2 misaligned, 3 poison, 4 page fault. -/
def State.hostDone (s : State) (status : Nat) (v : Nat) : State :=
  s.modHub fun h => { h with hostStatus := status, lastRead := BitVec.ofNat 128 v }

/-- R226, R250: the requester of a non-allocating access: to the KSP, of class 4, where the page is a stream page and the access
lies in one sector. -/
def State.hostStreamReq (s : State) (h pbmt : Nat) (one : Bool) : Req :=
  let r := s.cacheReq (hostCache h) none
  if pbmt = 1 && one then { r with stream := true, ksp := true, cls := 4 } else { r with stream := true }

/-- One line's part of a load. -/
def State.hostReadPiece (s : State) (h pa n pbmt : Nat) : State × Except MemErr (Nat × Bool) :=
  let o := pa % 128
  let one := decide (o % 32 + n ≤ 32)
  let x := if pbmt = 0 then s.getShared (hostCache h) (pa / 128) none
    else
      let r := s.hostStreamReq h pbmt one
      s.ncRead r (pa / 128) (!r.ksp) (if r.ksp then BitVec.ofNat 4 (2 ^ (o / 32)) else 0xF)
  match x with
  | (s, .error e) => (s, .error e)
  | (s, .ok d) => (s, .ok (d.get o n, (d.poisonedAt o n).isSome))

/-- The parts of a load, low bytes first. -/
def State.hostRead (s : State) (h : Nat) : List (Nat × Nat × Nat) → State × Except MemErr (Nat × Bool)
  | [] => (s, .ok (0, false))
  | (pa, n, pbmt) :: l =>
    match s.hostReadPiece h pa n pbmt with
    | (s, .error e) => (s, .error e)
    | (s, .ok (v, p)) =>
      match s.hostRead h l with
      | (s, .error e) => (s, .error e)
      | (s, .ok (w, q)) => (s, .ok (v + w * 256 ^ n, p || q))

/-- One line's part of a store. -/
def State.hostWritePiece (s : State) (h pa n pbmt v : Nat) : State × Except MemErr Unit :=
  let d := lineOfBytes (pa % 128) n v
  let m := maskOfBytes (pa % 128) n
  if pbmt ≠ 0 then s.ncWrite (s.hostStreamReq h pbmt (n = 32)) (pa / 128) d m
  else match s.getOwned (hostCache h) (pa / 128) none with
    | (s, .error e) => (s, .error e)
    | (s, .ok _) => (s.putOwned (hostCache h) (pa / 128) d m, .ok ())

/-- The parts of a store. -/
def State.hostWrite (s : State) (h v : Nat) : List (Nat × Nat × Nat) → State × Except MemErr Unit
  | [] => (s, .ok ())
  | (pa, n, pbmt) :: l =>
    match s.hostWritePiece h pa n pbmt v with
    | (s, .error e) => (s, .error e)
    | (s, .ok ()) => s.hostWrite h (v / 256 ^ n) l

/-- The outcome of a load whose answer has come: a poisoned word's value is a free value (log 40). -/
def State.hostLoaded (s : State) (n : Nat) : State × Except MemErr (Nat × Bool) → State
  | (u, .error .busy) => s.woken u
  | (s, .error _) => s.hostDone 1 0
  | (s, .ok (v, false)) => s.hostDone 0 v
  | (s, .ok (_, true)) => let (v, s) := s.drawMany 2; s.hostDone 3 (v % 256 ^ n)

/-! ## Translation (R35, R37, R38, R41) -/

/-- Why a host core's address has no translation: it waits, or it takes a page fault, an access fault, or a poisoned entry. -/
inductive HostErr where
  | busy
  | fault (status : Nat)
deriving DecidableEq, Repr

/-- What an access needs of a leaf on a host core: R, W and X with MXR, and U against the core's mode and SUM. -/
def hostPermsOk (x : HostVirt) (pte : BitVec 64) (acc : Access) : Bool :=
  (if x.user then bit pte 4 else !bit pte 4 || x.sum) &&
  permsOk (BitVec.ofNat 3 (flag (bit pte 1 || (x.mxr && bit pte 3)) + 2 * flag (bit pte 2) + 4 * flag (bit pte 3))) acc

/-- A page-table entry read through the core's L2. -/
def State.hostPte (s : State) (h pa : Nat) : State × Except HostErr (BitVec 64) :=
  match s.getShared (hostCache h) (pa / 128) none with
  | (s, .error .busy) => (s, .error .busy)
  | (s, .error _) => (s, .error (.fault 1))
  | (s, .ok d) =>
    if (d.poisonedAt (pa % 128) 8).isSome then (s, .error (.fault 3)) else (s, .ok (BitVec.ofNat 64 (d.get (pa % 128) 8)))

/-- A leaf met by a host core's walk: its checks, and A and D, which the core sets in the line it holds in M or faults for. -/
def State.hostLeaf (s : State) (h level pa : Nat) (x : HostVirt) (va : Nat) (acc : Access) (pte : BitVec 64) :
    State × Except HostErr Phys :=
  let out := (leafEntry 0 0 level va pte).phys va
  if !leafOk level pte || !hostPermsOk x pte acc then (s, .error (.fault 4))
  else if bit pte 6 && (!accWrites acc || bit pte 7) then (s, .ok out)
  else if !x.adHw then (s, .error (.fault 4))
  else
    let pte' := setBit (if accWrites acc then setBit pte 7 true else pte) 6 true
    match s.getOwned (hostCache h) (pa / 128) none with
    | (s, .error .busy) => (s, .error .busy)
    | (s, .error _) => (s, .error (.fault 1))
    | (s, .ok _) => (s.putOwned (hostCache h) (pa / 128) (lineOfBytes (pa % 128) 8 pte'.toNat) (maskOfBytes (pa % 128) 8), .ok out)

/-- R35: a host core's Sv57 walk from a level down. -/
def State.hostWalk (s : State) (h : Nat) (x : HostVirt) (va : Nat) (acc : Access) : Nat → Nat → State × Except HostErr Phys
  | level, table =>
    let pa := table + fldN va (12 + 9 * level) 9 * 8
    match s.hostPte h pa with
    | (s, .error e) => (s, .error e)
    | (s, .ok pte) =>
      if !bit pte 0 then (s, .error (.fault 4))
      else if fld pte 1 3 ≠ 0 then s.hostLeaf h level pa x va acc pte
      else if fld pte 54 10 ≠ 0 || fld pte 4 1 ≠ 0 || fld pte 6 2 ≠ 0 then (s, .error (.fault 4))
      else match level with
        | 0 => (s, .error (.fault 4))
        | n + 1 => s.hostWalk h x va acc n (fld pte 10 44 * 4096)
termination_by structural level => level

/-- R35: a host core's translation of a virtual address: Sv57, or none where its satp selects no mode (log 84). -/
def State.hostXlat (s : State) (h : Nat) (x : HostVirt) (va : Nat) (acc : Access) : State × Except HostErr Phys :=
  if atpMode x.satp ≠ 10 then (s, .ok { pa := va % 2 ^ 52, pbmt := 0 })
  else if !canonical va then (s, .error (.fault 4))
  else s.hostWalk h x va acc 4 (atpRoot x.satp)

/-- The parts of a translated access. -/
def State.hostParts (s : State) (h : Nat) (x : HostVirt) (acc : Access) : List (Nat × Nat × Nat) → State × Except HostErr (List (Nat × Nat × Nat))
  | [] => (s, .ok [])
  | (va, n, _) :: l =>
    match s.hostXlat h x va acc with
    | (s, .error e) => (s, .error e)
    | (s, .ok p) =>
      match s.hostParts h x acc l with
      | (s, .error e) => (s, .error e)
      | (s, .ok ps) => (s, .ok ((p.pa, n, p.pbmt) :: ps))

/-- The RISC-V AMOs: swap, add, xor, and, or, min, max, minu, maxu, on n bytes. -/
def amoNew (op n x y : Nat) : Nat :=
  let sx := sgn x (8 * n)
  let sy := sgn y (8 * n)
  match op with
  | 0 => y
  | 1 => (x + y) % 256 ^ n
  | 2 => x ^^^ y
  | 3 => x &&& y
  | 4 => x ||| y
  | 5 => if sx < sy then x else y
  | 6 => if sx < sy then y else x
  | 7 => Nat.min x y
  | _ => Nat.max x y

/-- R60, R252: an AMO on the line held in M; on a stream page the line is then written back and released. -/
def State.hostAmo (s : State) (h : Nat) (stream : Bool) (op pa n v : Nat) : State :=
  let c := hostCache h
  match s.getOwned c (pa / 128) none with
  | (u, .error .busy) => s.woken u
  | (s, .error _) => s.hostDone 1 0
  | (s, .ok d) =>
    let old := d.get (pa % 128) n
    let bad := (d.poisonedAt (pa % 128) n).isSome
    let (u, s) := if bad then s.drawMany 1 else (old, s)
    let new := amoNew op n (u % 256 ^ n) v
    let s := s.putOwned c (pa / 128) (lineOfBytes (pa % 128) n new) (maskOfBytes (pa % 128) n)
    let s := if stream then s.dropStream c (pa / 128) else s
    s.hostDone (if bad then 3 else 0) (u % 256 ^ n)

/-- R252: LR: the word, and the reservation of its line. -/
def State.hostLr (s : State) (h pa n : Nat) : State :=
  match s.hostReadPiece h pa n 0 with
  | (u, .error .busy) => s.woken u
  | (s, x) => (s.hostLoaded n (s, x)).modCache (hostCache h) fun ca => { ca with
      reserved := match x with | .ok _ => some (pa / 128) | .error _ => ca.reserved }

/-- R252: SC: succeeds (0) only while the reservation of the line holds, else it fails (1); either way the reservation is gone. -/
def State.hostSc (s : State) (h pa n v : Nat) : State :=
  let c := hostCache h
  let clear := fun (s : State) => s.modCache c fun ca => { ca with reserved := none }
  if (s.cache c).reserved ≠ some (pa / 128) then (clear s).hostDone 0 1 else
  match s.hostWritePiece h pa n 0 v with
  | (u, .error .busy) => s.woken u
  | (s, .error _) => (clear s).hostDone 1 1
  | (s, .ok ()) => (clear s).hostDone 0 0

/-- R39, R65, R419, R421: a device access to register space: aligned and of 4 or 8 bytes, or an access fault; a doorbell takes any write
as R65 says. -/
def State.hostDevice (s : State) (h : Fin 96) (write : Bool) (off n v : Nat) : State :=
  let a : Agent := .hostCore h
  let bell : Bool := match regionOf off with
    | .doorbell _ => true
    | _ => false
  if write && bell then let s := s.performWrite off n (v % 256 ^ n); s.hostDone 0 s.hub.lastRead.toNat
  else if (n ≠ 4 && n ≠ 8) || off % n ≠ 0 || !s.mayReach a off write then s.hostDone 1 0
  else if write then let s := s.regWrite a off (n = 8) v; s.hostDone 0 s.hub.lastRead.toNat
  else (s.noteRead off n).hostDone 0 (s.regRead off n)

/-- Whether host core h runs: its die is up, its clock is not stopped (R360, R384), and debug has not halted it (Table 13.12). -/
def State.hostRuns (s : State) (h : Nat) : Bool :=
  let d := h / 8
  (s.tile d).up && !(s.tile d).fenced && (s.die d).pll && !(s.die d).pllFailed && decide (0 < (s.pwr d).m) &&
  !s.boot.haltedHosts.contains h

/-- What an operation asks of the page it touches. -/
def hostOpAccess : HostOp → Access
  | .load => .load
  | .lr => .load
  | .store => .store
  | .sc => .store
  | .amo _ => .atomic
  | .fence => .load
  | .wrsNto => .load

/-- An operation on the physical parts of its access: the first is where it begins. -/
def State.hostPerform (s : State) (h : Fin 96) (op : HostOp) (n x : Nat) (ps : List (Nat × Nat × Nat)) : State :=
  let (a, _, pbmt) := ps.headD (0, 0, 0)
  let device : Bool := regBase ≤ a && a < regBase + 0x4000000
  match op with
  | .fence => s
  | .wrsNto => s
  | .load => if device then s.hostDevice h false (a - regBase) n 0 else s.hostLoaded n (s.hostRead h ps)
  | .store =>
    if device then s.hostDevice h true (a - regBase) n x else
    (match s.hostWrite h x ps with
    | (u, .error .busy) => s.woken u
    | (s, .error _) => s.hostDone 1 0
    | (s, .ok ()) => s.hostDone 0 s.hub.lastRead.toNat)
  | .amo k => if device then s.hostDone 1 0 else s.hostAmo h (pbmt ≠ 0) k a n x
  | .lr => if device then s.hostDone 1 0 else s.hostLr h a n
  | .sc => if device then s.hostDone 1 0 else s.hostSc h a n x

/-- Whether an operation must be aligned, on 4 or 8 bytes. -/
def hostOpAtomic : HostOp → Bool
  | .amo _ => true
  | .lr => true
  | .sc => true
  | .load => false
  | .store => false
  | .fence => false
  | .wrsNto => false

/-- HOST_CORE_MEMORY_ACCESS (R35, R41, R57, R60, R252): at a physical address, or at a virtual one that the core translates. An access
that meets a line in a transaction waits. A FENCE has nothing to wait for, as every access here is complete; WRS.NTO goes on once
the reservation is lost. -/
def execHostCoreMemoryAccess (h : Fin 96) (op : HostOp) (stream : Bool) (pa : HostAddr) (size : Fin 5) (v : BitVec 128) (s : State) : Res :=
  let n := 2 ^ size.val
  let x := v.toNat % 256 ^ n
  let at_ := match pa.virt with
    | none => pa.pa.toNat
    | some w => w.va.toNat
  if !s.hostRuns h then .next s
  else if op = .fence then .next (s.hostDone 0 s.hub.lastRead.toNat)
  else if op = .wrsNto then .next (if (s.cache (hostCache h)).reserved.isSome then s else s.hostDone 0 s.hub.lastRead.toNat)
  else if hostOpAtomic op && !((n = 4 || n = 8) && at_ % n = 0) then .next (s.hostDone (if pa.virt.isNone && regBase ≤ at_ && at_ < regBase + 0x4000000 then 1 else 2) 0)
  else match pa.virt with
    | none => .next (s.hostPerform h op n x (linePieces at_ n (flag stream)))
    | some w =>
      match s.hostParts h w (hostOpAccess op) (linePieces at_ n 0) with
      | (u, .error .busy) => .next (s.woken u)
      | (s, .error (.fault c)) => .next (s.hostDone c 0)
      | (s, .ok ps) => .next (s.hostPerform h op n x ps)

end Sys2Proof.Machine
end

