-- ==== Sys2Proof/Machine/IntOps.lean ====
section
/-! DEFINITION. Integer, logic and predicate instructions (INT, INTI and MOVW; Tables 4.6, 4.15, R120, R121, R145). -/

namespace Sys2Proof.Machine

end Sys2Proof.Machine

namespace Sys2Proof

open Machine

/-- ITYPE (R120). -/
def Fields.itype (f : Fields) : Nat := f.m 0 3
/-- SAT (R120). -/
def Fields.sat (f : Fields) : Bool := f.m 3 1 = 1

end Sys2Proof

namespace Sys2Proof.Machine

/-- Registers of an operand of an integer code: a pair for 64 bits. -/
def intRegs (code : Nat) : Nat := if intWidth code = 64 then 2 else 1

/-- An operand of an integer code, at the code's width (R116). -/
def Group.intOp (g : Group) (l : Nat) (r : BitVec 8) (code : Nat) : Nat :=
  g.regs' l r.toNat (intRegs code) % 2 ^ intWidth code

/-- An integer result: narrow results fill the register by the code's sign (Table 4.3). -/
def intResult (r : BitVec 8) (code v : Nat) : Writes :=
  { regs := regWrites r (intRegs code) (if intWidth code = 64 then v else wrap (intVal code v) 32) }

/-- How an instruction of INT uses MOD (R120). -/
inductive IntMod where
  | plain
  | sat
  | cond
  | none
deriving DecidableEq, Repr

end Sys2Proof.Machine

namespace Sys2Proof

open Machine

/-- R120: MOD is valid for the instruction. -/
def Fields.intModOk (f : Fields) : IntMod → Bool
  | .plain => f.m 3 13 = 0
  | .sat => f.m 4 12 = 0
  | .cond => f.m 3 1 = 0 && decide (f.m 4 4 ≤ 5) && f.m 8 8 = 0
  | .none => f.m 0 16 = 0

end Sys2Proof

namespace Sys2Proof.Machine

/-- The checks of an instruction with up to three sources of ITYPE; unused sources are zero. -/
def intLegal (f : Fields) (md : IntMod) (n : Nat) (a : Nat) : Bool :=
  let w := intRegs f.itype
  f.intModOk md && regOk a f.dst w && regOk a f.src1 (if 1 ≤ n then w else 0) && regOk a f.src2 (if 2 ≤ n then w else 0) &&
  regOk a f.src3 (if 3 ≤ n then w else 0)

/-- The registers it names. -/
def intUses (f : Fields) (n : Nat) : List Nat :=
  let w := intRegs f.itype
  regList f.dst w ++ regList f.src1 w ++ (if 2 ≤ n then regList f.src2 w else []) ++ (if 3 ≤ n then regList f.src3 w else [])

/-- An instruction DST := op SRC1. -/
def int1 (op : Nat) (fn : Nat → Nat → Nat) (g : GroupAt) (f : Fields) (s : State) : Res :=
  let k := f.itype
  s.vector (rd := intRegs f.itype) g 1 op f (intLegal f .plain 1) (intUses f 1) fun t l => intResult f.dst k (fn k (t.intOp l f.src1 k))

/-- An instruction DST := op SRC1 SRC2, on exact values, narrowed once. -/
def int2 (op : Nat) (md : IntMod) (fn : Nat → Int → Int → Int) (g : GroupAt) (f : Fields) (s : State) : Res :=
  let k := f.itype
  s.vector (rd := intRegs f.itype) g 1 op f (intLegal f md 2) (intUses f 2) fun t l =>
    intResult f.dst k (narrow k (decide (md = .sat) && f.sat) (fn k (intVal k (t.intOp l f.src1 k)) (intVal k (t.intOp l f.src2 k))))

/-- A 32-bit logic instruction (R120: ITYPE is zero). -/
def logic2 (op : Nat) (fn : BitVec 32 → BitVec 32 → BitVec 32) (g : GroupAt) (f : Fields) (s : State) : Res :=
  s.vector (rd := intRegs f.itype) g 1 op f (fun a => f.intModOk .none && regOk a f.dst 1 && regOk a f.src1 1 && regOk a f.src2 1 && regOk a f.src3 0)
    (intUses f 2) fun t l => { regs := [(f.dst.toNat, fn (t.reg l f.src1.toNat) (t.reg l f.src2.toNat))] }

/-- A shift: the amount is one register (R120). -/
def shiftInt (op : Nat) (fn : Nat → Nat → Nat → Nat) (g : GroupAt) (f : Fields) (s : State) : Res :=
  let k := f.itype
  s.vector (rd := intRegs f.itype) g 1 op f
    (fun a => f.intModOk .plain && regOk a f.dst (intRegs k) && regOk a f.src1 (intRegs k) && regOk a f.src2 1 && regOk a f.src3 0)
    (intUses f 1 ++ [f.src2.toNat])
    fun t l => intResult f.dst k (fn k (t.intOp l f.src1 k) ((t.reg l f.src2.toNat).toNat % intWidth k))

/-- The high half of the exact double-width product (R145). -/
def mulHigh (k : Nat) (a b : Int) : Int := a * b / (2 ^ intWidth k : Nat)

/-- R145: IMAD: the low half of the product, read with the code's sign, plus SRC3. -/
def mulAdd (k : Nat) (a b c : Int) : Int := intVal k (wrap (a * b) (intWidth k)) + c

/-- Table 4.6: shifts. -/
def shiftLeft (k a n : Nat) : Nat := (a <<< n) % 2 ^ intWidth k
def shiftRight (k a n : Nat) : Nat := wrap (intVal k a / (2 ^ n : Nat)) (intWidth k)

/-- Leading zeros of a w-bit value. -/
def leadingZeros (w x : Nat) : Nat := if x = 0 then w else w - 1 - Nat.log2 x

/-- The bits of a w-bit value reversed. -/
def bitReverse (w x : Nat) : Nat := (List.range w).foldl (fun r i => if fldN x i 1 = 1 then r + 2 ^ (w - 1 - i) else r) 0

/-- The set bits of a w-bit value. -/
def countOnes (w x : Nat) : Nat := (List.range w).foldl (fun r i => r + fldN x i 1) 0

/-- R120: BFE: only the bits that exist; length 0 gives zero. -/
def bitExtract (k x pos len : Nat) : Nat :=
  let w := intWidth k
  let n := if w ≤ pos then 0 else if w - pos < len then w - pos else len
  if n = 0 then 0
  else if intSigned k then wrap (sgn (fldN x pos n) n) w else fldN x pos n

/-- R120: BFI. -/
def bitInsert (k x y pos len : Nat) : Nat :=
  let w := intWidth k
  let n := if w ≤ pos then 0 else if w - pos < len then w - pos else len
  x - fldN x pos n * 2 ^ pos + (y % 2 ^ n) * 2 ^ pos

/-- IADD (Table 4.6, R145). -/
def execIadd (g : GroupAt) (f : Fields) (s : State) : Res :=
  int2 0x00 .sat (fun _ a b => a + b) g f s

/-- ISUB. -/
def execIsub (g : GroupAt) (f : Fields) (s : State) : Res :=
  int2 0x01 .sat (fun _ a b => a - b) g f s

/-- IMUL: the low half. -/
def execImul (g : GroupAt) (f : Fields) (s : State) : Res :=
  int2 0x02 .plain (fun _ a b => a * b) g f s

/-- IMULHI: the high half. -/
def execImulhi (g : GroupAt) (f : Fields) (s : State) : Res :=
  int2 0x03 .plain mulHigh g f s

/-- IMAD (R145). -/
def execImad (g : GroupAt) (f : Fields) (s : State) : Res :=
  let k := f.itype
  s.vector (rd := intRegs f.itype) g 1 0x04 f (intLegal f .sat 3) (intUses f 3) fun t l =>
    intResult f.dst k (narrow k f.sat
      (mulAdd k (intVal k (t.intOp l f.src1 k)) (intVal k (t.intOp l f.src2 k)) (intVal k (t.intOp l f.src3 k))))

/-- IMIN. -/
def execImin (g : GroupAt) (f : Fields) (s : State) : Res :=
  int2 0x05 .plain (fun _ a b => if b < a then b else a) g f s

/-- IMAX. -/
def execImax (g : GroupAt) (f : Fields) (s : State) : Res :=
  int2 0x06 .plain (fun _ a b => if a < b then b else a) g f s

/-- IABS: the most negative value wraps (R145). -/
def execIabs (g : GroupAt) (f : Fields) (s : State) : Res :=
  int1 0x07 (fun k x => wrap (intVal k x).natAbs (intWidth k)) g f s

/-- AND. -/
def execAnd (g : GroupAt) (f : Fields) (s : State) : Res :=
  logic2 0x08 (· &&& ·) g f s

/-- OR. -/
def execOr (g : GroupAt) (f : Fields) (s : State) : Res :=
  logic2 0x09 (· ||| ·) g f s

/-- XOR. -/
def execXor (g : GroupAt) (f : Fields) (s : State) : Res :=
  logic2 0x0A (· ^^^ ·) g f s

/-- NOT. -/
def execNot (g : GroupAt) (f : Fields) (s : State) : Res :=
  s.vector (rd := intRegs f.itype) g 1 0x0B f (fun a => f.intModOk .none && regOk a f.dst 1 && regOk a f.src1 1 && regOk a f.src2 0 && regOk a f.src3 0)
    (intUses f 1) fun t l => { regs := [(f.dst.toNat, ~~~ t.reg l f.src1.toNat)] }

/-- SHL: the amount is taken modulo the width. -/
def execShl (g : GroupAt) (f : Fields) (s : State) : Res :=
  shiftInt 0x0C shiftLeft g f s

/-- SHR: arithmetic for signed codes. -/
def execShr (g : GroupAt) (f : Fields) (s : State) : Res :=
  shiftInt 0x0D shiftRight g f s

/-- POPC. -/
def execPopc (g : GroupAt) (f : Fields) (s : State) : Res :=
  int1 0x0E (fun k x => countOnes (intWidth k) x) g f s

/-- CLZ. -/
def execClz (g : GroupAt) (f : Fields) (s : State) : Res :=
  int1 0x0F (fun k x => leadingZeros (intWidth k) x) g f s

/-- BREV. -/
def execBrev (g : GroupAt) (f : Fields) (s : State) : Res :=
  int1 0x10 (fun k x => bitReverse (intWidth k) x) g f s

/-- BFE (R120). -/
def execBfe (g : GroupAt) (f : Fields) (s : State) : Res :=
  let k := f.itype
  s.vector (rd := intRegs f.itype) g 1 0x11 f
    (fun a => f.intModOk .plain && regOk a f.dst (intRegs k) && regOk a f.src1 (intRegs k) && regOk a f.src2 1 && regOk a f.src3 0)
    (intUses f 1 ++ [f.src2.toNat])
    fun t l => let c := t.reg l f.src2.toNat
      intResult f.dst k (bitExtract k (t.intOp l f.src1 k) (fld c 0 8) (fld c 8 8))

/-- BFI (R120). -/
def execBfi (g : GroupAt) (f : Fields) (s : State) : Res :=
  let k := f.itype
  s.vector (rd := intRegs f.itype) g 1 0x12 f
    (fun a => f.intModOk .plain && regOk a f.dst (intRegs k) && regOk a f.src1 (intRegs k) && regOk a f.src2 (intRegs k) &&
      regOk a f.src3 1)
    (intUses f 2 ++ [f.src3.toNat])
    fun t l => let c := t.reg l f.src3.toNat
      intResult f.dst k (bitInsert k (t.intOp l f.src1 k) (t.intOp l f.src2 k) (fld c 0 8) (fld c 8 8))

/-- ICMP: predicate DST := SRC1 COND SRC2. -/
def execIcmp (g : GroupAt) (f : Fields) (s : State) : Res :=
  let k := f.itype
  s.vector g 1 0x13 f
    (fun a => f.intModOk .cond && predOk f.dst && regOk a f.src1 (intRegs k) && regOk a f.src2 (intRegs k) && regOk a f.src3 0)
    (regList f.src1 (intRegs k) ++ regList f.src2 (intRegs k))
    fun t l => { preds := [(f.dst.toNat, icmpHolds (f.m 4 4) (intVal k (t.intOp l f.src1 k)) (intVal k (t.intOp l f.src2 k)))] }

/-- SEL: predicate SRC3 chooses. -/
def execSel (g : GroupAt) (f : Fields) (s : State) : Res :=
  let k := f.itype
  s.vector (rd := intRegs f.itype) g 1 0x14 f
    (fun a => f.intModOk .plain && regOk a f.dst (intRegs k) && regOk a f.src1 (intRegs k) && regOk a f.src2 (intRegs k) &&
      predOk f.src3)
    (intUses f 2)
    fun t l => intResult f.dst k (if t.pred l f.src3.toNat then t.intOp l f.src1 k else t.intOp l f.src2 k)

/-- MOV. -/
def execMov (g : GroupAt) (f : Fields) (s : State) : Res :=
  int1 0x15 (fun _ x => x) g f s

/-- PLOP (R120). -/
def execPlop (g : GroupAt) (f : Fields) (s : State) : Res :=
  s.vector g 1 0x16 f (fun _ => f.m 8 8 = 0 && predOk f.dst && predOk f.src1 && predOk f.src2 && predOk f.src3) []
    fun t l => { preds := [(f.dst.toNat, plopBit (f.m 0 8) (t.pred l f.src1.toNat) (t.pred l f.src2.toNat) (t.pred l f.src3.toNat))] }

/-- PSAVE: p0 to p6 in bits [6:0]. -/
def execPsave (g : GroupAt) (f : Fields) (s : State) : Res :=
  s.vector (rd := 1) g 1 0x17 f (fun a => f.intModOk .none && regOk a f.dst 1 && regOk a f.src1 0 && regOk a f.src2 0 && regOk a f.src3 0)
    (regList f.dst 1) fun t l => { regs := [(f.dst.toNat, (t.thread l).preds.setWidth 32)] }

/-- PLOAD: p0 to p6 := SRC1[6:0]. -/
def execPload (g : GroupAt) (f : Fields) (s : State) : Res :=
  s.vector g 1 0x18 f (fun a => f.intModOk .none && regOk a f.dst 0 && regOk a f.src1 1 && regOk a f.src2 0 && regOk a f.src3 0)
    (regList f.src1 1) fun t l =>
    { preds := (List.range 7).map fun p => (p, (t.reg l f.src1.toNat).getLsbD p) }

/-- R121: whether an opcode is assigned in INTI. -/
def intiAssigned (op : Nat) : Bool :=
  [0x00, 0x01, 0x02, 0x03, 0x05, 0x06, 0x08, 0x09, 0x0A, 0x0C, 0x0D, 0x13].contains op

/-- R121: the second source: zero-extended to 32 bits for AND, OR and XOR, otherwise sign-extended to the width. -/
def intiSource (op : Nat) (f : Fields) : Nat :=
  if op = 0x08 || op = 0x09 || op = 0x0A then f.imm16 else wrap (sgn f.imm16 16) (intWidth f.itype)

/-- R121: the checks of INTI. -/
def intiLegal (op : Nat) (f : Fields) (a : Nat) : Bool :=
  let w := intRegs f.itype
  let md : IntMod := if op = 0 || op = 1 then .sat else if op = 0x13 then .cond
    else if op = 0x08 || op = 0x09 || op = 0x0A then .none else .plain
  intiAssigned op && f.intModOk md && (if op = 0x13 then predOk f.dst else regOk a f.dst w) && regOk a f.src1 w

/-- R121: the result of INTI on the exact values of its sources; x is SRC1 and y the immediate, at the code's width. -/
def intiValue (op : Nat) (f : Fields) (x y : Nat) : Nat :=
  let k := f.itype
  let a := intVal k x
  let b := intVal k y
  match op with
  | 0x00 => narrow k f.sat (a + b)
  | 0x01 => narrow k f.sat (a - b)
  | 0x02 => narrow k false (a * b)
  | 0x03 => narrow k false (mulHigh k a b)
  | 0x05 => narrow k false (if b < a then b else a)
  | 0x06 => narrow k false (if a < b then b else a)
  | 0x08 => x &&& y
  | 0x09 => x ||| y
  | 0x0A => x ^^^ y
  | 0x0C => shiftLeft k x (y % intWidth k)
  | _ => shiftRight k x (y % intWidth k)

/-- INTI: an integer instruction with an immediate second source (R121). -/
def execInti (g : GroupAt) (op : BitVec 6) (f : Fields) (s : State) : Res :=
  let o := op.toNat
  let k := f.itype
  s.vector (rd := if o = 0x13 then 0 else intRegs k) g 2 o f (intiLegal o f)
    ((if o = 0x13 then [] else regList f.dst (intRegs k)) ++ regList f.src1 (intRegs k))
    fun t l =>
      let x := t.intOp l f.src1 k
      let y := intiSource o f
      if o = 0x13 then { preds := [(f.dst.toNat, icmpHolds (f.m 4 4) (intVal k x) (intVal k y))] }
      else intResult f.dst k (intiValue o f x y)

/-- MOVI: DST := IMM32. -/
def execMovi (g : GroupAt) (f : Fields) (s : State) : Res :=
  s.vector (rd := 1) g 0xE 0x00 f (fun a => regOk a f.dst 1 && regOk a f.src1 0) (regList f.dst 1)
    fun _ _ => { regs := [(f.dst.toNat, BitVec.ofNat 32 f.imm32)] }

/-- IADDW: DST := SRC1 + IMM32 modulo 2^32. -/
def execIaddw (g : GroupAt) (f : Fields) (s : State) : Res :=
  s.vector (rd := 1) g 0xE 0x01 f (fun a => regOk a f.dst 1 && regOk a f.src1 1) (regList f.dst 1 ++ regList f.src1 1)
    fun t l => { regs := [(f.dst.toNat, t.reg l f.src1.toNat + BitVec.ofNat 32 f.imm32)] }

/-- ADRPC: DST pair := PC + IMM32 sign-extended. -/
def execAdrpc (g : GroupAt) (f : Fields) (s : State) : Res :=
  s.vector (rd := 2) g 0xE 0x02 f (fun a => regOk a f.dst 2 && regOk a f.src1 0) (regList f.dst 2)
    fun t l => { regs := regWrites f.dst 2 ((t.thread l).pc + BitVec.ofInt 64 (sgn f.imm32 32)).toNat }

end Sys2Proof.Machine
end

