-- ==== Sys2Proof/Machine/Matrix.lean ====
section
/-! DEFINITION. The matrix engine (R162 to R178, R182): descriptor reads, starts, results and completion. Operands are read,
and results written, when the instruction completes; an operand that a thread wrote meanwhile makes the results free values
(R61). -/

namespace Sys2Proof.Machine

/-! ## Engine queues -/

/-- The instruction's token slot becomes free, and waits on it complete (R108, R109). -/
def State.completeToken (s : State) (c b : Nat) (tok : BitVec 32) : State :=
  let free := fun (t : TokenSlot) => if t.gen.toNat = fld tok 6 26 then { t with busy := false } else t
  let s := s.modCore c fun k => { k with tokens := kmod {} k.tokens (fld tok 0 6) free }
  s.wakeTokens c b

/-- Where an engine instruction stands, for an error record (R96). -/
def EngineOp.place (o : EngineOp) (c : Nat) : Where := { core := c, block := o.block, group := o.group, lanes := o.lanes, pc := o.pc }

/-- R168: a descriptor that fails its checks: the token completes, and the block faults. -/
def State.descriptorFault (s : State) (c : Nat) (o : EngineOp) (off reason : Nat) : State :=
  let s := s.completeToken c o.block o.token
  s.blockFault (o.place c) 0x09 (o.token.toNat + off % 2 ^ 20 * 2 ^ 32 + reason * 2 ^ 52)

/-- The bytes of a descriptor. -/
def Core.readDesc (k : Core) (b : Block) (off : Nat) : BitVec 512 := BitVec.ofNat 512 (k.localRead b off 64)

/-- Every op of a queue with the token changed. -/
def mapOp (tok : BitVec 32) (f : EngineOp → EngineOp) (l : List EngineOp) : List EngineOp :=
  l.map fun o => if o.token = tok then f o else o

/-- MATRIX_DESCRIPTOR_READ (R163, R168): the cycle after an instruction entered its queue its descriptors are copied and
checked. -/
def execMatrixDescriptorRead (core : Fin 1536) (token : BitVec 32) (s : State) : Res :=
  let k := s.core core
  let now := s.coreCycles core
  let ready := fun (o : EngineOp) => o.token = token && decide (o.stage = .queued) && decide (o.accepted + 1 ≤ now)
  match k.matrixQ.find? ready with
  | some o =>
    match kfind k.blocks o.block with
    | none => .next s
    | some b =>
      let s := s.settleLocal core b ((o.desc.toNat, 64) :: (o.side.map fun (x : BitVec 32) => (x.toNat, 64)).toList)
      let copy := k.readDesc b o.desc.toNat
      let side : Option (Nat × BitVec 512) := o.side.map fun (x : BitVec 32) => (x.toNat, k.readDesc b x.toNat)
      (match matCheck (matDesc copy) o.desc.toNat b.localBytes (side.map fun (x : Nat × BitVec 512) => (x.1, sideDesc x.2)) with
      | some (off, reason) =>
        .next ((s.modCore core fun k => { k with matrixQ := k.matrixQ.filter fun x => x.token ≠ token }).descriptorFault core o off reason)
      | none =>
        let o' := { o with copy := copy, sideCopy := (side.map fun (x : Nat × BitVec 512) => x.2).getD 0, stage := .checked }
        let o' := { o' with tainted := o.early.any fun r => EngineOp.readsAt o' r.1 r.2 }
        .next (s.modCore core fun k => { k with matrixQ := mapOp token (fun _ => o') k.matrixQ }))
  | none =>
    match k.tileQ.findSome? fun q => (q.2.find? ready).map fun o => (q.1, o) with
    | none => .next s
    | some (q, o) =>
      match kfind k.blocks o.block with
      | none => .next s
      | some b =>
        let s := s.settleLocal core b [(o.desc.toNat, 64)]
        let copy := k.readDesc b o.desc.toNat
        (match (tileDesc copy).reason o.desc.toNat b.localBytes with
        | some reason =>
          .next ((s.modCore core fun k => { k with tileQ := kset k.tileQ q ((kget [] k.tileQ q).filter fun x => x.token ≠ token) }).descriptorFault
            core o o.desc.toNat reason)
        | none =>
          .next (s.modCore core fun k => { k with
            tileQ := kset k.tileQ q (mapOp token (fun o => { o with copy := copy, stage := .checked }) (kget [] k.tileQ q)) }))

/-! ## Starting (R173) -/

def EngineOp.mat (o : EngineOp) : MatDesc := matDesc o.copy
def EngineOp.sideD (o : EngineOp) : Option SideDesc := o.side.map fun _ => sideDesc o.sideCopy

def EngineOp.started (o : EngineOp) : Bool := match o.stage with
  | .started _ _ => true | .queued => false | .checked => false | .written _ => false

/-- The interlocks with one earlier instruction that has not completed; last: it is the one just before. -/
def interlockOk (now localBase : Nat) (prev o : EngineOp) (last : Bool) : Bool :=
  if prev.block ≠ o.block || !dependsOn prev.mat prev.sideD o.mat o.sideD then true
  else if last && chained prev.mat prev.sideD o.mat o.sideD then
    match prev.stage with
    | .started _ done => decide (done ≤ now + (matTiming prev.mat prev.sideD localBase).2.2)
    | .queued => false
    | .checked => false
    | .written _ => true
  else false

/-- The earlier instructions' interlocks; all of them have started. -/
def interlocksOk (now localBase : Nat) (o : EngineOp) : List EngineOp → Bool
  | [] => true
  | [p] => p.started && interlockOk now localBase p o true
  | p :: ps => p.started && interlockOk now localBase p o false && interlocksOk now localBase o ps

/-- The instructions before the first that has not started. -/
def beforeStart : List EngineOp → List EngineOp
  | [] => []
  | o :: l => if o.started then o :: beforeStart l else []

/-- MATRIX_START: the oldest instruction not yet started starts, once two cycles have passed since it was accepted, the engine
is free, and the interlocks allow. -/
def execMatrixStart (core : Fin 1536) (s : State) : Res :=
  let k := s.core core
  let now := s.coreCycles core
  match k.matrixQ.find? fun o => !o.started with
  | none => .next s
  | some o =>
    let base := (kget {} k.blocks o.block).localBase
    if decide (o.stage ≠ .checked) || !s.coreRuns core || now < o.accepted + 2 || now < k.engineFree ||
      !interlocksOk now base o (beforeStart k.matrixQ) then .next s
    else
      let (occ, done, _) := matTiming o.mat o.sideD base
      .next (s.modCore core fun k => { k with
        engineFree := now + occ
        matrixQ := mapOp o.token (fun o => { o with stage := .started now (now + done) }) k.matrixQ })

/-! ## Results (R169, R177) -/

/-- Element i of a line at a block offset (R165). -/
def Core.elem (k : Core) (b : Block) (code line i : Nat) : Nat :=
  match codeBits code with
  | 4 => fldN (k.localRead b (line + i / 2) 1) (i % 2 * 4) 4
  | w =>
    let v := k.localRead b (line + i * (w / 8)) (w / 8)
    if code = 0x8 || code = 0x9 then v % 64 else v

/-- Element (outer, inner) of an operand, with the reduction index inner. -/
def Core.operand (k : Core) (b : Block) (t : Span) (code : Nat) (trans : Bool) (outer inner : Nat) : Nat :=
  if trans then k.elem b code (t.base + inner * t.stride) outer else k.elem b code (t.base + outer * t.stride) inner

/-- A row of decoded elements, with block scales where the code has them. -/
def Core.vec (k : Core) (b : Block) (t sc : Span) (code : Nat) (trans : Bool) (outer n : Nat) : List FVal :=
  (List.range n).map fun i => scaledValue code (k.operand b t code trans outer i)
    (if codeScaled code then some (k.localRead b (sc.base + outer * sc.stride + i / 32) 1) else none)

/-- A row of integer elements. -/
def Core.ivec (k : Core) (b : Block) (t : Span) (code : Nat) (trans : Bool) (outer n : Nat) : List Int :=
  (List.range n).map fun i => sgn (k.operand b t code trans outer i) (codeBits code)

/-- The accumulator's start (R169). -/
def Core.accStart (k : Core) (b : Block) (d : MatDesc) (m n : Nat) : Nat × Nat :=
  if d.cZero then (0, 0) else
  (k.localRead b (d.cBase + m * d.cStride + n * d.ab) d.ab,
    if d.pair && d.cHasLo then k.localRead b (d.cLo + m * d.cStride + n * d.ab) d.ab else 0)

/-- R169: the main result as rows of (high, low). -/
def Core.mainResult (k : Core) (b : Block) (d : MatDesc) : List (List (Nat × Nat)) :=
  let row := (dotRow d.at_ d.bt).getD .half
  if row.isInt then
    let bs := (List.range d.n).map fun n => k.ivec b d.spanB d.bt d.bTrans n d.k
    (List.range d.m).map fun m =>
      let a := k.ivec b d.spanA d.at_ d.aTrans m d.k
      bs.mapIdx fun n v => (intDot d.ovf (k.accStart b d m n).1 (a.zip v), 0)
  else
    let bs := (List.range d.n).map fun n => k.vec b d.spanB d.spanSB d.bt d.bTrans n d.k
    (List.range d.m).map fun m =>
      let a := k.vec b d.spanA d.spanSA d.at_ d.aTrans m d.k
      bs.mapIdx fun n v => definedDot row (codeSig d.at_ + codeSig d.bt) d.ovf d.pair (k.accStart b d m n) (a.zip v)

/-- R177 steps 1 and 2: T', row by row. -/
def Core.sideT (k : Core) (b : Block) (d : MatDesc) (x : SideDesc) : List (List Nat) :=
  let row := (dotRow d.at_ x.ut).getD .half
  let us := (List.range x.r).map fun r => k.vec b (x.spanU d.k) (x.spanU d.k) x.ut x.uTrans r d.k
  (List.range d.m).map fun m =>
    let a := k.vec b d.spanA d.spanSA d.at_ d.aTrans m d.k
    us.map fun u =>
      let t := (definedDot row (codeSig d.at_ + codeSig x.ut) false false (0, 0) (a.zip u)).1
      ((codeFloat x.vt).getD fp16).encode 0 d.ovf (FVal.mul (fp32.decode x.scale) (fp32.decode t))

/-- R177 step 4: D. -/
def Core.sideD (k : Core) (b : Block) (d : MatDesc) (x : SideDesc) (t : List (List Nat)) (d0 : List (List (Nat × Nat))) :
    List (List (Nat × Nat)) :=
  let row := (dotRow x.vt x.vt).getD .half
  let vs := (List.range d.n).map fun n => k.vec b (x.spanV d.n) (x.spanV d.n) x.vt x.vTrans n x.r
  (d0.zip t).map fun (r, t) =>
    let tv := t.map fun e => scaledValue x.vt e none
    (r.zip vs).map fun (acc, v) => definedDot row (2 * codeSig x.vt) d.ovf d.pair acc (tv.zip v)

/-- The bytes of a row of elements of w bytes. -/
def rowBytes (w : Nat) (l : List Nat) : List Byte := l.flatMap (leBytes w)

/-! ## Poison (R175) -/

/-- Whether a row of an operand, or its scales, has a poisoned word. -/
def Core.rowPoison (k : Core) (b : Block) (t : Span) (code : Nat) (trans : Bool) (outer n : Nat) : Bool :=
  let w := codeBits code
  if trans then (List.range n).any fun i => (k.localPoison b (t.base + i * t.stride + outer * w / 8) ((w + 7) / 8)).isSome
  else (k.localPoison b (t.base + outer * t.stride) (lineBytes code n)).isSome

def Core.scalePoison (k : Core) (b : Block) (t : Span) (code outer n : Nat) : Bool :=
  codeScaled code && (k.localPoison b (t.base + outer * t.stride) ((n + 31) / 32)).isSome

/-- Rows of A, columns of B, and elements of C that hold a poisoned word, as tests. -/
def Core.poisonA (k : Core) (b : Block) (d : MatDesc) (m : Nat) : Bool :=
  k.rowPoison b d.spanA d.at_ d.aTrans m d.k || k.scalePoison b d.spanSA d.at_ m d.k
def Core.poisonB (k : Core) (b : Block) (d : MatDesc) (n : Nat) : Bool :=
  k.rowPoison b d.spanB d.bt d.bTrans n d.k || k.scalePoison b d.spanSB d.bt n d.k
def Core.poisonC (k : Core) (b : Block) (d : MatDesc) (m n : Nat) : Bool :=
  !d.cZero && ((k.localPoison b (d.cBase + m * d.cStride + n * d.ab) d.ab).isSome ||
    (d.pair && d.cHasLo && (k.localPoison b (d.cLo + m * d.cStride + n * d.ab) d.ab).isSome))

/-- The rank columns of U, and the columns of V, that hold a poisoned word. -/
def Core.poisonU (k : Core) (b : Block) (d : MatDesc) (x : SideDesc) (r : Nat) : Bool := k.rowPoison b (x.spanU d.k) x.ut x.uTrans r d.k
def Core.poisonV (k : Core) (b : Block) (d : MatDesc) (x : SideDesc) (n : Nat) : Bool := k.rowPoison b (x.spanV d.n) x.vt x.vTrans n x.r

/-- The elements (m, r) of T' and (m, n) of D that are poisoned. -/
def Core.poisonT (k : Core) (b : Block) (d : MatDesc) (x : SideDesc) (m r : Nat) : Bool := k.poisonA b d m || k.poisonU b d x r
def Core.poisonD (k : Core) (b : Block) (d : MatDesc) (x : Option SideDesc) (m n : Nat) : Bool :=
  k.poisonA b d m || k.poisonB b d n || k.poisonC b d m n ||
  (match x with
   | some x => k.poisonV b d x n || (List.range x.r).any fun r => k.poisonU b d x r
   | none => false)

/-- Byte ranges of a tile in the order of the fetch (R171), as (offset, bytes). -/
def Span.ranges (t : Span) : List (Nat × Nat) := (List.range t.lines).map fun i => (t.base + i * t.stride, t.len)
def Fetched.ranges (x : Fetched) (ks k i : Nat) : List (Nat × Nat) :=
  let k1 := if (i + 1) * ks < k then (i + 1) * ks else k
  let a := i * ks / x.per
  let z := (k1 + x.per - 1) / x.per
  if x.trans then (List.range (z - a)).map fun j => (x.span.base + (a + j) * x.span.stride, x.span.len)
  else (List.range x.span.lines).map fun j => (x.span.base + j * x.span.stride + a * x.bits / 8, (z * x.bits + 7) / 8 - a * x.bits / 8)

/-- What the engine reads, in the order of the fetch: C, then slab by slab scales and operands, then V. -/
def readRanges (d : MatDesc) (x : Option SideDesc) : List (Nat × Nat) :=
  let row := (dotRow d.at_ d.bt).getD .half
  let ops : List Fetched :=
    (if codeScaled d.at_ then [⟨d.spanSA, false, 8, 32⟩] else []) ++ [⟨d.spanA, d.aTrans, codeBits d.at_, 1⟩] ++
    (if codeScaled d.bt then [⟨d.spanSB, false, 8, 32⟩] else []) ++ [⟨d.spanB, d.bTrans, codeBits d.bt, 1⟩] ++
    (match x with | some x => [⟨x.spanU d.k, x.uTrans, codeBits x.ut, 1⟩] | none => [])
  (if d.cZero then [] else d.spanC.ranges ++ (if d.pair && d.cHasLo then d.spanCLo.ranges else [])) ++
    ((List.range ((d.k + row.slab - 1) / row.slab)).flatMap fun i => ops.flatMap fun o => o.ranges row.slab d.k i) ++
    (match x with | some x => (x.spanV d.n).ranges | none => [])

/-- What the engine writes: D, the low parts, T' and the digest. -/
def writeRanges (d : MatDesc) (x : Option SideDesc) : List (Nat × Nat) :=
  d.spanD.ranges ++ (if d.pair then d.spanDLo.ranges else []) ++
    (match x with
     | some x => if x.tOut then (x.spanT d.m).ranges else []
     | none => []) ++ (if d.hasDigest then [(d.digest, 4)] else [])

/-- The local offset of the first poisoned word that the engine meets. -/
def Core.firstPoison (k : Core) (b : Block) (d : MatDesc) (x : Option SideDesc) : Option Nat :=
  (readRanges d x).findSome? fun r => k.localPoison b r.1 r.2

/-- R162, R175: the bit errors that the engine of core c met in its accumulator buffers: a single one is corrected and counted, under a
structure code that the spec does not give (a free value, log 73). -/
def State.settleAccumulator (s : State) (c : Nat) : State × List Nat :=
  let hit := fun (u : Upset) => decide (u.mem = .accumulator) && decide (u.unit = c)
  let us := s.upsets.filter hit
  let s := { s with upsets := s.upsets.filter fun u => !hit u }
  let s := us.foldl (fun s u =>
    let (v, s) := s.draw
    if u.double then s.uncorrected (c / 128) (s.coreUnit c) (fld v 0 32) (fld v 32 8)
    else s.corrected (c / 128) (s.coreUnit c) (fld v 0 32) (fld v 32 8) (c / 128)) s
  (s, (us.filter (·.double)).map (·.word))

/-! ## Completion -/

/-- A row written to a line, with the elements of w bytes for which bad holds poisoned. -/
def Core.putRow (k : Core) (b : Block) (off w : Nat) (l : List Nat) (bad : Nat → Bool) : Core :=
  let k := k.localWrite b off (l.length * w) (leNat (rowBytes w l))
  (List.range l.length).foldl (fun k i =>
    if bad i then
      ((List.range w).map fun j => (b.localBase + off + i * w + j) / 4).foldl (fun (k : Core) a => { k with lpoison := numIns k.lpoison a }) k
    else k) k

/-- Rows written to the lines of a tile. -/
def Core.putRows (k : Core) (b : Block) (t : Span) (w : Nat) (rows : List (List Nat)) (bad : Nat → Nat → Bool) : Core :=
  (rows.mapIdx fun m r => (m, r)).foldl (fun k (m, r) => k.putRow b (t.base + m * t.stride) w r (bad m)) k

/-- Rows with every element a free value (R61). -/
def State.freeRows (s : State) (w rows cols : Nat) : Nat → List (List Nat) → List (List Nat) × State
  | 0, acc => (acc, s)
  | n + 1, acc =>
    let (v, s) := s.drawMany ((cols * w + 7) / 8)
    s.freeRows w rows cols n (acc ++ [(List.range cols).map fun i => fldN v (8 * w * i) (8 * w)])
termination_by structural n => n

/-- The results of an instruction, in rows: high parts, low parts, T'. A tainted instruction's are free values. -/
def State.matResults (s : State) (c : Nat) (o : EngineOp) (b : Block) :
    (List (List Nat) × List (List Nat) × List (List Nat)) × State :=
  let d := o.mat
  let k := s.core c
  if o.tainted then
    let (h, s) := s.freeRows d.ab d.m d.n d.m []
    let (l, s) := s.freeRows d.ab d.m d.n d.m []
    let (r, w) := match o.sideD with | some x => (x.r, codeBits x.vt / 8) | none => (0, 1)
    let (t, s) := s.freeRows w d.m r d.m []
    ((h, l, t), s)
  else
    let d0 := k.mainResult b d
    let (res, t) := match o.sideD with
      | none => (d0, [])
      | some x => let t := k.sideT b d x; (k.sideD b d x t d0, t)
    ((res.map fun r => r.map (·.1), res.map fun r => r.map (·.2), t), s)

/-- MATRIX_COMPLETE (R172, R174, R175, R182): the oldest started instruction, its time come: its writes are performed and its
token completes. Where only an accumulator word was poisoned, the detail of DATA_POISON is a free value (log 73). -/
def execMatrixComplete (core : Fin 1536) (s : State) : Res :=
  match (s.core core).matrixQ with
  | [] => .next s
  | o :: rest =>
    match o.stage, kfind (s.core core).blocks o.block with
    | .started _ done, some b =>
      if s.coreCycles core < done then .next s else
      let d := o.mat
      let x := o.sideD
      let s := s.settleLocal core b (readRanges d x)
      let s := (writeRanges d x).foldl (fun s r => s.overwriteLocal core b r.1 r.2) s
      let (s, acc) := s.settleAccumulator core
      let k := s.core core
      let poison := k.firstPoison b d x
      let ((h, l, t), s) := s.matResults core o b
      let badT := fun m r => acc.contains (2 ^ 16 + m * 256 + r) || (match x with
        | some x => poison.isSome && k.poisonT b d x m r
        | none => false)
      let side := (x.map (·.r)).getD 0
      let bad := fun m n => acc.contains (m * 256 + n) || ((List.range side).any fun r => acc.contains (2 ^ 16 + m * 256 + r)) ||
        (poison.isSome && k.poisonD b d x m n)
      let s := s.modCore core fun k' =>
        let k' := { k' with matrixQ := rest }
        let k' := k'.putRows b d.spanD d.ab h bad
        let k' := if d.pair then k'.putRows b d.spanDLo d.ab l bad else k'
        let (k', tb) := match x with
          | some x => if x.tOut then (k'.putRows b (x.spanT d.m) (codeBits x.vt / 8) t badT, t.flatMap (rowBytes (codeBits x.vt / 8)))
            else (k', [])
          | none => (k', [])
        if d.hasDigest then
          k'.localWrite b d.digest 4 (crc32c (h.flatMap (rowBytes d.ab) ++ (if d.pair then l.flatMap (rowBytes d.ab) else []) ++ tb))
        else k'
      let s := s.completeToken core o.block o.token
      (match poison, acc with
       | some w, _ => .next (s.blockFault (o.place core) 0x0C (2 ^ 63 + w))
       | none, [] => .next s
       | none, _ :: _ => let (v, s) := s.draw; .next (s.blockFault (o.place core) 0x0C v.toNat))
    | _, _ => .next s

end Sys2Proof.Machine
end

