-- ==== Sys2Proof/Machine/Mgmt.lean ====
section
/-! DEFINITION. The management bus (R409, R415, R479 to R481) and the JTAG group (R482, Table 13.12). -/

namespace Sys2Proof.Machine

/-! ## Requests (R480, R481) -/

/-- R479: the static address at which the module is a target of the bus: from the straps latched at boot (R476). -/
def State.i3cStatic (s : State) : Nat := 0x10 + s.hub.slotId.toNat % 32

/-- R479: the address at which it answers: the one that SETDASA assigned, else the static one. The requests of this model are those that the
bus addresses to the module (log 103). -/
def State.i3cAddress (s : State) : Nat := (s.hub.i3cDynamic.map (·.toNat)).getD s.i3cStatic

/-- Table 16.5: the opcodes. -/
def mgmtOpcodes : List Nat := [0x01, 0x02, 0x03, 0x10, 0x11, 0x12]

/-- The result of a request: its STATUS and data. -/
abbrev MgmtEnd := State × Nat × List Byte

/-- R350, R415: the board controller's stored counter takes a value; it is written to flash when it crosses a multiple of 2^16. -/
def State.setBoardCounter (s : State) (v : BitVec 64) : State :=
  let s := if crosses s.velvet.boardCounter v then s.modFlash fun f => f.writeBoot fun f => { f with boardCounter := v } else s
  s.modVelvet fun k => { k with boardCounter := v }

/-- R352, R415: one more AUTH_FAIL of the board controller; the 16th in a row begins its lockout. -/
def State.boardFail (s : State) : State :=
  let n := s.boot.boardFails + 1
  if n < 16 then s.modBoot fun b => { b with boardFails := n }
  else (s.modBoot fun b => { b with boardFails := 0, boardLocked := some s.ticks }).event 12 0x0301 0xFF

/-- R352: whether the board controller is locked out. -/
def State.boardLockedOut (s : State) : Bool := match s.boot.boardLocked with
  | some t => !s.elapsed t secTicks
  | none => false

/-- The module serial under which the board controller's commands are checked: that of the image that boot selected, or before step 7 that
of the flash (log 64). -/
def State.boardSerial (s : State) : BitVec 128 :=
  if s.boot.boardKey.isSome then s.boot.config.serial else (s.flash.copy s.boot.cfgCopy).config.serial

/-- R402, R411, R481: the board key: none while boot is in progress; a stopped boot takes it from its key record (log 64). -/
def State.boardKeyNow (s : State) : Option (BitVec 256) :=
  match s.boot.boardKey with
  | some k => some k
  | none => if s.boot.error = 0 then none else some (unwrapRecord s.boardSerial 1 s.flash.boardKey)

/-- R481: the tag of a request, of which plen bytes are parameters. -/
def State.boardTag (s : State) (key : BitVec 256) (req : List Byte) (plen : Nat) : BitVec 128 :=
  tagOf key (leBytes 16 s.boardSerial.toNat ++ [0xFF] ++ req.take (12 + plen) ++ leBytes 32 0) "FT2-BRD"

/-- R349, R415: an authenticated request: BUSY while there is no board key, then the lockout, the tag and the counter. -/
def State.boardCommand (s : State) (req : List Byte) (plen : Nat) (act : BitVec 64 → State → MgmtEnd) : MgmtEnd :=
  match s.boardKeyNow with
  | none => (s, 4, [])
  | some key =>
    let counter : BitVec 64 := BitVec.ofNat 64 (leNat ((req.drop (4 + plen)).take 8))
    if s.boardLockedOut then (s, 1, [])
    else if (s.boardTag key req plen).toNat ≠ leNat ((req.drop (12 + plen)).take 16) then (s.boardFail, 1, [])
    else
      let s := s.modBoot fun b => { b with boardFails := 0 }
      if counter.toNat ≤ s.velvet.boardCounter.toNat then (s, 2, []) else act counter (s.setBoardCounter counter)

/-- R480, R487: whether the module answers on the management pair: not while step 2 of a package reset or of boot runs. -/
def State.mgmtUp (s : State) : Bool := s.hubUp && decide (3 ≤ s.boot.stage)

/-- R480, R481: a request with an opcode of its own, plen bytes of parameters and, where it is authenticated, a counter and a tag. An
unknown opcode, a wrong length and a reserved byte that is not zero receive INVALID; a request of another row is not this one. -/
def State.mgmt (s : State) (op plen : Nat) (auth : Bool) (req : List Byte) (act : List Byte → State → MgmtEnd) : Res :=
  let byte := fun (i : Nat) => ((req[i]?).getD 0).toNat
  if !s.mgmtUp || (byte 0 ≠ op && mgmtOpcodes.contains (byte 0) && !req.isEmpty) then .next s else
  let total := 4 + plen + (if auth then 24 else 0)
  let (s, status, data) :=
    if byte 0 ≠ op || req.length ≠ total || byte 1 ≠ plen || byte 2 ≠ 0 || byte 3 ≠ 0 then (s, 3, []) else act ((req.drop 4).take plen) s
  .next (s.modHub fun h => { h with reply := some (leBytes 1 (byte 0) ++ leBytes 1 status ++ leBytes 2 data.length ++ data) })

/-- REG_READ (Table 16.5): a hub offset and a count of 1 to 8 in one byte (log 38); words that BAR0 does not reach give INVALID. -/
def execRegRead (req : List Byte) (s : State) : Res :=
  s.mgmt 0x01 5 false req fun ps s =>
    let off := leNat (ps.take 4)
    let n := leNat (ps.drop 4)
    let words := (List.range n).map fun i => off + 4 * i
    if n = 0 || 8 < n || off % 4 ≠ 0 || words.any (fun o => 0x0F00000 ≤ o || !s.mayReach .trayHost o false) then (s, 3, [])
    else (s, 0, words.flatMap fun o => leBytes 4 (s.regRead o 4))

/-- ATTEST_WRITE (Table 16.5): 4 bytes at an offset from SEC_ATTEST_NONCE, within it or SEC_ATTEST_CTL (log 38). -/
def execAttestWrite (req : List Byte) (s : State) : Res :=
  s.mgmt 0x02 8 false req fun ps s =>
    let off := leNat (ps.take 4)
    if off % 4 ≠ 0 || 0x24 ≤ off then (s, 3, []) else (s.write4 .hub (0x50100 + off) (leNat (ps.drop 4)), 0, [])

/-- BOARD_COUNTER_READ (Table 16.5). -/
def execBoardCounterRead (req : List Byte) (s : State) : Res :=
  s.mgmt 0x03 0 false req fun _ s => (s, 0, leBytes 8 s.velvet.boardCounter.toNat)

/-- R409: EPOCH advances and HOLDER is the named warden; the other fences itself. -/
def State.selectWarden (s : State) (w : Nat) : State :=
  let e := s.velvet.epoch + 1
  if w = s.velvet.holder then
    let s := (s.modVelvet fun v => { v with epoch := e, renewed := s.ticks }).modBoot fun b => { b with held := kset b.held w e }
    if kget 0 s.boot.wardens (1 - w) = (2 : BitVec 3) then s.fenceWarden (1 - w) else s
  else s.newHolder w e

/-- WARDEN_SELECT (R409, R415). -/
def execWardenSelect (req : List Byte) (s : State) : Res :=
  s.mgmt 0x10 1 true req fun ps s =>
    s.boardCommand req 1 fun _ s =>
      let w := leNat ps
      if 2 ≤ w then (s, 3, []) else (s.selectWarden w, 0, [])

/-- PACKAGE_RESET (R389, R415): the reply comes before the reset takes effect (log 39). -/
def execPackageReset (req : List Byte) (s : State) : Res :=
  s.mgmt 0x11 0 true req fun _ s => s.boardCommand req 0 fun _ s => (s.modHub fun h => { h with resetAt := some s.ticks }, 0, [])

/-- BOARD_KEY_ROTATE (R351, R411, R415). -/
def execBoardKeyRotate (req : List Byte) (s : State) : Res :=
  s.mgmt 0x12 32 true req fun ps s =>
    s.boardCommand req 32 fun counter s =>
      let sn := s.boardSerial
      let k := unwrapKey sn (s.boardKeyNow.getD 0) 0xFF counter.toNat (digest ps)
      let s := s.modFlash fun f => f.writeKey 1 (nextRecord sn 1 f.boardKey k)
      (s.modBoot fun b => { b with boardKey := some k }, 0, [])

/-- R480: a package reset that a request started takes effect. -/
def State.boardReset (s : State) : State := if s.hub.resetAt.isSome then s.packageReset else s

/-- I3C_REPLY_READ (R480): the private read returns the reply, or BUSY; a PACKAGE_RESET takes effect once its reply is read. -/
def execI3cReplyRead (s : State) : Res :=
  if !s.mgmtUp then .next s
  else .next { s with i3cOut := s.hub.reply.getD [0, 4, 0, 0] }.boardReset

/-! ## JTAG (R416, R417, R482) -/

/-- R482: the hub's IDCODE; its version is of the hub's revision, whether step 4 has read it or not. -/
def State.idcode (s : State) : Nat :=
  1 + Config.jedecId.toNat * 2 + 0xF002 * 2 ^ 12 + (s.velvet.hubRev.getD Config.hubRevision).toNat * 2 ^ 28

/-- Table 13.12: whether the unlock in force lets JTAG reach the cores and the memory of die d. -/
def State.jtagDie (s : State) (d : Nat) : Bool := s.boot.debugScope = 3 || (s.boot.debugScope = 2 && s.boot.debugDies.getLsbD d)

/-- Table 13.12: with whose rights JTAG reads registers: FULL reaches what the lease holder does. -/
def State.jtagAgent (s : State) : Agent := if s.boot.debugScope = 3 then .warden (Fin.ofNat 2 s.velvet.holder) else .commandProcessor

/-- The requester of a debug access to a physical address: a die of the unlock from which it decodes. -/
def State.jtagReq (s : State) (pa : Nat) : Option Req :=
  let reqs := ((List.range 12).filter s.jtagDie).map fun d => ({ tile := d, part := s.partOf d, cls := 6 } : Req)
  reqs.find? fun r => match s.decodePa r pa with
    | .ok (.dram _ _) => true
    | .ok (.scratch _ _ _ _) => true
    | .ok (.reserve _) => false
    | .ok (.reg _) => false
    | .error _ => false

/-- What JTAG returns. -/
def State.jtagOut (s : State) (v : Nat) : State := s.modHub fun h => { h with jtag := some (BitVec.ofNat 64 v) }

/-- R478: TCK runs, and TDO is driven from then on: what it carried, or 0 at first (log 65). -/
def State.tckRuns (s : State) : State := s.jtagOut (s.hub.jtag.getD 0).toNat

/-- JTAG_ACCESS (R482, Table 13.12): an operation that the unlock in force does not allow does nothing. A step of a core is a resume, one
instruction of it, and a halt; of a host core, one access of it. -/
def execJtagAccess (op : JtagOp) (s : State) : Res :=
  if !s.hubUp then .next s else
  let s := s.tckRuns
  match op with
  | .bypass => .next s
  | .idcode => .next (s.jtagOut s.idcode)
  | .readReg off =>
    let o := off.toNat
    let n := if wideAt o then 8 else 4
    if o = 0x100 || (s.boot.debugScope ≠ 0 && o % 4 = 0 && s.mayReach s.jtagAgent o false) then .next (s.jtagOut (s.regRead o n)) else .next s
  | .readMem addr =>
    (match s.jtagReq addr.toNat with
    | none => .next s
    | some r => match s.readBulk r addr.toNat 1 with
      | (s, .ok b) => .next (s.jtagOut (leNat b.data))
      | (u, .error _) => .next (s.woken u))
  | .writeMem addr v =>
    (match s.jtagReq addr.toNat with
    | none => .next s
    | some r => match s.writeBulk r addr.toNat [(v, false)] with
      | (s, .ok ()) => .next s
      | (u, .error _) => .next (s.woken u))
  | .halt c => if s.jtagDie (c / 128) then .next (s.modBoot fun b => { b with halted := numIns b.halted c }) else .next s
  | .resume c => if s.jtagDie (c / 128) then .next (s.modBoot fun b => { b with halted := numDel b.halted c }) else .next s
  | .readCore g lane reg =>
    if s.jtagDie (g.core / 128) then .next (s.jtagOut (((s.block g.core g.block).group g.group).reg lane reg).toNat) else .next s
  | .writeCore g lane reg v =>
    if s.jtagDie (g.core / 128) && (kfind (s.core g.core).blocks g.block).isSome then
      .next (s.modGroup g.core g.block g.group fun k => k.setReg lane reg v)
    else .next s
  | .readPred g lane p =>
    if s.jtagDie (g.core / 128) then .next (s.jtagOut (flag (((s.block g.core g.block).group g.group).pred lane p))) else .next s
  | .writePred g lane p v =>
    if s.jtagDie (g.core / 128) && (kfind (s.core g.core).blocks g.block).isSome then
      .next (s.modGroup g.core g.block g.group fun k => k.setPred lane p v)
    else .next s
  | .readLocal c off => if s.jtagDie (c / 128) then .next (s.jtagOut (cellsRead (s.core c).lmem off 1)) else .next s
  | .writeLocal c off v => if s.jtagDie (c / 128) then .next (s.modCore c fun k => { k with lmem := cellsWrite k.lmem off [v] }) else .next s
  | .haltHost h => if s.jtagDie (h / 8) then .next (s.modBoot fun b => { b with haltedHosts := numIns b.haltedHosts h }) else .next s
  | .resumeHost h => if s.jtagDie (h / 8) then .next (s.modBoot fun b => { b with haltedHosts := numDel b.haltedHosts h }) else .next s

end Sys2Proof.Machine
end

