-- ==== Sys2Proof/Machine/TileOps.lean ====
section
/-! DEFINITION. Vector tile instructions (R107, R149, R159, R179, R180, R489). The oldest checked tile instruction of a
quarter is performed by the command of its operation, and completed by TILE_COMPLETE. Bits that a written line has beyond its
elements (the top bits of a 6-bit element's byte, the last nibble of an odd line) are free values (log 29). -/

namespace Sys2Proof.Machine

/-- R165: the bytes of a line of elements. -/
def State.packLine (s : State) (code : Nat) (l : List Nat) : List Byte × State :=
  if code = 0x8 || code = 0x9 then
    let (v, s) := s.drawMany ((l.length + 31) / 32)
    (l.mapIdx fun i e => BitVec.ofNat 8 (e % 64 + fldN v (2 * i) 2 * 64), s)
  else if codeBits code = 4 then
    let (v, s) := if l.length % 2 = 1 then s.draw else (0, s)
    let e := fun i => (l[i]?).getD (fld v 0 4) % 16
    ((List.range ((l.length + 1) / 2)).map fun i => BitVec.ofNat 8 (e (2 * i) + 16 * e (2 * i + 1)), s)
  else (rowBytes (codeBits code / 8) l, s)

/-- Elements of a line of a source. -/
def Core.tileLine (k : Core) (b : Block) (base stride code n i : Nat) : List Nat :=
  (List.range n).map fun j => k.elem b code (base + i * stride) j

/-- Whether the word of an element is poisoned. -/
def Core.elemPoison (k : Core) (b : Block) (base stride code i j : Nat) : Bool :=
  (k.localPoison b (base + i * stride + j * codeBits code / 8) ((codeBits code + 7) / 8)).isSome

/-- Whether the sources of element (i, j) hold a poisoned word. -/
def Core.sourcePoison (k : Core) (b : Block) (d : TileDesc) (i j : Nat) : Bool :=
  (d.usesS1 && k.elemPoison b d.s1Base d.s1Stride d.st i j) || (d.usesS2 && k.elemPoison b d.s2Base d.s2Stride d.dt i j) ||
  (d.usesS3 && k.elemPoison b d.s3Base d.s3Stride d.dt i j) ||
  (d.isCvt && codeScaled d.st && (k.localPoison b (d.sclBase + i * d.sclStride + j / 32) 1).isSome)

/-- R175: whether element (i, j) of D is poisoned. -/
def Core.resultPoison (k : Core) (b : Block) (d : TileDesc) (i j : Nat) : Bool :=
  if d.isRed then
    (if d.axis then (List.range d.rows).any fun i => k.sourcePoison b d i j else (List.range d.cols).any fun j => k.sourcePoison b d i j)
  else if d.op = 0x20 then k.sourcePoison b d j i
  else if d.isCvt && codeScaled d.dt then (List.range 32).any fun x => k.sourcePoison b d i (j / 32 * 32 + x)
  else k.sourcePoison b d i j

/-- The first poisoned word among the sources. -/
def Core.tileMet (k : Core) (b : Block) (d : TileDesc) : Option Nat :=
  let scl := if d.isCvt && codeScaled d.st then [d.spanScl] else []
  (d.sources ++ scl).findSome? fun t => t.ranges.findSome? fun r => k.localPoison b r.1 r.2

/-- Lines of elements written to a tile; the words of poisoned elements are marked. -/
def State.putLines (s : State) (c : Nat) (b : Block) (base stride code : Nat) (bad : Nat → Nat → Bool) :
    Nat → List (List Nat) → State
  | _, [] => s
  | i, l :: ls =>
    let (bs, s) := s.packLine code l
    let off := base + i * stride
    let s := (s.overwriteLocal c b off bs.length).modCore c fun k =>
      let k := k.localWrite b off bs.length (leNat bs)
      let words := ((List.range l.length).filter (bad i)).map fun j => (b.localBase + off + j * codeBits code / 8) / 4
      { k with lpoison := words.foldl numIns k.lpoison }
    s.putLines c b base stride code bad (i + 1) ls

/-- The front tile instruction of a quarter, checked and of an operation. -/
def State.frontTile (s : State) (c q op : Nat) : Option (EngineOp × Block) :=
  let k := s.core c
  match kget [] k.tileQ q with
  | [] => none
  | o :: _ =>
    if decide (o.stage = .checked) && (tileDesc o.copy).op = op && s.coreRuns c then (kfind k.blocks o.block).map fun b => (o, b) else none

/-- R180: VA cycles of a tile instruction, which is FP64 where its result or the source of its conversion is. -/
def TileDesc.cycles (d : TileDesc) : Nat :=
  let n := if d.dt = 0 || d.st = 0 then 16 else 32
  (d.rows * d.cols + n - 1) / n

/-- A tile operation, begun once it is the oldest of its quarter: rows gives D's lines; scales the lines of the scale tile that a CVT writes. -/
def tileRun (c q op : Nat) (rows : Core → Block → TileDesc → List (List Nat)) (scales : Core → Block → TileDesc → List (List Nat))
    (s : State) : Res :=
  match s.frontTile c q op with
  | none => .next s
  | some (o, b) =>
    let d := tileDesc o.copy
    let s := s.settleLocal c b ((d.sources ++ (if d.isCvt && codeScaled d.st then [d.spanScl] else [])).flatMap (·.ranges))
    let k := s.core c
    let met := k.tileMet b d
    let bad := fun i j => met.isSome && k.resultPoison b d i j
    let s := s.putLines c b d.dBase d.dStride d.dt bad 0 (rows k b d)
    let s := s.putLines c b d.sclBase d.sclStride 0xC (fun i j => bad i (32 * j)) 0 (scales k b d)
    .next (s.modCore c fun k => { k with
      tileQ := kset k.tileQ q (mapOp o.token (fun o => { o with stage := .written (s.coreCycles c + d.cycles), met := met }) (kget [] k.tileQ q)) })

def noScales : Core → Block → TileDesc → List (List Nat) := fun _ _ _ => []

/-! ## Conversion (R146 to R149, R489) -/

/-- Width of an integer code of Table 4.2. -/
def tileIntBits (c : Nat) : Nat := if c = 0xC then 8 else if c = 0xD then 4 else 32

/-- R147: a value to a signed integer of w bits. -/
def toSigned (w rnd : Nat) : FVal → Nat
  | .nan => 0
  | .inf neg => wrap (if neg then -(2 ^ (w - 1) : Nat) else (2 ^ (w - 1) : Nat) - 1) w
  | .fin neg m q =>
    let n : Int := (roundShift rnd neg m q 0 : Nat)
    let v := if neg then -n else n
    let lo : Int := -(2 ^ (w - 1) : Nat)
    let hi : Int := (2 ^ (w - 1) : Nat) - 1
    wrap (if v < lo then lo else if hi < v then hi else v) w

/-- A conversion of one element, with the scale byte of a block-scaled source. -/
def tileConvert (d : TileDesc) (x : Option Nat) (e : Nat) : Nat :=
  if codeInt d.dt then toSigned (tileIntBits d.dt) d.rnd (((codeFloat d.st).getD fp32).decode e)
  else
    let f := (codeFloat d.dt).getD fp32
    if codeInt d.st then
      let v := sgn e (tileIntBits d.st)
      f.round d.rnd d.ovf (v < 0) v.natAbs 0
    else f.encode d.rnd d.ovf (scaledValue d.st e x)

/-- Exponent of the largest finite value (R149). -/
def emaxOf (code : Nat) : Int := match code with
  | 0x6 => 8 | 0x7 => 15 | 0x8 => 4 | 0x9 => 2 | _ => 2

/-- The exponent of a finite value that is not zero. -/
def valExp : FVal → Option Int
  | .fin _ m q => if m = 0 then none else some ((Nat.log2 m : Int) + q)
  | .nan => none
  | .inf _ => none

/-- The largest of a list of exponents. -/
def maxExp : List Int → Option Int
  | [] => none
  | a :: l => match maxExp l with
    | none => some a
    | some b => some (if b < a then a else b)

/-- R149: the scale X of a block. -/
def blockScale (code : Nat) (vs : List FVal) : Nat :=
  if vs.any fun v => decide (v = .nan) then 255 else
  match maxExp (vs.filterMap valExp) with
  | none => 127
  | some e =>
    let x := e - emaxOf code + 127
    (if x < 0 then 0 else if 254 < x then 254 else x).toNat

/-- R149: the elements of a block; an infinity becomes the largest finite value of its sign. -/
def blockElems (code rnd : Nat) (vs : List FVal) : List Nat :=
  let x := blockScale code vs
  let f := (codeFloat code).getD e4m3
  if x = 255 then vs.map fun _ => 0 else
  vs.map fun v => match v with
    | .fin n m q => f.round rnd true n m (q + 127 - (x : Int))
    | .inf n => f.maxFinite + f.sign n
    | .nan => 0

/-- The blocks of 32 values of a line. -/
def blocksOf (l : List FVal) : List (List FVal) := (List.range (l.length / 32)).map fun i => (l.drop (32 * i)).take 32

/-- The decoded values of line i of S1. -/
def Core.sourceVals (k : Core) (b : Block) (d : TileDesc) (i : Nat) : List FVal :=
  (k.tileLine b d.s1Base d.s1Stride d.st d.cols i).map fun e => ((codeFloat d.st).getD fp32).decode e

def cvtRows (k : Core) (b : Block) (d : TileDesc) : List (List Nat) :=
  (List.range d.rows).map fun i =>
    if codeScaled d.dt then (blocksOf (k.sourceVals b d i)).flatMap (blockElems d.dt d.rnd)
    else (k.tileLine b d.s1Base d.s1Stride d.st d.cols i).mapIdx fun j e =>
      tileConvert d (if codeScaled d.st then some (k.localRead b (d.sclBase + i * d.sclStride + j / 32) 1) else none) e

def cvtScales (k : Core) (b : Block) (d : TileDesc) : List (List Nat) :=
  if codeScaled d.dt then (List.range d.rows).map fun i => (blocksOf (k.sourceVals b d i)).map (blockScale d.dt) else []

/-- TILE_CVT: OP 0x00. -/
def execTileCvt (core : Fin 1536) (quarter : Fin 4) (s : State) : Res := tileRun core quarter 0x00 cvtRows cvtScales s

/-! ## Arithmetic -/

/-- Element-wise operation of S1, S2 (or IMM) and S3. -/
def arithRows (fn : Fmt → Nat → Bool → Nat → Nat → Nat → Nat) (k : Core) (b : Block) (d : TileDesc) : List (List Nat) :=
  let f := (codeFloat d.dt).getD fp32
  (List.range d.rows).map fun i =>
    (List.range d.cols).map fun j =>
      let x := k.elem b d.dt (d.s1Base + i * d.s1Stride) j
      let y := if d.s2Imm then fldN d.imm 0 f.bits else k.elem b d.dt (d.s2Base + i * d.s2Stride) j
      let z := if d.usesS3 then k.elem b d.dt (d.s3Base + i * d.s3Stride) j else 0
      fn f d.rnd d.ovf x y z

/-- TILE ADD: OP 0x01. -/
def execTileAdd (core : Fin 1536) (quarter : Fin 4) (s : State) : Res :=
  tileRun core quarter 0x01 (arithRows fun f r o x y _ => f.add r o x y) noScales s
/-- TILE SUB: OP 0x02. -/
def execTileSub (core : Fin 1536) (quarter : Fin 4) (s : State) : Res :=
  tileRun core quarter 0x02 (arithRows fun f r o x y _ => f.sub r o x y) noScales s
/-- TILE MUL: OP 0x03. -/
def execTileMul (core : Fin 1536) (quarter : Fin 4) (s : State) : Res :=
  tileRun core quarter 0x03 (arithRows fun f r o x y _ => f.mul r o x y) noScales s
/-- TILE FMA: OP 0x04, S1 x S2 + S3. -/
def execTileFma (core : Fin 1536) (quarter : Fin 4) (s : State) : Res :=
  tileRun core quarter 0x04 (arithRows fun f r o x y z => f.fma r o x y z) noScales s
/-- TILE MIN: OP 0x05. -/
def execTileMin (core : Fin 1536) (quarter : Fin 4) (s : State) : Res :=
  tileRun core quarter 0x05 (arithRows fun f _ _ x y _ => f.minimum x y) noScales s
/-- TILE MAX: OP 0x06. -/
def execTileMax (core : Fin 1536) (quarter : Fin 4) (s : State) : Res :=
  tileRun core quarter 0x06 (arithRows fun f _ _ x y _ => f.maximum x y) noScales s
/-- TILE MINNUM: OP 0x07. -/
def execTileMinnum (core : Fin 1536) (quarter : Fin 4) (s : State) : Res :=
  tileRun core quarter 0x07 (arithRows fun f _ _ x y _ => f.minNum x y) noScales s
/-- TILE MAXNUM: OP 0x08. -/
def execTileMaxnum (core : Fin 1536) (quarter : Fin 4) (s : State) : Res :=
  tileRun core quarter 0x08 (arithRows fun f _ _ x y _ => f.maxNum x y) noScales s

/-- A reduction along each line, or across lines with AXIS (R159). -/
def redRows (op : Nat) (k : Core) (b : Block) (d : TileDesc) : List (List Nat) :=
  let f := (codeFloat d.dt).getD fp32
  let rows := (List.range d.rows).map (k.tileLine b d.s1Base d.s1Stride d.dt d.cols)
  if d.axis then [(List.range d.cols).map fun j => tileReduce f op d.rnd d.ovf (rows.map fun r => (r[j]?).getD 0)]
  else rows.map fun r => [tileReduce f op d.rnd d.ovf r]

/-- RSUM: OP 0x10. -/
def execRsum (core : Fin 1536) (quarter : Fin 4) (s : State) : Res := tileRun core quarter 0x10 (redRows 0) noScales s
/-- RMIN: OP 0x11. -/
def execRmin (core : Fin 1536) (quarter : Fin 4) (s : State) : Res := tileRun core quarter 0x11 (redRows 1) noScales s
/-- RMAX: OP 0x12. -/
def execRmax (core : Fin 1536) (quarter : Fin 4) (s : State) : Res := tileRun core quarter 0x12 (redRows 2) noScales s

/-- TRANSPOSE: OP 0x20; D(j, i) := S1(i, j), bits unchanged. -/
def execTranspose (core : Fin 1536) (quarter : Fin 4) (s : State) : Res :=
  tileRun core quarter 0x20 (fun k b d => (List.range d.cols).map fun j => (List.range d.rows).map fun i =>
    k.elem b d.dt (d.s1Base + i * d.s1Stride) j) noScales s

/-- FILL: OP 0x21; D := IMM. -/
def execFill (core : Fin 1536) (quarter : Fin 4) (s : State) : Res :=
  tileRun core quarter 0x21 (fun _ _ d =>
    let w := if d.dt = 8 || d.dt = 9 then 6 else codeBits d.dt
    (List.range d.rows).map fun _ => (List.range d.cols).map fun _ => fldN d.imm 0 w) noScales s

/-- TILE_COMPLETE (R107, R180, R175): the oldest tile instruction of a quarter, its writes performed: its token completes. -/
def execTileComplete (core : Fin 1536) (quarter : Fin 4) (s : State) : Res :=
  let k := s.core core
  match kget [] k.tileQ quarter with
  | [] => .next s
  | o :: rest =>
    let ended := match o.stage with
      | .written done => decide (done ≤ s.coreCycles core)
      | .queued => false
      | .checked => false
      | .started _ _ => false
    if !ended then .next s else
    let s := s.modCore core fun k => { k with tileQ := kset k.tileQ quarter rest }
    let s := s.completeToken core o.block o.token
    match o.met with
    | some w => .next (s.blockFault (o.place core) 0x0C (2 ^ 63 + w))
    | none => .next s

end Sys2Proof.Machine
end

