-- ==== Sys2Proof/Machine/Dispatch.lean ====
section
/-! DEFINITION. exec: one arm per command, each a direct call of its meaning. -/

namespace Sys2Proof.Machine

/-- The effect of a command on everything but the queue. -/
def exec (i : Instr) (s : State) : Host.Outcome State Fault Refusal :=
  match i with
  | .nop g f => Sys2Proof.Machine.execNop g f s
  | .bra g f => Sys2Proof.Machine.execBra g f s
  | .call g f => Sys2Proof.Machine.execCall g f s
  | .jmp g f => Sys2Proof.Machine.execJmp g f s
  | .callr g f => Sys2Proof.Machine.execCallr g f s
  | .exit g f => Sys2Proof.Machine.execExit g f s
  | .yield g f => Sys2Proof.Machine.execYield g f s
  | .trap g f => Sys2Proof.Machine.execTrap g f s
  | .iadd g f => Sys2Proof.Machine.execIadd g f s
  | .isub g f => Sys2Proof.Machine.execIsub g f s
  | .imul g f => Sys2Proof.Machine.execImul g f s
  | .imulhi g f => Sys2Proof.Machine.execImulhi g f s
  | .imad g f => Sys2Proof.Machine.execImad g f s
  | .imin g f => Sys2Proof.Machine.execImin g f s
  | .imax g f => Sys2Proof.Machine.execImax g f s
  | .iabs g f => Sys2Proof.Machine.execIabs g f s
  | .and g f => Sys2Proof.Machine.execAnd g f s
  | .or g f => Sys2Proof.Machine.execOr g f s
  | .xor g f => Sys2Proof.Machine.execXor g f s
  | .not g f => Sys2Proof.Machine.execNot g f s
  | .shl g f => Sys2Proof.Machine.execShl g f s
  | .shr g f => Sys2Proof.Machine.execShr g f s
  | .popc g f => Sys2Proof.Machine.execPopc g f s
  | .clz g f => Sys2Proof.Machine.execClz g f s
  | .brev g f => Sys2Proof.Machine.execBrev g f s
  | .bfe g f => Sys2Proof.Machine.execBfe g f s
  | .bfi g f => Sys2Proof.Machine.execBfi g f s
  | .icmp g f => Sys2Proof.Machine.execIcmp g f s
  | .sel g f => Sys2Proof.Machine.execSel g f s
  | .mov g f => Sys2Proof.Machine.execMov g f s
  | .plop g f => Sys2Proof.Machine.execPlop g f s
  | .psave g f => Sys2Proof.Machine.execPsave g f s
  | .pload g f => Sys2Proof.Machine.execPload g f s
  | .inti g op f => Sys2Proof.Machine.execInti g op f s
  | .fadd g f => Sys2Proof.Machine.execFadd g f s
  | .fsub g f => Sys2Proof.Machine.execFsub g f s
  | .fmul g f => Sys2Proof.Machine.execFmul g f s
  | .ffma g f => Sys2Proof.Machine.execFfma g f s
  | .fmin g f => Sys2Proof.Machine.execFmin g f s
  | .fmax g f => Sys2Proof.Machine.execFmax g f s
  | .fminnum g f => Sys2Proof.Machine.execFminnum g f s
  | .fmaxnum g f => Sys2Proof.Machine.execFmaxnum g f s
  | .fcmp g f => Sys2Proof.Machine.execFcmp g f s
  | .fclass g f => Sys2Proof.Machine.execFclass g f s
  | .rcp g f => Sys2Proof.Machine.execRcp g f s
  | .sqrt g f => Sys2Proof.Machine.execSqrt g f s
  | .rsq g f => Sys2Proof.Machine.execRsq g f s
  | .ex2 g f => Sys2Proof.Machine.execEx2 g f s
  | .lg2 g f => Sys2Proof.Machine.execLg2 g f s
  | .sin g f => Sys2Proof.Machine.execSin g f s
  | .cos g f => Sys2Proof.Machine.execCos g f s
  | .cvtFf g f => Sys2Proof.Machine.execCvtFf g f s
  | .cvtFi g f => Sys2Proof.Machine.execCvtFi g f s
  | .cvtIf g f => Sys2Proof.Machine.execCvtIf g f s
  | .ld g op f => Sys2Proof.Machine.execLd g op f s
  | .st g op f => Sys2Proof.Machine.execSt g op f s
  | .atomAdd g f => Sys2Proof.Machine.execAtomAdd g f s
  | .atomMin g f => Sys2Proof.Machine.execAtomMin g f s
  | .atomMax g f => Sys2Proof.Machine.execAtomMax g f s
  | .atomAnd g f => Sys2Proof.Machine.execAtomAnd g f s
  | .atomOr g f => Sys2Proof.Machine.execAtomOr g f s
  | .atomXor g f => Sys2Proof.Machine.execAtomXor g f s
  | .atomExch g f => Sys2Proof.Machine.execAtomExch g f s
  | .atomCas g f => Sys2Proof.Machine.execAtomCas g f s
  | .rrd g size f => Sys2Proof.Machine.execRrd g size f s
  | .rwr g size f => Sys2Proof.Machine.execRwr g size f s
  | .ratom g size f => Sys2Proof.Machine.execRatom g size f s
  | .rmsg g size f => Sys2Proof.Machine.execRmsg g size f s
  | .voteAll g f => Sys2Proof.Machine.execVoteAll g f s
  | .voteAny g f => Sys2Proof.Machine.execVoteAny g f s
  | .ballot g f => Sys2Proof.Machine.execBallot g f s
  | .shflIdx g f => Sys2Proof.Machine.execShflIdx g f s
  | .shflUp g f => Sys2Proof.Machine.execShflUp g f s
  | .shflDown g f => Sys2Proof.Machine.execShflDown g f s
  | .shflXor g f => Sys2Proof.Machine.execShflXor g f s
  | .gred g f => Sys2Proof.Machine.execGred g f s
  | .barBlock g f => Sys2Proof.Machine.execBarBlock g f s
  | .barTeam g f => Sys2Proof.Machine.execBarTeam g f s
  | .fence g f => Sys2Proof.Machine.execFence g f s
  | .twait g f => Sys2Proof.Machine.execTwait g f s
  | .tpoll g f => Sys2Proof.Machine.execTpoll g f s
  | .mma g f => Sys2Proof.Machine.execMma g f s
  | .tile g f => Sys2Proof.Machine.execTile g f s
  | .srd g f => Sys2Proof.Machine.execSrd g f s
  | .movi g f => Sys2Proof.Machine.execMovi g f s
  | .iaddw g f => Sys2Proof.Machine.execIaddw g f s
  | .adrpc g f => Sys2Proof.Machine.execAdrpc g f s
  | .blockTerminate core block => Sys2Proof.Machine.execBlockTerminate core block s
  | .blockTerminationTimeout core block => Sys2Proof.Machine.execBlockTerminationTimeout core block s
  | .blockEnd core block => Sys2Proof.Machine.execBlockEnd core block s
  | .barrierTimeout core => Sys2Proof.Machine.execBarrierTimeout core s
  | .groupOpTimeout core => Sys2Proof.Machine.execGroupOpTimeout core s
  | .teamLocalAccess id => Sys2Proof.Machine.execTeamLocalAccess id s
  | .teamLocalResponse id => Sys2Proof.Machine.execTeamLocalResponse id s
  | .remoteLocalTimeout id => Sys2Proof.Machine.execRemoteLocalTimeout id s
  | .teamPlace queue launch cell cores => Sys2Proof.Machine.execTeamPlace queue launch cell cores s
  | .cooperativeStart queue launch places => Sys2Proof.Machine.execCooperativeStart queue launch places s
  | .localSectionConvert core way => Sys2Proof.Machine.execLocalSectionConvert core way s
  | .localSectionReturn core way => Sys2Proof.Machine.execLocalSectionReturn core way s
  | .icacheMiss core quarter context pa => Sys2Proof.Machine.execIcacheMiss core quarter context pa s
  | .quarterClockGate core quarter => Sys2Proof.Machine.execQuarterClockGate core quarter s
  | .regionClockGate d r => Sys2Proof.Machine.execRegionClockGate d r s
  | .regionPowerGate d r => Sys2Proof.Machine.execRegionPowerGate d r s
  | .diePllOff d => Sys2Proof.Machine.execDiePllOff d s
  | .regionWakeComplete d r => Sys2Proof.Machine.execRegionWakeComplete d r s
  | .regionWakeTimeout d r => Sys2Proof.Machine.execRegionWakeTimeout d r s
  | .matrixDescriptorRead core token => Sys2Proof.Machine.execMatrixDescriptorRead core token s
  | .matrixStart core => Sys2Proof.Machine.execMatrixStart core s
  | .matrixComplete core => Sys2Proof.Machine.execMatrixComplete core s
  | .tileCvt core quarter => Sys2Proof.Machine.execTileCvt core quarter s
  | .tileAdd core quarter => Sys2Proof.Machine.execTileAdd core quarter s
  | .tileSub core quarter => Sys2Proof.Machine.execTileSub core quarter s
  | .tileMul core quarter => Sys2Proof.Machine.execTileMul core quarter s
  | .tileFma core quarter => Sys2Proof.Machine.execTileFma core quarter s
  | .tileMin core quarter => Sys2Proof.Machine.execTileMin core quarter s
  | .tileMax core quarter => Sys2Proof.Machine.execTileMax core quarter s
  | .tileMinnum core quarter => Sys2Proof.Machine.execTileMinnum core quarter s
  | .tileMaxnum core quarter => Sys2Proof.Machine.execTileMaxnum core quarter s
  | .rsum core quarter => Sys2Proof.Machine.execRsum core quarter s
  | .rmin core quarter => Sys2Proof.Machine.execRmin core quarter s
  | .rmax core quarter => Sys2Proof.Machine.execRmax core quarter s
  | .transpose core quarter => Sys2Proof.Machine.execTranspose core quarter s
  | .fill core quarter => Sys2Proof.Machine.execFill core quarter s
  | .tileComplete core quarter => Sys2Proof.Machine.execTileComplete core quarter s
  | .rdLineNc m => Sys2Proof.Machine.execRdLineNc m s
  | .rdSector m => Sys2Proof.Machine.execRdSector m s
  | .wrLine m => Sys2Proof.Machine.execWrLine m s
  | .wrMasked m => Sys2Proof.Machine.execWrMasked m s
  | .wrSector m => Sys2Proof.Machine.execWrSector m s
  | .regRd m => Sys2Proof.Machine.execRegRd m s
  | .regWr m => Sys2Proof.Machine.execRegWr m s
  | .floorRequestTimeout srcTile srcAgent tag => Sys2Proof.Machine.execFloorRequestTimeout srcTile srcAgent tag s
  | .lineFillComplete t j set => Sys2Proof.Machine.execLineFillComplete t j set s
  | .victimWriteback t j => Sys2Proof.Machine.execVictimWriteback t j s
  | .streamEntryReset t e => Sys2Proof.Machine.execStreamEntryReset t e s
  | .rdS m => Sys2Proof.Machine.execRdS m s
  | .rdX m => Sys2Proof.Machine.execRdX m s
  | .upg m => Sys2Proof.Machine.execUpg m s
  | .wb m => Sys2Proof.Machine.execWb m s
  | .atomH m => Sys2Proof.Machine.execAtomH m s
  | .purgeWb m => Sys2Proof.Machine.execPurgeWb m s
  | .snpS m => Sys2Proof.Machine.execSnpS m s
  | .snpX m => Sys2Proof.Machine.execSnpX m s
  | .snpNc m => Sys2Proof.Machine.execSnpNc m s
  | .snpInv m => Sys2Proof.Machine.execSnpInv m s
  | .snpInvWb m => Sys2Proof.Machine.execSnpInvWb m s
  | .purge m => Sys2Proof.Machine.execPurge m s
  | .compS m => Sys2Proof.Machine.execCompS m s
  | .compE m => Sys2Proof.Machine.execCompE m s
  | .compM m => Sys2Proof.Machine.execCompM m s
  | .cack m => Sys2Proof.Machine.execCack m s
  | .wbAck m => Sys2Proof.Machine.execWbAck m s
  | .snpMiss m => Sys2Proof.Machine.execSnpMiss m s
  | .snpAckS m => Sys2Proof.Machine.execSnpAckS m s
  | .snpAckI m => Sys2Proof.Machine.execSnpAckI m s
  | .snpFwdO m => Sys2Proof.Machine.execSnpFwdO m s
  | .snpFwdI m => Sys2Proof.Machine.execSnpFwdI m s
  | .snpFwdKeep m => Sys2Proof.Machine.execSnpFwdKeep m s
  | .snpAckKeep m => Sys2Proof.Machine.execSnpAckKeep m s
  | .purgeDone m => Sys2Proof.Machine.execPurgeDone m s
  | .dataClean m => Sys2Proof.Machine.execDataClean m s
  | .dataDirty m => Sys2Proof.Machine.execDataDirty m s
  | .atomOld m => Sys2Proof.Machine.execAtomOld m s
  | .directoryRecall t line => Sys2Proof.Machine.execDirectoryRecall t line s
  | .snoopTimeout t line => Sys2Proof.Machine.execSnoopTimeout t line s
  | .directoryFenceScan t d => Sys2Proof.Machine.execDirectoryFenceScan t d s
  | .flrLlmSliceCfg a t j v => Sys2Proof.Machine.execFlrLlmSliceCfg a t j v s
  | .wayToScratch t j => Sys2Proof.Machine.execWayToScratch t j s
  | .scratchToCache t j => Sys2Proof.Machine.execScratchToCache t j s
  | .flrLlmCtl a t v => Sys2Proof.Machine.execFlrLlmCtl a t v s
  | .flrStreamCtl a t v => Sys2Proof.Machine.execFlrStreamCtl a t v s
  | .dramTempSample t dev temp => Sys2Proof.Machine.execDramTempSample t dev temp s
  | .memStopped srcTile srcAgent tag => Sys2Proof.Machine.execMemStopped srcTile srcAgent tag s
  | .refresh t dev bank => Sys2Proof.Machine.execRefresh t dev bank s
  | .scrub t dev sector ecc mirror => Sys2Proof.Machine.execScrub t dev sector ecc mirror s
  | .dramRepair t dev bank row => Sys2Proof.Machine.execDramRepair t dev bank row s
  | .pageWalk d context atp adHw va acc => Sys2Proof.Machine.execPageWalk d context atp adHw va acc s
  | .hubXlatInvCtl a wide v => Sys2Proof.Machine.execHubXlatInvCtl a wide v s
  | .xlatInvalidationComplete => Sys2Proof.Machine.execXlatInvalidationComplete s
  | .lnkCtlEnable a l v => Sys2Proof.Machine.execLnkCtlEnable a l v s
  | .retrain a l => Sys2Proof.Machine.execRetrain a l s
  | .laneEn a l v => Sys2Proof.Machine.execLaneEn a l v s
  | .laneReenable a l => Sys2Proof.Machine.execLaneReenable a l s
  | .equalisationComplete l good => Sys2Proof.Machine.execEqualisationComplete l good s
  | .codewordLock l => Sys2Proof.Machine.execCodewordLock l s
  | .identityBlock l b => Sys2Proof.Machine.execIdentityBlock l b s
  | .identityBlockSend l => Sys2Proof.Machine.execIdentityBlockSend l s
  | .trainingAttemptTimeout l => Sys2Proof.Machine.execTrainingAttemptTimeout l s
  | .linkDownRetry l => Sys2Proof.Machine.execLinkDownRetry l s
  | .linkBlockReceived l b => Sys2Proof.Machine.execLinkBlockReceived l b s
  | .retrainTimeout l => Sys2Proof.Machine.execRetrainTimeout l s
  | .rrdFrame l fr => Sys2Proof.Machine.execRrdFrame l fr s
  | .rwrFrame l fr => Sys2Proof.Machine.execRwrFrame l fr s
  | .ratomFrame l fr => Sys2Proof.Machine.execRatomFrame l fr s
  | .rmsgFrame l fr => Sys2Proof.Machine.execRmsgFrame l fr s
  | .rrdData l fr => Sys2Proof.Machine.execRrdData l fr s
  | .rwrAck l fr => Sys2Proof.Machine.execRwrAck l fr s
  | .ratomOld l fr => Sys2Proof.Machine.execRatomOld l fr s
  | .rmsgAck l fr => Sys2Proof.Machine.execRmsgAck l fr s
  | .linkNak l fr => Sys2Proof.Machine.execLinkNak l fr s
  | .remoteTimeout t tag => Sys2Proof.Machine.execRemoteTimeout t tag s
  | .rmsgRetry t tag => Sys2Proof.Machine.execRmsgRetry t tag s
  | .slowLevelFall firstDie => Sys2Proof.Machine.execSlowLevelFall firstDie s
  | .collData l fr => Sys2Proof.Machine.execCollData l fr s
  | .collAbort l fr => Sys2Proof.Machine.execCollAbort l fr s
  | .collectiveStart queue => Sys2Proof.Machine.execCollectiveStart queue s
  | .collectiveComplete queue => Sys2Proof.Machine.execCollectiveComplete queue s
  | .collectiveTimeout queue die => Sys2Proof.Machine.execCollectiveTimeout queue die s
  | .bar2Write w => Sys2Proof.Machine.execBar2Write w s
  | .bar2Read off len => Sys2Proof.Machine.execBar2Read off len s
  | .bar2Atomicop off op size operand compare => Sys2Proof.Machine.execBar2Atomicop off op size operand compare s
  | .bar4Doorbell w => Sys2Proof.Machine.execBar4Doorbell w s
  | .hostProtocolViolation v => Sys2Proof.Machine.execHostProtocolViolation v s
  | .hubWinCtl a half v => Sys2Proof.Machine.execHubWinCtl a half v s
  | .hubHcrCtl a ring v => Sys2Proof.Machine.execHubHcrCtl a ring v s
  | .recordPost ring => Sys2Proof.Machine.execRecordPost ring s
  | .msixMessage vec => Sys2Proof.Machine.execMsixMessage vec s
  | .dlDown => Sys2Proof.Machine.execDlDown s
  | .linkEpoch => Sys2Proof.Machine.execLinkEpoch s
  | .pcieConfigWrite bme mse d3hot => Sys2Proof.Machine.execPcieConfigWrite bme mse d3hot s
  | .hostLinkDownTimeout => Sys2Proof.Machine.execHostLinkDownTimeout s
  | .functionLevelReset => Sys2Proof.Machine.execFunctionLevelReset s
  | .hotReset => Sys2Proof.Machine.execHotReset s
  | .perstNAssert => Sys2Proof.Machine.execPerstNAssert s
  | .hostResetComplete => Sys2Proof.Machine.execHostResetComplete s
  | .doorbellWrite a queue off size v => Sys2Proof.Machine.execDoorbellWrite a queue off size v s
  | .commandFetch queue => Sys2Proof.Machine.execCommandFetch queue s
  | .emptySlotRetry queue => Sys2Proof.Machine.execEmptySlotRetry queue s
  | .commandComplete queue => Sys2Proof.Machine.execCommandComplete queue s
  | .nopCommand queue => Sys2Proof.Machine.execNopCommand queue s
  | .kernel queue => Sys2Proof.Machine.execKernel queue s
  | .layer queue => Sys2Proof.Machine.execLayer queue s
  | .layerKernelAdvance queue => Sys2Proof.Machine.execLayerKernelAdvance queue s
  | .stepEntryStart queue entry => Sys2Proof.Machine.execStepEntryStart queue entry s
  | .wait queue => Sys2Proof.Machine.execWait queue s
  | .waitPoll queue => Sys2Proof.Machine.execWaitPoll queue s
  | .collective queue => Sys2Proof.Machine.execCollective queue s
  | .contextCreate queue => Sys2Proof.Machine.execContextCreate queue s
  | .contextDestroy queue => Sys2Proof.Machine.execContextDestroy queue s
  | .queueCreate queue => Sys2Proof.Machine.execQueueCreate queue s
  | .queueDestroy queue => Sys2Proof.Machine.execQueueDestroy queue s
  | .countsRead queue => Sys2Proof.Machine.execCountsRead queue s
  | .counterRead queue => Sys2Proof.Machine.execCounterRead queue s
  | .kvPoolCreate queue => Sys2Proof.Machine.execKvPoolCreate queue s
  | .kvStep queue => Sys2Proof.Machine.execKvStep queue s
  | .kvPoolDestroy queue => Sys2Proof.Machine.execKvPoolDestroy queue s
  | .powerLimit queue => Sys2Proof.Machine.execPowerLimit queue s
  | .partitionSet queue => Sys2Proof.Machine.execPartitionSet queue s
  | .systemAddress queue => Sys2Proof.Machine.execSystemAddress queue s
  | .reset queue => Sys2Proof.Machine.execReset queue s
  | .firmwareUpdate queue => Sys2Proof.Machine.execFirmwareUpdate queue s
  | .keyRotate queue => Sys2Proof.Machine.execKeyRotate queue s
  | .debugUnlock queue => Sys2Proof.Machine.execDebugUnlock queue s
  | .authLockoutEnd context => Sys2Proof.Machine.execAuthLockoutEnd context s
  | .commandLimitExpiry queue => Sys2Proof.Machine.execCommandLimitExpiry queue s
  | .sliceEnd firstDie => Sys2Proof.Machine.execSliceEnd firstDie s
  | .contextSwitch firstDie => Sys2Proof.Machine.execContextSwitch firstDie s
  | .telemetryFrame rail t => Sys2Proof.Machine.execTelemetryFrame rail t s
  | .activityModelUpdate acts => Sys2Proof.Machine.execActivityModelUpdate acts s
  | .controlLoopUpdate => Sys2Proof.Machine.execControlLoopUpdate s
  | .fastPath watts => Sys2Proof.Machine.execFastPath watts s
  | .lendUpdate => Sys2Proof.Machine.execLendUpdate s
  | .dieTempSample u temp => Sys2Proof.Machine.execDieTempSample u temp s
  | .thermTripClear => Sys2Proof.Machine.execThermTripClear s
  | .coolantSample inlet flow => Sys2Proof.Machine.execCoolantSample inlet flow s
  | .brake level => Sys2Proof.Machine.execBrake level s
  | .coolStop level => Sys2Proof.Machine.execCoolStop level s
  | .coolResume => Sys2Proof.Machine.execCoolResume s
  | .standby a => Sys2Proof.Machine.execStandby a s
  | .wake a => Sys2Proof.Machine.execWake a s
  | .regPhase rail working => Sys2Proof.Machine.execRegPhase rail working s
  | .powerOn => Sys2Proof.Machine.execPowerOn s
  | .inputPowerValid => Sys2Proof.Machine.execInputPowerValid s
  | .brownOut => Sys2Proof.Machine.execBrownOut s
  | .bootStage r => Sys2Proof.Machine.execBootStage r s
  | .bootWatchdog => Sys2Proof.Machine.execBootWatchdog s
  | .hubPowerFail => Sys2Proof.Machine.execHubPowerFail s
  | .dieResetStep d caps ok => Sys2Proof.Machine.execDieResetStep d caps ok s
  | .leaseRenew w epoch => Sys2Proof.Machine.execLeaseRenew w epoch s
  | .leaseClaim w epoch => Sys2Proof.Machine.execLeaseClaim w epoch s
  | .leaseLost => Sys2Proof.Machine.execLeaseLost s
  | .go a v => Sys2Proof.Machine.execGo a v s
  | .attestationDone => Sys2Proof.Machine.execAttestationDone s
  | .cpHeartbeatMissed => Sys2Proof.Machine.execCpHeartbeatMissed s
  | .registerWrite a off wide v => Sys2Proof.Machine.execRegisterWrite a off wide v s
  | .registerAccessTimeout a w => Sys2Proof.Machine.execRegisterAccessTimeout a w s
  | .bitAliasWrite a off size v => Sys2Proof.Machine.execBitAliasWrite a off size v s
  | .sqAcknowledge a off v => Sys2Proof.Machine.execSqAcknowledge a off v s
  | .commit a w => Sys2Proof.Machine.execCommit a w s
  | .ref a w v => Sys2Proof.Machine.execRef a w v s
  | .crcSweep w => Sys2Proof.Machine.execCrcSweep w s
  | .handlingWindowTimeout unit => Sys2Proof.Machine.execHandlingWindowTimeout unit s
  | .heartbeatTimeout d => Sys2Proof.Machine.execHeartbeatTimeout d s
  | .fenceTakesEffect d => Sys2Proof.Machine.execFenceTakesEffect d s
  | .coreRetired core => Sys2Proof.Machine.execCoreRetired core s
  | .sidebandChatter sig => Sys2Proof.Machine.execSidebandChatter sig s
  | .chatterEnd sig => Sys2Proof.Machine.execChatterEnd sig s
  | .slotIdChange v => Sys2Proof.Machine.execSlotIdChange v s
  | .regRead req => Sys2Proof.Machine.execRegRead req s
  | .attestWrite req => Sys2Proof.Machine.execAttestWrite req s
  | .boardCounterRead req => Sys2Proof.Machine.execBoardCounterRead req s
  | .wardenSelect req => Sys2Proof.Machine.execWardenSelect req s
  | .packageReset req => Sys2Proof.Machine.execPackageReset req s
  | .boardKeyRotate req => Sys2Proof.Machine.execBoardKeyRotate req s
  | .i3cReplyRead => Sys2Proof.Machine.execI3cReplyRead s
  | .jtagAccess op => Sys2Proof.Machine.execJtagAccess op s
  | .dlUp => Sys2Proof.Machine.execDlUp s
  | .perstNDeassert => Sys2Proof.Machine.execPerstNDeassert s
  | .postedWriteDelivered => Sys2Proof.Machine.execPostedWriteDelivered s
  | .linkBlockSend l => Sys2Proof.Machine.execLinkBlockSend l s
  | .trainingPatternReceived l => Sys2Proof.Machine.execTrainingPatternReceived l s
  | .inputPowerAbsent => Sys2Proof.Machine.execInputPowerAbsent s
  | .diePllFailure d => Sys2Proof.Machine.execDiePllFailure d s
  | .hostCoreMemoryAccess h op stream pa size v => Sys2Proof.Machine.execHostCoreMemoryAccess h op stream pa size v s

end Sys2Proof.Machine
end

