-- ==== Sys2Proof/Machine/Tick.lean ====
section
/-! DEFINITION. The passage of 10 ns (one count of the 100 MHz reference, R24, R25) that an idle block makes (log 1): the
counters and clocks advance, hotness samples taken are written (R231), window requests that waited are served (R63), so are updates of atomics (R254), answers without a command of their own arrive, wardens restart
(R407), nested errors' fence actions are carried out and handling windows close (R450, R451). -/

namespace Sys2Proof.Machine

/-- R231: the oldest sample of a tile is written to its ring, or dropped where the ring is full. One whose access must wait stays; one that
meets a memory error is lost, and the index does not advance (log 79). -/
def State.writeHot (s : State) (t : Nat) : State :=
  let h := (s.tile t).hot
  match h.queue with
  | [] => s
  | r :: rs =>
    let read := if h.write.toNat < h.read.toNat then h.write.toNat else h.read.toNat
    let size := 2 ^ h.sizeLog2.toNat
    if size ≤ h.write.toNat - read then s.modTile t fun k => { k with hot := { k.hot with queue := rs, drops := k.hot.drops + 1 } }
    else
      let pa := h.base.toNat + h.write.toNat % size * 16
      let q : Req := { tile := t, part := s.partOf t, cls := 6, hotRec := true }
      match s.ncWrite q (pa / 128) (lineOfBytes (pa % 128) 16 r.toNat) (maskOfBytes (pa % 128) 16) with
      | (s, .error .busy) => s
      | (s, .error _) => s.modTile t fun k => { k with hot := { k.hot with queue := rs } }
      | (s, .ok ()) => s.modTile t fun k => { k with hot := { k.hot with queue := rs, write := k.hot.write + 1 } }

/-- Arithmetic cycles of a die in 10 ns, in 64ths: 1.4 GHz x n / 64 (R360); none while its PLLs do not run. -/
def Die.cycles64 (k : Die) (n : Nat) : Nat := if k.pll && !k.pllFailed then 14 * n else 0

/-- R25: the counters of a die. -/
def State.tickDie (s : State) (d : Nat) (k : Die) : Die :=
  { k with time := if k.timeLoaded then k.time + 1 else k.time, arith64 := k.arith64 + k.cycles64 (s.pwr d).n }

/-- Floor-network cycles in 10 ns, in quarters: 2.0 GHz, 250 MHz while the stop is in force (R384), and none in standby, whose PLLs do
not run (Table 1.7). -/
def State.floorRate (s : State) : Nat := if s.power.standby then 0 else if s.power.coolStop then 10 else 80

/-- The counts and clocks of 10 ns. -/
def State.tickClocks (s : State) : State :=
  { s with
    ticks := s.ticks + 1
    floor4 := s.floor4 + s.floorRate
    dies := s.dies.map fun (d, k) => (d, s.tickDie d k)
    hub := { s.hub with time := if s.velvet.valid then s.hub.time + 1 else s.hub.time } }

/-- R188: an RSP ACK that carries no data reaches its requester, which awaits nothing more. -/
def State.sinkAcks (s : State) : State := { s with floor := s.floor.filter fun f => f.op ≠ .ack }

/-- R303: cycles in which frames waited for credits, of the n floor-network cycles that passed. -/
def State.countWaits (s : State) (n : Nat) : State := { s with links := s.links.map fun (l, k) => (l, k.countWait n) }

/-- R15, R438: the saturation counters of tiles and hub, over n floor-network cycles and 10 hub cycles. -/
def State.countFloor (s : State) (n : Nat) : State :=
  if s.floor.isEmpty && s.outstanding.isEmpty then s else
  let s := (List.range 12).foldl (fun s t =>
    if s.reqWaits t || s.withholds t then s.modTile t fun k => { k with sat := satAdd k.sat n } else s) s
  if s.reqWaits 12 then s.modHub fun h => { h with sat := satAdd h.sat 10 } else s

/-- R15, R438: while requests of a cell are on its crossbar, or of a region at its port, some of the arithmetic cycles that the die made since
state o may have been waits for a credit: a free number of them, as the spec gives those links no number of credits (log 11). -/
def State.countCores (s o : State) : State :=
  let made := fun (d : Nat) => s.arithCycles d - o.arithCycles d
  let s := s.xbarCells.foldl (fun s c =>
    let (v, s) := s.draw
    s.modDie (c / 16) fun k => { k with satCell := kmod 0 k.satCell (c % 16) fun x => satAdd x (v.toNat % (made (c / 16) + 1)) }) s
  s.portRegions.foldl (fun s r =>
    let (v, s) := s.draw
    s.modDie (r / 4) fun k => { k with satRegion := kmod 0 k.satRegion (r % 4) fun x => satAdd x (v.toNat % (made (r / 4) + 1)) }) s

/-- R288: the partitions' levels follow their conditions upward. -/
def State.noteAllSlow (s : State) : State := (kkeys s.partitions).foldl (fun s p => s.noteSlow p) s

/-- R407, R409: a fenced warden restarts from the boot ROM, and is standby, or the holder where the lease has been given to it since it was
fenced (log 41). -/
def State.restartWarden (s : State) (w : Nat) : State :=
  let st : BitVec 3 := kget 0 s.boot.wardens w
  let at_ := kget 0 s.boot.fencedAt w
  if st = 4 && s.elapsed at_ (10 * usTicks) then s.modBoot fun b => { b with wardens := kset b.wardens w 1 }
  else if st = 1 && s.elapsed at_ (10 * usTicks + 20 * msTicks) then
    if s.velvet.holder = w && kfind s.boot.held w = some s.velvet.epoch then s.modBoot fun b => { b with wardens := kset b.wardens w 3 }
    else s.modBoot fun b => { b with wardens := kset b.wardens w 2 }
  else s

/-- R480: a package reset that the board controller asked for takes effect at the latest 10 ms after its request. -/
def State.boardDue (s : State) : State := match s.hub.resetAt with
  | some t => if s.elapsed t (10 * msTicks) then s.boardReset else s
  | none => s

/-- One count of the reference. -/
def State.tick (s : State) : State :=
  let o := s
  let s := s.tickClocks.sinkAcks
  let n := s.floorCycles - o.floorCycles
  let s := (((s.countFloor n).countCores o).countWaits n).drainLocal.noteAllSlow
  let s := ((s.restartWarden 0).restartWarden 1).fenceActions.closeWindows.boardDue.serveWindow.retryHere
  (List.range 12).foldl (fun s t => s.writeHot t) s

end Sys2Proof.Machine
end

