-- ==== Sys2Proof/Safety.lean ====
section
/-! DEFINITION. What a safe step is, in the terms that claims use: a step that answers a next state, neither a fault nor a
refusal, and a state whose memories are in canonical form. -/

namespace Sys2Proof

open Machine

/-- The step answers a next state. -/
def Runs (s : State) : Prop := ∃ t, step s = .next t

/-- The memory of the package and of every core is in canonical form. -/
def MemoryOk (s : State) : Prop := Memory.wf s.mem = true ∧ ∀ p ∈ s.cores, Memory.wf p.2.lmem = true

end Sys2Proof
end

