-- ==== Sys2Proof/Certificates/Slice0/Obligations.lean ====
section
/-! DEFINITION. The statements for the provers, from the numbered rules of the spec. Each says, for commands of one shape, that
exec answers a next state and what that state holds, or a rule of the whole machine. The rules that a docstring names first are
those its clauses are taken from, each for the forms that the hypotheses describe; OBLIGATIONS.json tells which rule a statement
states whole, and which entries of the log it rests on. -/

namespace Sys2Proof.Machine

/-! ## Words of the statements: instructions of the compute core -/

/-- The group that an instruction names. -/
def State.groupAt (s : State) (a : GroupAt) : Group := (s.block a.core.val a.block.val).group a.group.val

/-- The instruction is at issue as i, legal for the block's allocation, and waits for no register and no descriptor read; none of its
registers holds a bit error (R80, R114, R163, R488). -/
def Ready (s : State) (a : GroupAt) (f : Fields) (legal : Nat → Bool) (uses : List Nat) (i : Issue) : Prop :=
  s.issueOf a f = some i ∧ f.rsv = 0 ∧ legal i.block.alloc = true ∧ (∀ r ∈ uses, r ∉ i.group.pending) ∧
  (s.core a.core.val).unread a.block.val a.group.val = false ∧ s.regsSound i uses

/-- The state in which a ready instruction runs: its issue counted. -/
def State.issued (s : State) (i : Issue) : State :=
  (s.touchQuarter i.at_.core i.group.quarter).modGroup i.at_.core i.at_.block i.at_.group fun _ => i.group.noteIssue i.at_.pc i.lanes

/-- t differs from s in no unit but the compute cores, and in no core but c; of core c only its blocks and what clock gating
reads. -/
def CoreOnly (s t : State) (c : Nat) : Prop :=
  t = { s with cores := t.cores } ∧ (∀ d, d ≠ c → t.core d = s.core d) ∧
  t.core c = { s.core c with blocks := (t.core c).blocks, gated := (t.core c).gated, lastActive := (t.core c).lastActive }

/-- t differs from s only in the group that a names: of the block's other groups, and of the core's other blocks, none changes. -/
def GroupOnly (s t : State) (a : GroupAt) : Prop :=
  CoreOnly s t a.core.val ∧ (∀ b, b ≠ a.block.val → t.block a.core.val b = s.block a.core.val b) ∧
  t.block a.core.val a.block.val = { s.block a.core.val a.block.val with groups := (t.block a.core.val a.block.val).groups } ∧
  ∀ g, g ≠ a.group.val → (t.block a.core.val a.block.val).group g = (s.block a.core.val a.block.val).group g

/-- Of the group's registers only rs change, and of its predicates only ps, both of the active threads alone. -/
def OnlyNamed (s t : State) (a : GroupAt) (i : Issue) (rs ps : List Nat) : Prop :=
  (∀ l r, r < 256 → (l ∉ i.active ∨ r ∉ rs) → (t.groupAt a).reg l r = (s.groupAt a).reg l r) ∧
  (∀ l p, (l ∉ i.active ∨ p ∉ ps) → (t.groupAt a).pred l p = (s.groupAt a).pred l p)

/-- The subset's threads go to next, and the other threads of the group stay. -/
def PcsGo (s t : State) (a : GroupAt) (i : Issue) (next : Nat → BitVec 64) : Prop :=
  ∀ l, ((t.groupAt a).thread l).pc = if l ∈ i.lanes then next l else ((s.groupAt a).thread l).pc

/-- The instructions that write n registers from DST: each active thread's take v, and nothing else changes. -/
def WritesRegs (c : GroupAt → Fields → Instr) (legal : Fields → Nat → Bool) (uses : Fields → List Nat) (n : Fields → Nat)
    (v : State → Issue → Fields → Nat → Nat) : Prop :=
  ∀ a f s i, Ready s a f (legal f) (uses f) i → ∃ t, exec (c a f) s = .next t ∧
    (∀ l ∈ i.active, (t.groupAt a).regs' l f.dst.toNat (n f) = v s i f l % 2 ^ (32 * n f)) ∧
    OnlyNamed s t a i (regList f.dst (n f)) [] ∧ PcsGo s t a i (fun _ => i.at_.pc + 8) ∧ GroupOnly s t a

/-- The instructions that write predicates ps of DST's kind: predicate p of each active thread takes v, p7 stays true, and
nothing else changes. -/
def WritesPreds (c : GroupAt → Fields → Instr) (legal : Fields → Nat → Bool) (uses : Fields → List Nat) (ps : Fields → List Nat)
    (v : State → Issue → Fields → Nat → Nat → Bool) : Prop :=
  ∀ a f s i, Ready s a f (legal f) (uses f) i → ∃ t, exec (c a f) s = .next t ∧
    (∀ l ∈ i.active, ∀ p ∈ ps f, (t.groupAt a).pred l p = (decide (p = 7) || v s i f l p)) ∧
    OnlyNamed s t a i [] (ps f) ∧ PcsGo s t a i (fun _ => i.at_.pc + 8) ∧ GroupOnly s t a

/-- The exact value of a source of an instruction of INT: n is 1 to 3. -/
def intSrc (i : Issue) (f : Fields) (l n : Nat) : Int :=
  intVal f.itype (i.group.intOp l (if n = 1 then f.src1 else if n = 2 then f.src2 else f.src3) f.itype)

/-- An integer result v of an ITYPE as its registers hold it: narrow results extended over the register (Table 4.3). -/
def intFill (f : Fields) (v : Nat) : Nat := if intWidth f.itype = 64 then v else wrap (intVal f.itype v) 32

end Sys2Proof.Machine

section

open Sys2Proof Sys2Proof.Machine

/-! ## The block -/

/-- The model's own step (log 1): the command at the front of the queue is taken, and its effect is exec's on the rest of the
queue; where none waits, 10 ns pass. -/
def Obligations.StepRunsTheFrontCommand : Prop :=
  (∀ (s : State) (c : Instr) (cs : List Instr), s.pending = c :: cs → step s = exec c { s with pending := cs }) ∧
  (∀ s : State, s.pending = [] → step s = .next s.tick)

/-! ## Instructions of the compute core -/

/-- R120, R145, Table 4.6: integer arithmetic on exact values of the sources at ITYPE's width, narrowed once, for every ITYPE. -/
def Obligations.IntegerArithmeticWritesItsResult : Prop :=
  let two := fun (c : GroupAt → Fields → Instr) (md : IntMod) (v : Fields → Int → Int → Int) =>
    WritesRegs c (fun f => intLegal f md 2) (fun f => intUses f 2) (fun f => intRegs f.itype) fun _ i f l =>
      intFill f (narrow f.itype (decide (md = .sat) && f.sat) (v f (intSrc i f l 1) (intSrc i f l 2)))
  let one := fun (c : GroupAt → Fields → Instr) (v : Fields → Nat → Nat) =>
    WritesRegs c (fun f => intLegal f .plain 1) (fun f => intUses f 1) (fun f => intRegs f.itype) fun _ i f l =>
      intFill f (v f (i.group.intOp l f.src1 f.itype))
  two .iadd .sat (fun _ x y => x + y) ∧ two .isub .sat (fun _ x y => x - y) ∧ two .imul .plain (fun _ x y => x * y) ∧
  two .imulhi .plain (fun f x y => x * y / 2 ^ intWidth f.itype) ∧
  two .imin .plain (fun _ x y => min x y) ∧ two .imax .plain (fun _ x y => max x y) ∧
  WritesRegs .imad (fun f => intLegal f .sat 3) (fun f => intUses f 3) (fun f => intRegs f.itype) (fun _ i f l =>
    intFill f (narrow f.itype f.sat
      (intVal f.itype (wrap (intSrc i f l 1 * intSrc i f l 2) (intWidth f.itype)) + intSrc i f l 3))) ∧
  one .iabs (fun f x => wrap (intVal f.itype x).natAbs (intWidth f.itype)) ∧ one .mov (fun _ x => x) ∧
  one .popc (fun f x => countOnes (intWidth f.itype) x) ∧ one .clz (fun f x => leadingZeros (intWidth f.itype) x) ∧
  one .brev (fun f x => bitReverse (intWidth f.itype) x)

/-- R120, R121, Table 4.6, Table 4.15: logic, shifts, bit fields, selection, immediates and the wide instructions. -/
def Obligations.LogicAndBitFieldsWriteTheirResult : Prop :=
  let logic := fun (c : GroupAt → Fields → Instr) (v : BitVec 32 → BitVec 32 → BitVec 32) =>
    WritesRegs c (fun f a => f.intModOk .none && regOk a f.dst 1 && regOk a f.src1 1 && regOk a f.src2 1 && regOk a f.src3 0)
      (fun f => intUses f 2) (fun _ => 1) fun _ i f l => (v (i.group.reg l f.src1.toNat) (i.group.reg l f.src2.toNat)).toNat
  let shift := fun (c : GroupAt → Fields → Instr) (v : Nat → Nat → Nat → Nat) =>
    WritesRegs c (fun f a => f.intModOk .plain && regOk a f.dst (intRegs f.itype) && regOk a f.src1 (intRegs f.itype) &&
        regOk a f.src2 1 && regOk a f.src3 0) (fun f => intUses f 1 ++ [f.src2.toNat]) (fun f => intRegs f.itype) fun _ i f l =>
      intFill f (v f.itype (i.group.intOp l f.src1 f.itype) ((i.group.reg l f.src2.toNat).toNat % intWidth f.itype))
  logic .and (· &&& ·) ∧ logic .or (· ||| ·) ∧ logic .xor (· ^^^ ·) ∧
  WritesRegs .not (fun f a => f.intModOk .none && regOk a f.dst 1 && regOk a f.src1 1 && regOk a f.src2 0 && regOk a f.src3 0)
    (fun f => intUses f 1) (fun _ => 1) (fun _ i f l => 2 ^ 32 - 1 - (i.group.reg l f.src1.toNat).toNat) ∧
  shift .shl (fun k x n => x * 2 ^ n % 2 ^ intWidth k) ∧ shift .shr (fun k x n => wrap (intVal k x / 2 ^ n) (intWidth k)) ∧
  WritesRegs .bfe (fun f a => f.intModOk .plain && regOk a f.dst (intRegs f.itype) && regOk a f.src1 (intRegs f.itype) &&
      regOk a f.src2 1 && regOk a f.src3 0) (fun f => intUses f 1 ++ [f.src2.toNat]) (fun f => intRegs f.itype) (fun _ i f l =>
    intFill f (bitExtract f.itype (i.group.intOp l f.src1 f.itype) (fld (i.group.reg l f.src2.toNat) 0 8)
      (fld (i.group.reg l f.src2.toNat) 8 8))) ∧
  WritesRegs .bfi (fun f a => f.intModOk .plain && regOk a f.dst (intRegs f.itype) && regOk a f.src1 (intRegs f.itype) &&
      regOk a f.src2 (intRegs f.itype) && regOk a f.src3 1) (fun f => intUses f 2 ++ [f.src3.toNat]) (fun f => intRegs f.itype)
    (fun _ i f l => intFill f (bitInsert f.itype (i.group.intOp l f.src1 f.itype) (i.group.intOp l f.src2 f.itype)
      (fld (i.group.reg l f.src3.toNat) 0 8) (fld (i.group.reg l f.src3.toNat) 8 8))) ∧
  WritesRegs .sel (fun f a => f.intModOk .plain && regOk a f.dst (intRegs f.itype) && regOk a f.src1 (intRegs f.itype) &&
      regOk a f.src2 (intRegs f.itype) && predOk f.src3) (fun f => intUses f 2) (fun f => intRegs f.itype) (fun _ i f l =>
    intFill f (i.group.intOp l (if i.group.pred l f.src3.toNat then f.src1 else f.src2) f.itype)) ∧
  (∀ op : BitVec 6, op.toNat ≠ 0x13 → WritesRegs (fun a f => .inti a op f) (fun f => intiLegal op.toNat f)
    (fun f => regList f.src1 (intRegs f.itype) ++ regList f.dst (intRegs f.itype)) (fun f => intRegs f.itype) fun _ i f l =>
      intFill f (intiValue op.toNat f (i.group.intOp l f.src1 f.itype) (intiSource op.toNat f))) ∧
  WritesRegs .psave (fun f a => f.intModOk .none && regOk a f.dst 1 && regOk a f.src1 0 && regOk a f.src2 0 && regOk a f.src3 0)
    (fun f => regList f.dst 1) (fun _ => 1) (fun _ i _ l => (i.group.thread l).preds.toNat) ∧
  WritesRegs .movi (fun f a => regOk a f.dst 1 && regOk a f.src1 0) (fun f => regList f.dst 1) (fun _ => 1) (fun _ _ f _ => f.imm32) ∧
  WritesRegs .iaddw (fun f a => regOk a f.dst 1 && regOk a f.src1 1) (fun f => regList f.dst 1 ++ regList f.src1 1) (fun _ => 1)
    (fun _ i f l => (i.group.reg l f.src1.toNat).toNat + f.imm32) ∧
  WritesRegs .adrpc (fun f a => regOk a f.dst 2 && regOk a f.src1 0) (fun f => regList f.dst 2) (fun _ => 2)
    (fun _ i f _ => (i.at_.pc + BitVec.ofInt 64 (sgn f.imm32 32)).toNat)

/-- R120 to R122, R109, R118, Table 4.5 to Table 4.7: the instructions that write predicates, and NOP, which writes nothing. -/
def Obligations.PredicateInstructionsWriteTheirPredicate : Prop :=
  WritesPreds .icmp (fun f a => f.intModOk .cond && predOk f.dst && regOk a f.src1 (intRegs f.itype) &&
      regOk a f.src2 (intRegs f.itype) && regOk a f.src3 0)
    (fun f => regList f.src1 (intRegs f.itype) ++ regList f.src2 (intRegs f.itype)) (fun f => [f.dst.toNat])
    (fun _ i f l _ => icmpHolds (f.m 4 4) (intSrc i f l 1) (intSrc i f l 2)) ∧
  WritesPreds (fun a f => .inti a 0x13 f) (fun f => intiLegal 0x13 f) (fun f => regList f.src1 (intRegs f.itype))
    (fun f => [f.dst.toNat])
    (fun _ i f l _ => icmpHolds (f.m 4 4) (intSrc i f l 1) (intVal f.itype (wrap (sgn f.imm16 16) (intWidth f.itype)))) ∧
  WritesPreds .plop (fun f _ => f.m 8 8 = 0 && predOk f.dst && predOk f.src1 && predOk f.src2 && predOk f.src3) (fun _ => [])
    (fun f => [f.dst.toNat]) (fun _ i f l _ => plopBit (f.m 0 8) (i.group.pred l f.src1.toNat) (i.group.pred l f.src2.toNat)
      (i.group.pred l f.src3.toNat)) ∧
  WritesPreds .pload (fun f a => f.intModOk .none && regOk a f.dst 0 && regOk a f.src1 1 && regOk a f.src2 0 && regOk a f.src3 0)
    (fun f => regList f.src1 1) (fun _ => List.range 7) (fun _ i f l p => (i.group.reg l f.src1.toNat).getLsbD p) ∧
  WritesPreds .fcmp (fun f a => decide (f.ftype ≤ 3) && decide (f.m 4 4 ≤ 7) && f.m 10 1 = 0 && f.m 13 3 = 0 && predOk f.dst &&
      regOk a f.src1 f.fmt.regs && regOk a f.src2 f.fmt.regs && regOk a f.src3 0)
    (fun f => regList f.src1 f.fmt.regs ++ regList f.src2 f.fmt.regs) (fun f => [f.dst.toNat])
    (fun _ i f l _ => f.fmt.cmp (f.m 4 4) (i.group.fpOp l f 1) (i.group.fpOp l f 2)) ∧
  WritesPreds .tpoll (fun f a => f.mod = 0 && f.imm16 = 0 && predOk f.dst && regOk a f.src1 1) (fun f => [f.src1.toNat])
    (fun f => [f.dst.toNat]) (fun s i f l _ => (s.core i.at_.core).tokenDone i.at_.block (i.group.reg l f.src1.toNat)) ∧
  WritesPreds (fun a f => .nop a ⟨f, 0⟩) (fun f _ => f.dst = 0 && f.src1 = 0 && f.src2 = 0 && f.src3 = 0 && f.mod = 0) (fun _ => []) (fun _ => [])
    (fun _ _ _ _ _ => true)

/-- R122, R140, R143, R144, Table 4.7, Table 4.8: floating-point instructions write what the arithmetic of their format gives for
their modified sources. -/
def Obligations.FloatingPointWritesItsResult : Prop :=
  let two := fun (c : GroupAt → Fields → Instr) (rounds : Bool) (v : Fields → Nat → Nat → Nat) =>
    WritesRegs c (fun f => fpLegal f rounds 2) (fun f => fpUses f 2) (fun f => f.fmt.regs) fun _ i f l =>
      v f (i.group.fpOp l f 1) (i.group.fpOp l f 2)
  let sf := fun (c : GroupAt → Fields → Instr) (v : Fmt → Nat → Nat) =>
    WritesRegs c (fun f a => decide (1 ≤ f.ftype) && fpLegal f false 1 a) (fun f => fpUses f 1) (fun _ => 1) fun _ i f l =>
      v f.fmt (i.group.fpOp l f 1)
  two .fadd true (fun f x y => f.fmt.add f.rnd f.ovf x y) ∧ two .fsub true (fun f x y => f.fmt.sub f.rnd f.ovf x y) ∧
  two .fmul true (fun f x y => f.fmt.mul f.rnd f.ovf x y) ∧
  WritesRegs .ffma (fun f => fpLegal f true 3) (fun f => fpUses f 3) (fun f => f.fmt.regs) (fun _ i f l =>
    f.fmt.fma f.rnd f.ovf (i.group.fpOp l f 1) (i.group.fpOp l f 2) (i.group.fpOp l f 3)) ∧
  two .fmin false (fun f x y => f.fmt.minimum x y) ∧ two .fmax false (fun f x y => f.fmt.maximum x y) ∧
  two .fminnum false (fun f x y => f.fmt.minNum x y) ∧ two .fmaxnum false (fun f x y => f.fmt.maxNum x y) ∧
  WritesRegs .fclass (fun f a => f.fpModOk false 1 && regOk a f.dst 1 && regOk a f.src1 f.fmt.regs && regOk a f.src2 0 &&
      regOk a f.src3 0) (fun f => regList f.dst 1 ++ regList f.src1 f.fmt.regs) (fun _ => 1)
    (fun _ i f l => f.fmt.classMask (i.group.fpOp l f 1)) ∧
  sf .rcp Fmt.rcp ∧ sf .sqrt Fmt.sqrt ∧ sf .rsq Fmt.rsq ∧ sf .ex2 Fmt.ex2 ∧ sf .lg2 Fmt.lg2 ∧ sf .sin Fmt.sin ∧ sf .cos Fmt.cos

/-- R123, R131, R146 to R148, Table 4.9, Table 4.16: conversions, and the special registers. -/
def Obligations.ConversionsAndSpecialRegistersWriteTheirResult : Prop :=
  WritesRegs .cvtFf (fun f => cvtLegal f (cvtCode (f.m 0 4) && cvtCode (f.m 4 4)) (codeFmt (f.m 0 4)).regs (codeFmt (f.m 4 4)).regs)
    (fun f => regList f.dst (codeFmt (f.m 0 4)).regs ++ regList f.src1 (codeFmt (f.m 4 4)).regs) (fun f => (codeFmt (f.m 0 4)).regs)
    (fun _ i f l => convert (codeFmt (f.m 0 4)) (codeFmt (f.m 4 4)) (f.m 8 3) (f.m 11 1 = 1)
      (i.group.regs' l f.src1.toNat (codeFmt (f.m 4 4)).regs)) ∧
  WritesRegs .cvtFi (fun f => cvtLegal f (f.m 3 1 = 0 && f.m 11 1 = 0 && cvtCode (f.m 4 4)) (intRegs (f.m 0 3)) (codeFmt (f.m 4 4)).regs)
    (fun f => regList f.dst (intRegs (f.m 0 3)) ++ regList f.src1 (codeFmt (f.m 4 4)).regs) (fun f => intRegs (f.m 0 3))
    (fun _ i f l => intFill f (toInt (codeFmt (f.m 4 4)) f.itype (f.m 8 3) (i.group.regs' l f.src1.toNat (codeFmt (f.m 4 4)).regs))) ∧
  WritesRegs .cvtIf (fun f => cvtLegal f (f.m 7 1 = 0 && cvtCode (f.m 0 4)) (codeFmt (f.m 0 4)).regs (intRegs (f.m 4 3)))
    (fun f => regList f.dst (codeFmt (f.m 0 4)).regs ++ regList f.src1 (intRegs (f.m 4 3))) (fun f => (codeFmt (f.m 0 4)).regs)
    (fun _ i f l => ofInt (codeFmt (f.m 0 4)) (f.m 4 3) (f.m 8 3) (f.m 11 1 = 1) (i.group.regs' l f.src1.toNat (intRegs (f.m 4 3)))) ∧
  WritesRegs .srd (fun f a => f.mod = 0 && f.src1 = 0 && decide (f.imm16 < 256) && (sregRegs f.imm16).isSome &&
      regOk a f.dst ((sregRegs f.imm16).getD 1)) (fun f => regList f.dst ((sregRegs f.imm16).getD 1)) (fun f => (sregRegs f.imm16).getD 1)
    (fun s i f l => (s.issued i).sreg { i with group := i.group.noteIssue i.at_.pc i.lanes } f.imm16 l)

end
namespace Sys2Proof.Machine

/-- The class, the opcode and the fields of an instruction of the compute core, and the group that issues it (Table 4.4, Tables 4.5 to
4.16). -/
def instrWord : Instr → Option (GroupAt × Nat × Nat × Fields)
  | .nop g ⟨f, h⟩ => if h = 0 ∨ (rowOf (fld h 0 4) (fld h 4 6)).isNone then some (g, fld h 0 4, fld h 4 6, f) else none
  | .bra g f => some (g, 0, 1, f) | .call g f => some (g, 0, 2, f) | .jmp g f => some (g, 0, 3, f)
  | .callr g f => some (g, 0, 4, f) | .exit g f => some (g, 0, 5, f) | .yield g f => some (g, 0, 6, f) | .trap g f => some (g, 0, 7, f)
  | .iadd g f => some (g, 1, 0, f) | .isub g f => some (g, 1, 1, f) | .imul g f => some (g, 1, 2, f) | .imulhi g f => some (g, 1, 3, f)
  | .imad g f => some (g, 1, 4, f) | .imin g f => some (g, 1, 5, f) | .imax g f => some (g, 1, 6, f) | .iabs g f => some (g, 1, 7, f)
  | .and g f => some (g, 1, 8, f) | .or g f => some (g, 1, 9, f) | .xor g f => some (g, 1, 10, f) | .not g f => some (g, 1, 11, f)
  | .shl g f => some (g, 1, 12, f) | .shr g f => some (g, 1, 13, f) | .popc g f => some (g, 1, 14, f) | .clz g f => some (g, 1, 15, f)
  | .brev g f => some (g, 1, 16, f) | .bfe g f => some (g, 1, 17, f) | .bfi g f => some (g, 1, 18, f) | .icmp g f => some (g, 1, 19, f)
  | .sel g f => some (g, 1, 20, f) | .mov g f => some (g, 1, 21, f) | .plop g f => some (g, 1, 22, f) | .psave g f => some (g, 1, 23, f)
  | .pload g f => some (g, 1, 24, f) | .inti g op f => some (g, 2, op.toNat, f)
  | .fadd g f => some (g, 3, 0, f) | .fsub g f => some (g, 3, 1, f) | .fmul g f => some (g, 3, 2, f) | .ffma g f => some (g, 3, 3, f)
  | .fmin g f => some (g, 3, 4, f) | .fmax g f => some (g, 3, 5, f) | .fminnum g f => some (g, 3, 6, f) | .fmaxnum g f => some (g, 3, 7, f)
  | .fcmp g f => some (g, 3, 8, f) | .fclass g f => some (g, 3, 9, f)
  | .rcp g f => some (g, 4, 0, f) | .sqrt g f => some (g, 4, 1, f) | .rsq g f => some (g, 4, 2, f) | .ex2 g f => some (g, 4, 3, f)
  | .lg2 g f => some (g, 4, 4, f) | .sin g f => some (g, 4, 5, f) | .cos g f => some (g, 4, 6, f)
  | .cvtFf g f => some (g, 5, 0, f) | .cvtFi g f => some (g, 5, 1, f) | .cvtIf g f => some (g, 5, 2, f)
  | .ld g op f => some (g, 6, op.toNat, f) | .st g op f => some (g, 7, op.toNat, f)
  | .atomAdd g f => some (g, 8, 0, f) | .atomMin g f => some (g, 8, 1, f) | .atomMax g f => some (g, 8, 2, f)
  | .atomAnd g f => some (g, 8, 3, f) | .atomOr g f => some (g, 8, 4, f) | .atomXor g f => some (g, 8, 5, f)
  | .atomExch g f => some (g, 8, 6, f) | .atomCas g f => some (g, 8, 7, f)
  | .rrd g z f => some (g, 9, z.toNat, f) | .rwr g z f => some (g, 9, 8 + z.toNat, f) | .ratom g z f => some (g, 9, 16 + z.toNat, f)
  | .rmsg g z f => some (g, 9, 24 + z.toNat, f)
  | .voteAll g f => some (g, 10, 0, f) | .voteAny g f => some (g, 10, 1, f) | .ballot g f => some (g, 10, 2, f)
  | .shflIdx g f => some (g, 10, 3, f) | .shflUp g f => some (g, 10, 4, f) | .shflDown g f => some (g, 10, 5, f)
  | .shflXor g f => some (g, 10, 6, f) | .gred g f => some (g, 10, 7, f)
  | .barBlock g f => some (g, 11, 0, f) | .barTeam g f => some (g, 11, 1, f) | .fence g f => some (g, 11, 2, f)
  | .twait g f => some (g, 11, 3, f) | .tpoll g f => some (g, 11, 4, f)
  | .mma g f => some (g, 12, 0, f) | .tile g f => some (g, 12, 1, f) | .srd g f => some (g, 13, 0, f)
  | .movi g f => some (g, 14, 0, f) | .iaddw g f => some (g, 14, 1, f) | .adrpc g f => some (g, 14, 2, f)
  | _ => none

/-- The instructions of class ATOM, by opcode. -/
def atomOf : Fin 8 → GroupAt → Fields → Instr
  | 0 => .atomAdd | 1 => .atomMin | 2 => .atomMax | 3 => .atomAnd | 4 => .atomOr | 5 => .atomXor | 6 => .atomExch | 7 => .atomCas

/-- The instructions of class GRP, by opcode. -/
def groupOf : Fin 8 → GroupAt → Fields → Instr
  | 0 => .voteAll | 1 => .voteAny | 2 => .ballot | 3 => .shflIdx | 4 => .shflUp | 5 => .shflDown | 6 => .shflXor | 7 => .gred

/-- What a group operation writes (Table 4.12): registers from DST, or predicate DST. -/
def groupLegal (op : Nat) (f : Fields) (a : Nat) : Bool :=
  let w := if f.m 0 1 = 1 then 2 else 1
  let r := atypeRegs f.atype
  if op ≤ 1 then f.mod = 0 && predOk f.dst && predOk f.src1 && f.src2 = 0
  else if op = 2 then f.mod = 0 && regOk a f.dst 1 && predOk f.src1 && f.src2 = 0
  else if op ≤ 6 then f.m 1 15 = 0 && regOk a f.dst w && regOk a f.src1 w && regOk a f.src2 1
  else f.m 7 9 = 0 && decide (f.atype < 8) && decide (f.m 4 3 ≤ 5) && (decide (f.atype < 4) || decide (f.m 4 3 < 3)) &&
    regOk a f.dst r && regOk a f.src1 r && f.src2 = 0

/-- The registers that a group operation reads or writes, but for its mask. -/
def groupUses (op : Nat) (f : Fields) : List Nat :=
  let w := if f.m 0 1 = 1 then 2 else 1
  let r := atypeRegs f.atype
  if op ≤ 1 then [] else if op = 2 then regList f.dst 1
  else if op ≤ 6 then regList f.dst w ++ regList f.src1 w ++ [f.src2.toNat] else regList f.dst r ++ regList f.src1 r

/-- A thread's access of n bytes at a lies in its own block's local memory, at offset x (R43, R99). -/
def OwnLocal (b : Block) (a n x : Nat) : Prop :=
  inAperture b a = true ∧ (a - b.aperture.toNat) / 0x80000 = b.member ∧ b.member < b.teamBlocks ∧
  (a - b.aperture.toNat) % 0x80000 = x ∧ x + n ≤ b.localBytes

/-- No group operation of a block gathers its threads. -/
def NoGather (b : Block) : Prop := ∀ g ∈ b.groups, g.2.gathers = []

/-- Of a block's live threads, those that waited at w, and those of also, wait for nothing and go to their next instruction; every other
thread waits where it did. -/
def Released (s t : State) (c b : Nat) (w : WaitFor) (also : Nat → Nat → Prop) : Prop :=
  ∀ h l, l ∈ ((s.block c b).group h).live →
    ((((s.block c b).group h).thread l).wait = w ∨ also h l → (((t.block c b).group h).thread l).wait = .none ∧
      (((t.block c b).group h).thread l).pc = (((s.block c b).group h).thread l).pc + 8) ∧
    (¬ ((((s.block c b).group h).thread l).wait = w ∨ also h l) →
      (((t.block c b).group h).thread l).wait = (((s.block c b).group h).thread l).wait ∧
      (((t.block c b).group h).thread l).pc = (((s.block c b).group h).thread l).pc)

/-- The instruction's block begins to terminate with cause and detail, and none of its threads moves (R96, R97). -/
def FaultsWith (s t : State) (a : GroupAt) (i : Issue) (cause detail : Nat) : Prop :=
  (t.block a.core.val a.block.val).phase = .terminating (BitVec.ofNat 8 cause) (s.coreCycles a.core.val) ∧
  (t.block a.core.val a.block.val).fault = some (BitVec.ofNat 320 (blockFaultPayload i.at_ i.block cause detail))

end Sys2Proof.Machine

section

open Sys2Proof Sys2Proof.Machine

/-- R114, R96, Table 3.8: an instruction whose reserved bits are not zero, or whose class or opcode is unassigned, raises
ILLEGAL_INSTRUCTION, whatever its guards, with the word as the detail.

R488: MOV of a register that holds a double-bit error raises DATA_POISON, and the error is met once; where the errors are single ones,
it is issued on corrected registers. -/
def Obligations.ReservedBitsRaiseIllegalInstruction : Prop :=
  (∀ c s a cls op f i, instrWord c = some (a, cls, op, f) → s.issueOf a f = some i → f.rsv ≠ 0 →
    ∃ t, exec c s = .next t ∧ FaultsWith s t a i 0x08 (wordOf cls op f)) ∧
  (∀ a h f s i, h ≠ 0 → (rowOf (fld h 0 4) (fld h 4 6)).isNone → s.issueOf a f = some i →
    ∃ t, exec (.nop a ⟨f, h⟩) s = .next t ∧ FaultsWith s t a i 0x08 (wordOf (fld h 0 4) (fld h 4 6) f)) ∧
  (∀ a f s i, s.issueOf a f = some i → f.rsv = 0 → intLegal f .plain 1 i.block.alloc = true → (∀ r ∈ intUses f 1, r ∉ i.group.pending) →
    (s.core a.core.val).unread a.block.val a.group.val = false → i.block.phase = .running →
    (∀ u ∈ s.upsets, u.mem = .regFile → u.unit = a.core.val → u.double = true) →
    (∃ u ∈ s.upsets, u.mem = .regFile ∧ u.unit = a.core.val ∧
      (∃ l ∈ i.active, u.word / 256 = (a.block.val * 32 + a.group.val) * 32 + l) ∧ u.word % 256 ∈ regList f.src1 (intRegs f.itype)) →
    ∃ t d, exec (.mov a f) s = .next t ∧ FaultsWith s t a i 0x0C d ∧
      t.upsets = s.upsets.filter (fun u => !(decide (u.mem = .regFile) && decide (u.unit = a.core.val) &&
        i.active.any (fun l => decide (u.word / 256 = (a.block.val * 32 + a.group.val) * 32 + l)) &&
        (regList f.src1 (intRegs f.itype)).contains (u.word % 256)))) ∧
  (∀ a f s i u, s.issueOf a f = some i → f.rsv = 0 → intLegal f .plain 1 i.block.alloc = true →
    (∀ r ∈ intUses f 1, r ∉ i.group.pending) → (s.core a.core.val).unread a.block.val a.group.val = false →
    s.upsets = [u] → u.mem = .regFile → u.unit = a.core.val → u.double = false → i.active ≠ [] →
    (∃ l ∈ i.active, u.word / 256 = (a.block.val * 32 + a.group.val) * 32 + l) → u.word % 256 ∈ regList f.src1 (intRegs f.itype) →
    ∃ t, exec (.mov a f) s = .next t ∧ t.upsets = [] ∧
      (∀ l ∈ i.active, (t.groupAt a).regs' l f.dst.toNat (intRegs f.itype) =
        intFill f (i.group.intOp l f.src1 f.itype) % 2 ^ (32 * intRegs f.itype)) ∧
      OnlyNamed s t a i (regList f.dst (intRegs f.itype)) [] ∧ PcsGo s t a i (fun _ => i.at_.pc + 8) ∧
      (t.core a.core.val).corrected = ((s.core a.core.val).corrected.filter fun n => s.ticks < n + dayTicks) ++ [s.ticks])

/-- R119, Table 4.5: BRA, CALL, JMP and CALLR: active threads go to the target and the others to the next instruction; CALL and
CALLR write the return address to the DST pair; a misaligned register target is MISALIGNED. -/
def Obligations.ControlFlowTakesItsTargets : Prop :=
  (∀ a f s i, Ready s a f (fun _ => f.dst = 0 && f.src1 = 0) [] i → ∃ t, exec (.bra a f) s = .next t ∧
    PcsGo s t a i (fun l => if l ∈ i.active then i.at_.pc + BitVec.ofInt 64 (8 * sgn f.imm32 32) else i.at_.pc + 8) ∧
    OnlyNamed s t a i [] [] ∧ GroupOnly s t a) ∧
  (∀ a f s i, Ready s a f (fun n => regOk n f.dst 2 && f.src1 = 0) (regList f.dst 2) i → ∃ t, exec (.call a f) s = .next t ∧
    PcsGo s t a i (fun l => if l ∈ i.active then i.at_.pc + BitVec.ofInt 64 (8 * sgn f.imm32 32) else i.at_.pc + 8) ∧
    (∀ l ∈ i.active, (t.groupAt a).pair l f.dst.toNat = i.at_.pc + 8) ∧ OnlyNamed s t a i (regList f.dst 2) [] ∧ GroupOnly s t a) ∧
  (∀ a f s i, Ready s a f (fun n => f.dst = 0 && regOk n f.src1 2 && f.src2 = 0 && f.src3 = 0 && f.mod = 0) (regList f.src1 2) i →
    ((∀ l ∈ i.active, (i.group.pair l f.src1.toNat).toNat % 8 = 0) → ∃ t, exec (.jmp a f) s = .next t ∧
      PcsGo s t a i (fun l => if l ∈ i.active then i.group.pair l f.src1.toNat else i.at_.pc + 8) ∧
      OnlyNamed s t a i [] [] ∧ GroupOnly s t a) ∧
    (∀ l ∈ i.active, (∀ m ∈ i.active, m < l → (i.group.pair m f.src1.toNat).toNat % 8 = 0) →
      (i.group.pair l f.src1.toNat).toNat % 8 ≠ 0 → ∃ t, exec (.jmp a f) s = .next t ∧
      FaultsWith s t a i 0x07 (i.group.pair l f.src1.toNat).toNat)) ∧
  (∀ a f s i, Ready s a f (fun n => regOk n f.dst 2 && regOk n f.src1 2 && f.src2 = 0 && f.src3 = 0 && f.mod = 0)
    (regList f.dst 2 ++ regList f.src1 2) i →
    ((∀ l ∈ i.active, (i.group.pair l f.src1.toNat).toNat % 8 = 0) → ∃ t, exec (.callr a f) s = .next t ∧
      PcsGo s t a i (fun l => if l ∈ i.active then i.group.pair l f.src1.toNat else i.at_.pc + 8) ∧
      (∀ l ∈ i.active, (t.groupAt a).pair l f.dst.toNat = i.at_.pc + 8) ∧ OnlyNamed s t a i (regList f.dst 2) [] ∧ GroupOnly s t a) ∧
    (∀ l ∈ i.active, (∀ m ∈ i.active, m < l → (i.group.pair m f.src1.toNat).toNat % 8 = 0) →
      (i.group.pair l f.src1.toNat).toNat % 8 ≠ 0 → ∃ t, exec (.callr a f) s = .next t ∧
      FaultsWith s t a i 0x07 (i.group.pair l f.src1.toNat).toNat))

/-- R49, R86, R96, R118, Table 4.5: EXIT ends the active threads, YIELD holds them until the other eligible subsets have issued, and
TRAP raises SOFTWARE_TRAP with its immediate; with no active thread each only goes on. -/
def Obligations.ExitYieldAndTrapTakeEffect : Prop :=
  (∀ a f s i, Ready s a f (fun _ => f.dst = 0 && f.src1 = 0 && f.src2 = 0 && f.src3 = 0 && f.mod = 0) [] i →
    (∀ g ∈ i.block.groups, g.2.gathers = []) → (∀ k, (kget {} i.block.bars k).open_ = false) →
    (∀ k, (kget {} (kget {} s.teams i.block.team).bars k).open_ = false) →
    ∃ t, exec (.exit a f) s = .next t ∧
      (∀ l ∈ i.active, ((t.groupAt a).thread l).exited = true) ∧
      (∀ l, l ∉ i.active → ((t.groupAt a).thread l).exited = ((s.groupAt a).thread l).exited) ∧
      OnlyNamed s t a i [] [] ∧ PcsGo s t a i (fun l => if l ∈ i.active then i.at_.pc else i.at_.pc + 8) ∧ CoreOnly s t a.core.val) ∧
  (∀ a f s i, Ready s a f (fun _ => f.dst = 0 && f.src1 = 0 && f.src2 = 0 && f.src3 = 0 && f.mod = 0) [] i →
    ∃ t, exec (.yield a f) s = .next t ∧ PcsGo s t a i (fun _ => i.at_.pc + 8) ∧ OnlyNamed s t a i [] [] ∧ GroupOnly s t a ∧
      ((i.active ≠ [] ∧ ∃ p ∈ i.group.eligible, p ≠ i.at_.pc) → ∀ l ∈ i.active, (t.groupAt a).isHeld l = true)) ∧
  (∀ a f s i, Ready s a f (fun _ => f.dst = 0 && f.src1 = 0 && f.mod = 0) [] i →
    (i.active ≠ [] → ∃ t, exec (.trap a f) s = .next t ∧ FaultsWith s t a i 0x0D f.imm16) ∧
    (i.active = [] → ∃ t, exec (.trap a f) s = .next t ∧ PcsGo s t a i (fun _ => i.at_.pc + 8) ∧ OnlyNamed s t a i [] [] ∧
      GroupOnly s t a))

/-- R43, R99, R124, R125: LD from the block's own local memory: each active thread receives the bytes at its effective address, a
narrow value extended over the register; nothing is stored.

R43, R59, R99, R124, R125: ST to the block's own local memory: the bytes at each active thread's effective address take its
data, the highest lane's where they overlap; every other byte and every register stays. -/
def Obligations.LocalMemoryIsReadAndWritten : Prop :=
  (
  ∀ a op f s i (x : Nat → Nat), let n := 2 ^ (op.toNat % 8); let k := s.core a.core.val
    Ready s a f (fun m => decide (op.toNat % 8 ≤ 4) && decide (op.toNat < 16) && (!bit op 3 || decide (op.toNat % 8 ≤ 1)) &&
      orderOk f [0, 1] && regOk m f.dst (sizeRegs n) && regOk m f.src1 2 && regOk m f.src2 0 && regOk m f.src3 0)
      (regList f.dst (sizeRegs n) ++ regList f.src1 2) i →
    s.acquireWaits i.at_ = false →
    (∀ l ∈ i.active, OwnLocal i.block (effAddr i.group f l) n (x l) ∧ k.localPoison i.block (x l) n = none ∧
      s.localSound a.core.val (i.block.localBase + x l) n ∧ (f.m 12 2 = 1 → effAddr i.group f l % n = 0)) →
    ∃ t, exec (.ld a op f) s = .next t ∧
      (∀ l ∈ i.active, (t.groupAt a).regs' l f.dst.toNat (sizeRegs n) =
        (if bit op 3 then wrap (sgn (cellsRead k.lmem (i.block.localBase + x l) n) (8 * n)) 32
         else cellsRead k.lmem (i.block.localBase + x l) n)) ∧
      OnlyNamed s t a i (regList f.dst (sizeRegs n)) [] ∧ PcsGo s t a i (fun _ => i.at_.pc + 8) ∧ GroupOnly s t a) ∧
  (
  ∀ a op f s i (x : Nat → Nat), let n := 2 ^ op.toNat; let k := s.core a.core.val
    Ready s a f (fun m => decide (op.toNat ≤ 4) && orderOk f [0, 2] && regOk m f.src2 (sizeRegs n) && regOk m f.src1 2 &&
      regOk m f.dst 0 && regOk m f.src3 0) (regList f.src2 (sizeRegs n) ++ regList f.src1 2) i →
    Memory.wf k.lmem = true → s.acquireWaits i.at_ = false →
    (f.m 12 2 = 2 → s.releaseWaits i.at_ i.block (f.m 14 2) = false) →
    (∀ l ∈ i.active, OwnLocal i.block (effAddr i.group f l) n (x l) ∧ s.localSound a.core.val (i.block.localBase + x l) n ∧
      (f.m 12 2 = 2 → effAddr i.group f l % n = 0)) →
    ∃ t, exec (.st a op f) s = .next t ∧
      (∀ l ∈ i.active, ∀ j, j < n → (∀ m ∈ i.active, l < m → ¬ (x m ≤ x l + j ∧ x l + j < x m + n)) →
        (cellGet (t.core a.core.val).lmem (i.block.localBase + x l + j)).toNat =
          i.group.regs' l f.src2.toNat (sizeRegs n) / 256 ^ j % 256) ∧
      (∀ p, (∀ l ∈ i.active, ¬ (i.block.localBase + x l ≤ p ∧ p < i.block.localBase + x l + n)) →
        cellGet (t.core a.core.val).lmem p = cellGet k.lmem p) ∧
      OnlyNamed s t a i [] [] ∧ PcsGo s t a i (fun _ => i.at_.pc + 8) ∧ t.mem = s.mem ∧ t.caches = s.caches ∧
      ∀ c, c ≠ a.core.val → t.core c = s.core c)

/-- R57 to R59, R124, R226: LD from memory: where the threads' accesses lead to lines that are read without error and without poison,
each active thread receives the bytes of its pieces.

R57 to R59, R124, R226: ST to memory: where the threads' accesses lead to lines that are stored without error, the threads go on
and no register changes; the memory is what the stores, in order, leave. -/
def Obligations.LinesOfMemoryAreReadAndWritten : Prop :=
  (
  ∀ a op f s i s₁ ps s₂ ds, let n := 2 ^ (op.toNat % 8)
    Ready s a f (fun m => decide (op.toNat % 8 ≤ 4) && decide (op.toNat < 16) && (!bit op 3 || decide (op.toNat % 8 ≤ 1)) &&
      orderOk f [0, 1] && regOk m f.dst (sizeRegs n) && regOk m f.src1 2 && regOk m f.src2 0 && regOk m f.src3 0)
      (regList f.dst (sizeRegs n) ++ regList f.src1 2) i → s.acquireWaits i.at_ = false →
    (s.issued i).places a.core.val i.block n .load (f.m 12 2 = 1) (effAddr i.group f) i.active = (s₁, .ok ps) →
    s₁.fetchLines a.core.val i.block (memPieces ps) (linesOf (memPieces ps)) = (s₂, .ok ds) →
    (∀ r ∈ ownRanges n ps, s₂.localSound a.core.val (i.block.localBase + r.1) r.2) →
    (∀ p ∈ ps, placePoison (s₂.core a.core.val) i.block ds n p = none) →
    ∃ t, exec (.ld a op f) s = .next t ∧ t.mem = s₂.mem ∧
      ∀ l q, (l, Place.mem q) ∈ ps → (t.groupAt a).regs' l f.dst.toNat (sizeRegs n) =
        (if bit op 3 then wrap (sgn (pieceValue ds q) (8 * n)) 32 else pieceValue ds q) % 2 ^ (32 * sizeRegs n)) ∧
  (
  ∀ a op f s i s₁ ps s₂, let n := 2 ^ op.toNat
    Ready s a f (fun m => decide (op.toNat ≤ 4) && orderOk f [0, 2] && regOk m f.src2 (sizeRegs n) && regOk m f.src1 2 &&
      regOk m f.dst 0 && regOk m f.src3 0) (regList f.src2 (sizeRegs n) ++ regList f.src1 2) i → s.acquireWaits i.at_ = false →
    (f.m 12 2 = 2 → (s.issued i).releaseWaits i.at_ i.block (f.m 14 2) = false) →
    (s.issued i).places a.core.val i.block n .store (f.m 12 2 = 2) (effAddr i.group f) i.active = (s₁, .ok ps) →
    (∀ p ∈ ps, ∃ q, p.2 = .mem q) →
    s₁.storeAll a.core.val i.block (fun l => i.group.regs' l f.src2.toNat (sizeRegs n) % 256 ^ n)
      (batchesOf (memPieces ps)) = (s₂, .ok ()) →
    ∃ t, exec (.st a op f) s = .next t ∧ t.mem = s₂.mem ∧ t.caches = s₂.caches ∧ t.tiles = s₂.tiles ∧
      OnlyNamed s₂ t a i [] [] ∧ PcsGo s₂ t a i (fun l => ((s₂.groupAt a).thread l).pc + 8))

/-- R60, R126, R254, Table 4.11: an atomic without COMBINE whose updates are performed without error: the memory is what they leave,
in ascending address and lane order, and with RET each thread receives its old value.

R126, Table 4.11: what an atomic does to an operand: the old value goes to the thread and the new value to memory, for one thread
and its own local memory. -/
def Obligations.AtomicsUpdateAndReturnTheOldValue : Prop :=
  (
  ∀ (op : Fin 8) a f s i s₁ olds,
    Ready s a f (atomLegal op.val f) (atomUses op.val f) i → f.combine = false → s.acquireWaits i.at_ = false →
    (f.m 12 2 / 2 = 1 → (s.issued i).releaseWaits i.at_ i.block (f.m 14 2) = false) →
    (s.issued i).atomOn op.val f { i with group := i.group.noteIssue i.at_.pc i.lanes } i.active = (s₁, .ok olds) →
    ∃ t, exec (atomOf op a f) s = .next t ∧ t.mem = s₁.mem ∧ t.caches = s₁.caches ∧ (t.core a.core.val).lmem = (s₁.core a.core.val).lmem ∧
      PcsGo s₁ t a i (fun l => ((s₁.groupAt a).thread l).pc + 8) ∧
      (f.ret = true → ∀ x ∈ olds, (t.groupAt a).regs' x.1 f.dst.toNat (atypeRegs f.atype) = x.2) ∧
      OnlyNamed s₁ t a { i with active := if f.ret then olds.map (·.1) else [] } (regList f.dst (atypeRegs f.atype)) []) ∧
  (
  ∀ (op : Fin 8) a f s i l x, let n := atypeBytes f.atype; let w := atypeRegs f.atype; let k := s.core a.core.val
    let d := i.group.regs' l f.src2.toNat w % 256 ^ n; let d₂ := i.group.regs' l (f.src2.toNat + w) w % 256 ^ n
    let old := cellsRead k.lmem (i.block.localBase + x) n
    Ready s a f (atomLegal op.val f) (atomUses op.val f) i → f.combine = false → i.active = [l] →
    s.acquireWaits i.at_ = false → s.localSound a.core.val (i.block.localBase + x) n →
    (f.m 12 2 / 2 = 1 → s.releaseWaits i.at_ i.block (f.m 14 2) = false) →
    OwnLocal i.block (i.group.pair l f.src1.toNat).toNat n x → (i.group.pair l f.src1.toNat).toNat % n = 0 →
    k.localPoison i.block x n = none → Memory.wf k.lmem = true →
    ∃ t, exec (atomOf op a f) s = .next t ∧
      cellsRead (t.core a.core.val).lmem (i.block.localBase + x) n = atomNew op.val f.atype old d d₂ % 256 ^ n ∧
      (∀ p, ¬ (i.block.localBase + x ≤ p ∧ p < i.block.localBase + x + n) →
        cellGet (t.core a.core.val).lmem p = cellGet k.lmem p) ∧
      (f.ret = true → (t.groupAt a).regs' l f.dst.toNat w = old) ∧
      OnlyNamed s t a i (if f.ret then regList f.dst w else []) [] ∧ PcsGo s t a i (fun _ => i.at_.pc + 8) ∧ t.mem = s.mem)

/-- R49, R115, R128, R158, Table 4.12: a group operation that all live threads of its mask reach together gives each contributing
thread its result, and the threads go on. -/
def Obligations.GroupOperationsGiveEachThreadItsResult : Prop :=
  ∀ (op : Fin 8) a f s i, let m := i.group.reg i.low f.src3.toNat
    Ready s a f (fun n => regOk n f.src3 1 && groupLegal op.val f n) (f.src3.toNat :: groupUses op.val f) i →
    i.group.gathers = [] → (∀ l ∈ i.lanes, m.getLsbD l = true) → (∀ l ∈ i.group.live, m.getLsbD l = true → l ∈ i.lanes) →
    ∃ t, exec (groupOf op a f) s = .next t ∧ GroupOnly s t a ∧ PcsGo s t a i (fun _ => i.at_.pc + 8) ∧
      (∀ l ∈ i.active,
        (∀ w ∈ (groupResult op.val f i.group i.active l).regs, (t.groupAt a).reg l w.1 = w.2) ∧
        (∀ w ∈ (groupResult op.val f i.group i.active l).preds, (t.groupAt a).pred l w.1 = (decide (w.1 = 7) || w.2))) ∧
      (∀ l r, r < 256 → l ∉ i.active → (t.groupAt a).reg l r = (s.groupAt a).reg l r)

/-- R127, R276, R279, R285, Table 9.7, Table 9.8: a remote instruction of one active thread for another module: its transaction is kept
under a tag of the tile, a frame of the row's TYPE with the size, the address, the operation and the payload of the thread's operands
waits on the link of the route to the thread's destination, and the result's registers are pending. -/
def Obligations.RemoteInstructionsSendTheirFrame : Prop :=
  let sends := fun (c : Instr) (typ : BitVec 8) (legal : Nat → Bool) (uses : List Nat) (f : Fields) (a : GroupAt) (regs : List Nat)
      (body : Group → Nat → Frame → Prop) =>
    ∀ s i l tag, let d := i.group.reg l f.src3.toNat; let tile := a.core.val / 128
      Ready s a f legal uses i → i.active = [l] → s.acquireWaits i.at_ = false → f.m 12 2 = 0 → s.freeTag tile 65536 (s.tile tile).nextTag = some tag →
      d.toNat < 2 ^ 21 → s.ownDst d = false → (∀ fr : Frame, fr.dst = d → ∃ k, s.routeOf tile fr = some k ∧ (s.link k).peerStopped = false) →
      ∃ t x k, exec c s = .next t ∧ kfind (t.tile tile).remotes tag = some x ∧ x.frame.typ = typ ∧ x.frame.dst = d ∧
        x.frame.tag = BitVec.ofNat 16 tag ∧ x.frame.pid = s.pidOf tile ∧ x.frame.src = s.selfAddr tile ∧
        body i.group l x.frame ∧ s.routeOf tile x.frame = some k ∧ x.link = some k ∧ x.lane = l ∧
        (t.link k).txq = (s.link k).txq ++ [{ x.frame with hops := x.frame.hops + 1 }] ∧
        PcsGo s t a i (fun _ => i.at_.pc + 8) ∧ (∀ r ∈ regs, r ∈ (t.groupAt a).pending) ∧ t.mem = s.mem
  (∀ a z f, sends (.rrd a z f) 1 (fun m => decide (z.toNat ≤ 4) && remoteOk f m && f.m 0 8 = 0 && regOk m f.dst (sizeRegs (2 ^ z.toNat)) &&
    f.src2 = 0) (regList f.dst (sizeRegs (2 ^ z.toNat)) ++ regList f.src1 2 ++ [f.src3.toNat]) f a (regList f.dst (sizeRegs (2 ^ z.toNat)))
    fun g l x => x.size = z ∧ x.addr = (g.pair l f.src1.toNat).setWidth 52 ∧ x.payload = []) ∧
  (∀ a z f, sends (.rwr a z f) 2 (fun m => decide (z.toNat ≤ 4) && remoteOk f m && f.m 0 8 = 0 && regOk m f.src2 (sizeRegs (2 ^ z.toNat)) &&
    f.dst = 0) (regList f.src2 (sizeRegs (2 ^ z.toNat)) ++ regList f.src1 2 ++ [f.src3.toNat]) f a []
    fun g l x => x.size = z ∧ x.addr = (g.pair l f.src1.toNat).setWidth 52 ∧
      x.payload = leBytes (if z.toNat = 4 then 16 else 8) (g.regs' l f.src2.toNat (sizeRegs (2 ^ z.toNat)) % 256 ^ 2 ^ z.toNat)) ∧
  (∀ a z f, sends (.ratom a z f) 3 (ratomLegal z.toNat f)
    (regList f.src2 (if f.m 4 3 = 7 then 2 * atypeRegs f.atype else atypeRegs f.atype) ++ regList f.src1 2 ++ [f.src3.toNat] ++
      (if f.m 7 1 = 1 then regList f.dst (atypeRegs f.atype) else [])) f a (if f.m 7 1 = 1 then regList f.dst (atypeRegs f.atype) else [])
    fun g l x => let w := atypeRegs f.atype
      x.size = z ∧ x.addr = (g.pair l f.src1.toNat).setWidth 52 ∧ x.aop.toNat = f.m 4 3 ∧ x.atype.toNat = f.atype ∧ x.ret.toNat = f.m 7 1 ∧
      x.payload = leBytes 8 (g.regs' l f.src2.toNat w % 256 ^ 2 ^ z.toNat) ++
        leBytes 8 (if f.m 4 3 = 7 then g.regs' l (f.src2.toNat + w) w % 256 ^ 2 ^ z.toNat else 0)) ∧
  (∀ a z f, sends (.rmsg a z f) 4 (fun m => decide (z.toNat = 4) && remoteOk f m && f.m 0 8 = 0 && regOk m f.src2 4 && f.dst = 0)
    (regList f.src2 4 ++ regList f.src1 2 ++ [f.src3.toNat]) f a []
    fun g l x => x.size = 4 ∧ x.addr = 0 ∧ x.chan.toNat = fld (g.pair l f.src1.toNat) 0 16 ∧
      x.payload = leBytes 16 (g.regs' l f.src2.toNat 4))

/-- R50, R53, R90, R91, R93, R109, R129, Table 4.13: a barrier that others have still to reach holds the subset at its slot with the
phase's mask; the last arrival, with no access outstanding, ends the phase, and the threads that wait go on. FENCE goes on once nothing of its predecessor set is unanswered; TWAIT goes on when the token is complete, and otherwise its active
threads wait for it. -/
def Obligations.BarriersFencesAndTokenWaits : Prop :=
  (∀ a f s i h l, let m := i.group.reg i.low f.src1.toNat
    Ready s a f (fun n => f.mod = 0 && decide (f.imm16 < 4) && f.dst = 0 && regOk n f.src1 1) [f.src1.toNat] i →
    (∀ g ∈ i.block.groups, g.2.gathers = []) → (∀ k, (kget {} i.block.bars k).open_ = false) →
    (∀ k, (kget {} (kget {} s.teams i.block.team).bars k).open_ = false) →
    m.getLsbD a.group.val = true → m.toNat < 2 ^ i.block.groupCount → m.getLsbD h = true → h ≠ a.group.val →
    l ∈ (i.block.group h).live → ((i.block.group h).thread l).wait ≠ .blockBarrier f.imm16 →
    ∃ t, exec (.barBlock a f) s = .next t ∧
      (∀ l ∈ i.lanes, ((t.groupAt a).thread l).wait = .blockBarrier f.imm16) ∧ PcsGo s t a i (fun _ => i.at_.pc) ∧
      kget {} (t.block a.core.val a.block.val).bars f.imm16 =
        { mask := m, open_ := true, start := s.coreCycles a.core.val, pc := i.at_.pc } ∧ OnlyNamed s t a i [] []) ∧
  (∀ a f s i c b h l, let m := i.group.reg i.low f.src1.toNat; let tm := kget {} s.teams i.block.team
    Ready s a f (fun n => f.mod = 0 && decide (f.imm16 < 2) && f.dst = 0 && regOk n f.src1 1) [f.src1.toNat] i →
    (∀ g ∈ i.block.groups, g.2.gathers = []) → (∀ k, (kget {} i.block.bars k).open_ = false) →
    (∀ k, (kget {} tm.bars k).open_ = false) →
    m.toNat < 256 → m.getLsbD i.block.member = true → m.toNat < 2 ^ i.block.teamBlocks →
    m.getLsbD h = true → tm.members[h]? = some (c, b) → c ≠ a.core.val → (s.block c b).team = i.block.team →
    (∃ g ∈ (s.block c b).groups, l ∈ g.2.live ∧ (g.2.thread l).wait ≠ .teamBarrier f.imm16) →
    ∃ t, exec (.barTeam a f) s = .next t ∧
      (∀ l ∈ i.lanes, ((t.groupAt a).thread l).wait = .teamBarrier f.imm16) ∧ PcsGo s t a i (fun _ => i.at_.pc) ∧
      kget {} (kget {} t.teams i.block.team).bars f.imm16 =
        { mask := m, open_ := true, start := s.arithCycles (a.core.val / 128), pc := i.at_.pc } ∧ OnlyNamed s t a i [] []) ∧
  (∀ a f s i, let m := i.group.reg i.low f.src1.toNat; let w := WaitFor.blockBarrier f.imm16; let x := kget {} i.block.bars f.imm16
    Ready s a f (fun n => f.mod = 0 && decide (f.imm16 < 4) && f.dst = 0 && regOk n f.src1 1) [f.src1.toNat] i → NoGather i.block →
    (∀ k, k ≠ f.imm16 → (kget {} i.block.bars k).open_ = false) → (∀ k, (kget {} (kget {} s.teams i.block.team).bars k).open_ = false) →
    (x.open_ = true → x.mask = m) → m.getLsbD a.group.val = true → m.toNat < 2 ^ i.block.groupCount →
    (∀ h, m.getLsbD h = true → h ≠ a.group.val → (i.block.group h).arrivedAt w = true) →
    (∀ l ∈ i.group.live, l ∈ i.lanes ∨ (i.group.thread l).wait = w) →
    (∀ y ∈ s.xbar, ¬ (y.2.core = a.core.val ∧ y.2.block = a.block.val)) →
    ∃ t, exec (.barBlock a f) s = .next t ∧ kget {} (t.block a.core.val a.block.val).bars f.imm16 = {} ∧
      Released s t a.core.val a.block.val w (fun h l => h = a.group.val ∧ l ∈ i.lanes) ∧ OnlyNamed s t a i [] []) ∧
  (∀ a f s i, let m := i.group.reg i.low f.src1.toNat; let w := WaitFor.teamBarrier f.imm16
    let tm := kget {} s.teams i.block.team; let x := kget {} tm.bars f.imm16
    Ready s a f (fun n => f.mod = 0 && decide (f.imm16 < 2) && f.dst = 0 && regOk n f.src1 1) [f.src1.toNat] i → NoGather i.block →
    (∀ k, (kget {} i.block.bars k).open_ = false) → (∀ k, k ≠ f.imm16 → (kget {} tm.bars k).open_ = false) →
    (x.open_ = true → x.mask = m) → m.toNat < 256 → m.getLsbD i.block.member = true → m.toNat < 2 ^ i.block.teamBlocks →
    (∀ h p, m.getLsbD h = true → tm.members[h]? = some p → p ≠ (a.core.val, a.block.val) →
      p.1 ≠ a.core.val ∧ s.memberArrived i.block.team f.imm16 p = true) →
    (∀ g ∈ i.block.groups, g.1 ≠ a.group.val → g.2.arrivedAt w = true) → kwf i.block.groups = true →
    (∀ l ∈ i.group.live, l ∈ i.lanes ∨ (i.group.thread l).wait = w) →
    (∀ y ∈ s.xbar, ¬ (y.2.core = a.core.val ∧ y.2.block = a.block.val)) → (a.core.val, a.block.val) ∈ tm.members →
    ∃ t, exec (.barTeam a f) s = .next t ∧ kget {} (kget {} t.teams i.block.team).bars f.imm16 = {} ∧
      Released s t a.core.val a.block.val w (fun h l => h = a.group.val ∧ l ∈ i.lanes) ∧ OnlyNamed s t a i [] [] ∧
      ∀ p ∈ tm.members, p.1 ≠ a.core.val → (s.block p.1 p.2).team = i.block.team → Released s t p.1 p.2 w (fun _ _ => False)) ∧
  (∀ a f s i, Ready s a f (fun _ => f.m 0 14 = 0 && decide (f.imm16 < 16) && decide (f.imm16 % 4 ≠ 0) && decide (f.imm16 / 4 ≠ 0) &&
      f.dst = 0 && f.src1 = 0) [] i → s.fenceWaits i.at_ i.block (f.imm16 % 4) (f.m 14 2) = false →
    ∃ t, exec (.fence a f) s = .next t ∧ PcsGo s t a i (fun _ => i.at_.pc + 8) ∧ OnlyNamed s t a i [] [] ∧ GroupOnly s t a) ∧
  (∀ a f s i l ls, let tok := i.group.reg l f.src1.toNat
    Ready s a f (fun n => f.mod = 0 && f.imm16 = 0 && f.dst = 0 && regOk n f.src1 1) [f.src1.toNat] i → i.active = l :: ls →
    ((s.core a.core.val).tokenDone a.block.val tok = true → ∃ t, exec (.twait a f) s = .next t ∧
      PcsGo s t a i (fun _ => i.at_.pc + 8) ∧ OnlyNamed s t a i [] [] ∧ GroupOnly s t a) ∧
    ((s.core a.core.val).tokenDone a.block.val tok = false → ∃ t, exec (.twait a f) s = .next t ∧
      (∀ m ∈ i.active, ((t.groupAt a).thread m).wait = .token tok) ∧
      PcsGo s t a i (fun m => if m ∈ i.active then i.at_.pc else i.at_.pc + 8) ∧ OnlyNamed s t a i [] [] ∧ GroupOnly s t a))

/-- R106 to R108, R130: MMA and TILE: with a free token and room in the queue, the instruction enters its queue with the lowest active
thread's descriptor, the token's slot is busy with the next generation, and every active thread receives the token. -/
def Obligations.EngineInstructionsEnterTheirQueue : Prop :=
  ∀ a f s i l ls n, let k := s.core a.core.val; let q := i.group.quarter; let tok := (k.takeToken n a.block.val).2
    i.active = l :: ls → k.freeToken = some n → s.acquireWaits i.at_ = false →
    (Ready s a f (fun m => f.m 1 15 = 0 && regOk m f.dst 1 && regOk m f.src1 1 && regOk m f.src2 (f.m 0 1) && f.src3 = 0)
        (regList f.dst 1 ++ regList f.src1 1 ++ regList f.src2 (f.m 0 1)) i → k.matrixQ.length < 16 →
      ∃ t o, exec (.mma a f) s = .next t ∧ (t.core a.core.val).matrixQ = k.matrixQ ++ [o] ∧ o.token = tok ∧
        o.desc = i.group.reg l f.src1.toNat ∧ o.side = (if f.m 0 1 = 1 then some (i.group.reg l f.src2.toNat) else none) ∧
        o.stage = .queued ∧ (kget {} (t.core a.core.val).tokens n).busy = true ∧
        (kget {} (t.core a.core.val).tokens n).gen = nextGen (kget {} k.tokens n).gen ∧
        (∀ m ∈ i.active, (t.groupAt a).reg m f.dst.toNat = tok) ∧ OnlyNamed s t a i [f.dst.toNat] [] ∧
        PcsGo s t a i (fun _ => i.at_.pc + 8) ∧ t = { s with cores := t.cores }) ∧
    (Ready s a f (fun m => f.mod = 0 && regOk m f.dst 1 && regOk m f.src1 1 && f.src2 = 0 && f.src3 = 0)
        (regList f.dst 1 ++ regList f.src1 1) i → (kget [] k.tileQ q).length < 8 →
      ∃ t o, exec (.tile a f) s = .next t ∧ kget [] (t.core a.core.val).tileQ q = kget [] k.tileQ q ++ [o] ∧ o.token = tok ∧
        o.desc = i.group.reg l f.src1.toNat ∧ o.stage = .queued ∧ (kget {} (t.core a.core.val).tokens n).busy = true ∧
        (kget {} (t.core a.core.val).tokens n).gen = nextGen (kget {} k.tokens n).gen ∧
        (∀ m ∈ i.active, (t.groupAt a).reg m f.dst.toNat = tok) ∧ OnlyNamed s t a i [f.dst.toNat] [] ∧
        PcsGo s t a i (fun _ => i.at_.pc + 8) ∧ t = { s with cores := t.cores })

end
namespace Sys2Proof.Machine

/-- A block at a position, found on a core. -/
def State.has (s : State) (c b : Nat) (x : Block) : Prop := kfind (s.core c).blocks b = some x

/-- Every table that these statements delete from is in canonical form. -/
def TablesOk (s : State) (c : Nat) : Prop := kwf (s.core c).blocks = true ∧ kwf s.xbar = true

/-- R488: neither the local memory nor the accumulator buffers of a core hold a bit error. -/
def EngineSound (s : State) (c : Nat) : Prop := ∀ u ∈ s.upsets, u.unit = c → u.mem ≠ .localStore ∧ u.mem ≠ .accumulator

/-- The tile operations that the quarter's front instruction performs (Table 6.8, Table 6.9), by command, opcode and the rows of D: for
destination types of whole bytes, and a CVT to one without scales. -/
def TileGives (c : Fin 1536 → Fin 4 → Instr) (op : Nat) (rows : Core → Block → TileDesc → List (List Nat)) : Prop :=
  ∀ core quarter s o b, let k := s.core core.val; let d := tileDesc o.copy; let w := codeBits d.dt / 8
    s.frontTile core.val quarter.val op = some (o, b) → k.tileMet b d = none → codeBits d.dt = 8 * w → d.dt ≠ 8 → d.dt ≠ 9 →
    EngineSound s core.val → Memory.wf k.lmem = true → (op = 0 → codeScaled d.dt = false) → (∀ l ∈ rows k b d, l.length * w ≤ d.dStride) →
    ∃ t, exec (c core quarter) s = .next t ∧
      (∀ i l j e, (rows k b d)[i]? = some l → l[j]? = some e →
        cellsRead (t.core core.val).lmem (b.localBase + d.dBase + i * d.dStride + j * w) w = e % 256 ^ w) ∧
      (∀ p, (∀ i l, (rows k b d)[i]? = some l → ¬ (b.localBase + d.dBase + i * d.dStride ≤ p ∧
        p < b.localBase + d.dBase + i * d.dStride + l.length * w)) → cellGet (t.core core.val).lmem p = cellGet k.lmem p) ∧
      (∃ o', (kget [] (t.core core.val).tileQ quarter.val).head? = some o' ∧ o'.token = o.token ∧
        o'.stage = .written (s.coreCycles core.val + d.cycles) ∧ o'.met = none) ∧
      t = { s with cores := t.cores }

end Sys2Proof.Machine

section

open Sys2Proof Sys2Proof.Machine

/-! ## Events of the compute core -/

/-- R44, R97, R488, Table 2.2: a terminating block whose record is written and whose engine instructions have none started is released, and its waiting
engine instructions leave their queues; a block whose groups have all exited, and whose requests and engine instructions have completed,
is released, and its token slots are free; the blocks of a team stay until the last of them is done, and are released together. -/
def Obligations.BlocksAreReleasedAtTheirEnd : Prop :=
  (∀ (core : Fin 1536) (b : Fin 16) s x cause since, TablesOk s core.val → s.has core.val b.val x → x.phase = .terminating cause since →
    x.fault = none → x.xbarOut = 0 → s.xbarTargets core.val b.val x = false → (s.core core.val).tileQ = [] → (∀ o ∈ (s.core core.val).matrixQ, o.block = b.val → o.waits = true) →
    ∃ t, exec (.blockTerminate core b) s = .next t ∧ kfind (t.core core.val).blocks b.val = none ∧
      (t.core core.val).engineBusy b.val = false ∧ (∀ n, n ≠ b.val → kfind (t.core core.val).blocks n = kfind (s.core core.val).blocks n)) ∧
  (∀ (core : Fin 1536) (b : Fin 16) s x, TablesOk s core.val → s.has core.val b.val x → x.phase = .running →
    x.teamBlocks ≤ 1 → (∀ g ∈ x.groups, g.2.live = []) → x.xbarOut = 0 → x.remote = 0 → (s.core core.val).engineBusy b.val = false →
    ∃ t, exec (.blockEnd core b) s = .next t ∧ kfind (t.core core.val).blocks b.val = none ∧
      (∀ p ∈ (t.core core.val).tokens, p.2.block = b.val → p.2.busy = false) ∧ t.mem = s.mem ∧
      (∀ n, n ≠ b.val → kfind (t.core core.val).blocks n = kfind (s.core core.val).blocks n)) ∧
  (∀ (core : Fin 1536) (b : Fin 16) (s : State) x, s.has core.val b.val x → s.blockDone core.val b.val x = true → 1 < x.teamBlocks →
    ((∀ r ∈ s.residents x.team, s.blockDone r.1 r.2.1 r.2.2 = true) → (∀ c, kwf (s.core c).blocks = true) →
      ∃ t, exec (.blockEnd core b) s = .next t ∧ t.mem = s.mem ∧ ∀ r ∈ s.residents x.team, kfind (t.core r.1).blocks r.2.1 = none) ∧
    (∀ r ∈ s.residents x.team, s.blockDone r.1 r.2.1 r.2.2 = false → exec (.blockEnd core b) s = .next s))

/-- R94, R97, R105, Table 15.7: the timers of a core: an expired barrier phase is BARRIER_TIMEOUT, an expired group operation
GROUP_OP_TIMEOUT, an unanswered local request REMOTE_LOCAL_TIMEOUT, and a block not terminated in 2^20 cycles retires its core. -/
def Obligations.CoreTimersFaultTheirBlock : Prop :=
  (∀ (core : Fin 1536) s b x k, (s.core core.val).blocks = [(b, x)] → x.phase = .running → k < 4 → (kget {} x.bars k).open_ = true →
    (kget {} x.bars k).start + 2 ^ s.barrierExpOf core.val x ≤ (s.coreCycles core.val - 1) / 1024 * 1024 →
    ∃ t, exec (.barrierTimeout core) s = .next t ∧ (t.block core.val b).phase = .terminating 0x01 (s.coreCycles core.val)) ∧
  (∀ (core : Fin 1536) s b x g y, (s.core core.val).blocks = [(b, x)] → x.phase = .running → kfind x.groups g = some y →
    (∃ z ∈ y.gathers, z.start + 2 ^ s.barrierExpOf core.val x ≤ (s.coreCycles core.val - 1) / 1024 * 1024) →
    ∃ t, exec (.groupOpTimeout core) s = .next t ∧ (t.block core.val b).phase = .terminating 0x03 (s.coreCycles core.val)) ∧
  (∀ id s x b, kfind s.xbar id = some x → x.back = false → x.late = false → x.here = false → s.has x.core x.block b → b.phase = .running →
    b.team = x.team → x.sent + 2 ^ (s.core x.core).remoteExp.toNat ≤ s.coreCycles x.core →
    ∃ t, exec (.remoteLocalTimeout id) s = .next t ∧ kfind t.xbar id = some { x with late := true } ∧
      (t.block x.core x.block).xbarOut = b.xbarOut ∧ (t.block x.core x.block).phase = .terminating 0x0A (s.coreCycles x.core)) ∧
  (∀ (core : Fin 1536) (b : Fin 16) s x cause since, s.has core.val b.val x → x.phase = .terminating cause since →
    since + 2 ^ 20 ≤ s.coreCycles core.val → (s.core core.val).present = true →
    ∃ t, exec (.blockTerminationTimeout core b) s = .next t ∧ (t.core core.val).retiring = some 1)

/-- R59, R104, R254: a request to another member's local memory is served at the target in one pass, its threads in ascending lane
order: a load leaves the sector, a store and an atomic write their operands, and a request of one thread returns what was there. When
the last request of an instruction has been answered, its threads have their registers, and each request is outstanding no more. An
update of the same atomic on the block's own local memory, on a higher address, follows at once. -/
def Obligations.TeamLocalRequestsAreServedAndAnswered : Prop :=
  (∀ id s x b, let k := s.core x.tcore
    kfind s.xbar id = some x → x.done = none → (∀ y ∈ s.xbar, y.2.instr = x.instr → y.2.here = false) → s.coreRuns x.tcore = true → s.xbarBehind id x = false → s.has x.tcore x.tblock b →
    b.team = x.team → (∀ u ∈ s.upsets, u.mem = .localStore → u.unit ≠ x.tcore) →
    (x.kind ≠ .store → ∀ p ∈ x.parts, k.localPoison b p.off p.size = none) → Memory.wf k.lmem = true →
    ∃ t vs, exec (.teamLocalAccess id) s = .next t ∧ kfind t.xbar id = some { x with done := some vs } ∧ vs.length = x.parts.length ∧
      (x.kind = .load → (t.core x.tcore).lmem = k.lmem ∧
        vs = x.parts.map fun p => cellsRead k.lmem (b.localBase + p.off) p.size) ∧
      (x.kind = .store → ∀ (i : Nat) (p : XbarPart), x.parts[i]? = some p → ∀ j, j < p.size →
        (∀ (i' : Nat) (q : XbarPart), i < i' → x.parts[i']? = some q → ¬ (q.off ≤ p.off + j ∧ p.off + j < q.off + q.size)) →
        (cellGet (t.core x.tcore).lmem (b.localBase + p.off + j)).toNat = p.data.1 / 256 ^ p.from_ / 256 ^ j % 256) ∧
      (∀ op ty (p : XbarPart), x.kind = .atomic op ty → x.parts = [p] → let old := cellsRead k.lmem (b.localBase + p.off) p.size
        vs = [old] ∧ cellsRead (t.core x.tcore).lmem (b.localBase + p.off) p.size =
          atomNew op ty old p.data.1 p.data.2 % 256 ^ p.size) ∧
      (∀ a, (∀ p ∈ x.parts, ¬ (b.localBase + p.off ≤ a ∧ a < b.localBase + p.off + p.size)) →
        cellGet (t.core x.tcore).lmem a = cellGet k.lmem a) ∧ t.mem = s.mem) ∧
  (∀ id s x b vs, kwf s.xbar = true → kfind s.xbar id = some x → x.done = some vs → x.back = false → s.has x.core x.block b →
    b.team = x.team → b.phase = .running → NoGather b → (∀ k, (kget {} b.bars k).open_ = false) →
    (∀ k, (kget {} (kget {} s.teams b.team).bars k).open_ = false) →
    ((∀ y ∈ s.xbar, y.2.instr = x.instr → y.1 = id ∨ y.2.back = true) →
      ∃ t, exec (.teamLocalResponse id) s = .next t ∧ kfind t.xbar id = none ∧ (t.block x.core x.block).xbarOut = b.xbarOut - 1 ∧
        (∀ d (p : XbarPart) v, x.dst = some d → d < 253 → (∀ y ∈ s.xbar, y.2.instr = x.instr → y.1 = id) → x.parts = [p] → vs = [v] → p.from_ = 0 →
          ∀ w ∈ loadRegs d x.size v x.sext, ((t.block x.core x.block).group x.group).reg p.lane w.1 = w.2) ∧ t.mem = s.mem) ∧
    (∀ y ∈ s.xbar, y.2.instr = x.instr → y.1 ≠ id → y.2.back = false →
      ∃ t, exec (.teamLocalResponse id) s = .next t ∧ kfind t.xbar id = some { x with back := true } ∧
        (t.block x.core x.block).xbarOut = b.xbarOut - 1 ∧ t.mem = s.mem ∧
        ∀ g l r, ((t.block x.core x.block).group g).reg l r = (b.group g).reg l r)) ∧
  (∀ id id' s x y b c (p : XbarPart) op ty, let k := s.core y.core
    s.xbar = [(id, x), (id', y)] → id < id' → x.instr = y.instr → x.kind = .atomic op ty → y.kind = .atomic op ty →
    x.done = none → x.here = false → y.done = none → y.here = true → y.pieces = [] → y.parts = [p] → y.tcore = y.core → y.tblock = y.block →
    s.coreRuns x.tcore = true → s.xbarBehind id x = false → s.has x.tcore x.tblock b → b.team = x.team → x.tcore ≠ y.core →
    s.has y.core y.block c → c.team = y.team → c.phase = .running → NoGather c → (∀ k, (kget {} c.bars k).open_ = false) →
    (∀ k, (kget {} (kget {} s.teams c.team).bars k).open_ = false) → s.upsets = [] →
    (∀ q ∈ x.parts, (s.core x.tcore).localPoison b q.off q.size = none) → k.localPoison c p.off p.size = none → Memory.wf k.lmem = true →
    let old := cellsRead k.lmem (c.localBase + p.off) p.size
    ∃ t, exec (.teamLocalAccess id) s = .next t ∧ kfind t.xbar id' = some { y with done := some [old], back := true } ∧
      cellsRead (t.core y.core).lmem (c.localBase + p.off) p.size = atomNew op ty old p.data.1 p.data.2 % 256 ^ p.size ∧
      (t.block y.core y.block).xbarOut = c.xbarOut - 1)

/-- R45, R46, R78, R343: a team that its cell can take is placed: the team has its members on the cores named, and the launch counts it;
the teams of a cooperative kernel are placed all at once. -/
def Obligations.TeamsArePlacedOnTheirCores : Prop :=
  (∀ (q : Fin 256) n (cell : Fin 192) (ks : List (Fin 8)) s p f,
    let cs := ks.map fun k => cell.val / 16 * 128 + cell.val % 16 * 8 + k.val
    s.placing q.val n = some (p, f) → hdr p.launch.header 8 4 / 4 % 2 = 0 → s.teamAllowed p f cell.val cs = true →
    s.teamReady p.launch.header cs = true →
    ∃ t tm, exec (.teamPlace q n cell ks) s = .next t ∧ kfind t.teams s.nextTeam = some tm ∧ tm.cell = cell.val ∧
      tm.members.map (·.1) = cs ∧ t.nextTeam = s.nextTeam + 1 ∧
      ∃ r l, t.run q.val = some r ∧ r.launches[n]? = some l ∧ l.placed = p.launch.placed + 1 ∧ l.live = p.launch.live + cs.length) ∧
  (∀ (q : Fin 256) n (places : List (Fin 192 × List (Fin 8))) s p f u,
    let ps := places.map fun (x : Fin 192 × List (Fin 8)) => (x.1.val, x.2.map fun (k : Fin 8) => x.1.val / 16 * 128 + x.1.val % 16 * 8 + k.val)
    s.placing q.val n = some (p, f) → hdr p.launch.header 8 4 / 4 % 2 = 1 → places.length = p.launch.teams →
    (s.firstClear f p.ctx p.run).placeAll q.val n ps = some u →
    ∃ t, exec (.cooperativeStart q n places) s = .next t ∧ t.nextTeam = s.nextTeam + places.length ∧
      ∃ r l, t.run q.val = some r ∧ r.launches[n]? = some l ∧ l.placed = p.launch.placed + places.length)

/-- R99, R100, R110: a way that converts becomes local memory; a local section without granules for 4,096 cycles becomes an empty way; a
miss that the core's instruction cache holds fills the quarter's cache. -/
def Obligations.LocalStoreAndInstructionCacheFollowTheirEvents : Prop :=
  (∀ (core : Fin 1536) (way : Fin 12) s line, (kget {} (s.core core.val).sections way.val).use = .toLocal line → s.coreRuns core.val = true →
    ∃ t, exec (.localSectionConvert core way) s = .next t ∧ (kget {} (t.core core.val).sections way.val).use = .localMem ∧
      (∀ w, w ≠ way.val → kget {} (t.core core.val).sections w = kget {} (s.core core.val).sections w) ∧
      (t.core core.val).lmem = (s.core core.val).lmem) ∧
  (∀ (core : Fin 1536) (way : Fin 12) s, let x := kget {} (s.core core.val).sections way.val
    x.use = .localMem → (∀ p ∈ (s.core core.val).blocks, ∀ g ∈ p.2.granules, 11 - g / 32 ≠ way.val) →
    x.idleSince + 4096 ≤ s.coreCycles core.val →
    ∃ t, exec (.localSectionReturn core way) s = .next t ∧ (kget {} (t.core core.val).sections way.val).use = .way ∧
      (∀ w, w ≠ way.val → kget {} (t.core core.val).sections w = kget {} (s.core core.val).sections w)) ∧
  (∀ (core : Fin 1536) (quarter : Fin 4) ctx (pa : BitVec 52) s d, (s.core core.val).icache.find? (fun x => x.1 = pa.toNat / 128) = some d →
    (∀ u ∈ s.upsets, u.mem = .icache → u.unit = core.val → u.word ≠ pa.toNat / 128) →
    ∃ t, exec (.icacheMiss core quarter ctx pa) s = .next t ∧ d ∈ kget [] (t.core core.val).qcache quarter.val ∧
      (t.core core.val).icache = (s.core core.val).icache ∧
      (∀ q, q ≠ quarter.val → kget [] (t.core core.val).qcache q = kget [] (s.core core.val).qcache q))

/-- R14, R26 to R28, R462: the low-power states: an idle quarter is clock-gated; an idle region is clock-gated on request and power-gated; a
region whose supply fails retires its cores;
a die whose regions are all power-gated stops its PLLs; a wake completes, or is retried once after 100 µs; and a core whose last block
has ended is retired for a spare. -/
def Obligations.LowPowerStatesFollowTheirEvents : Prop :=
  (∀ (core : Fin 1536) (q : Fin 4) s, kget 0 (s.core core.val).lastActive q.val + 64 ≤ s.coreCycles core.val →
    ∃ t, exec (.quarterClockGate core q) s = .next t ∧ (t.core core.val).gated.getLsbD q.val = true ∧
      (∀ r, r ≠ q.val → (t.core core.val).gated.getLsbD r = (s.core core.val).gated.getLsbD r)) ∧
  (∀ (d : Fin 12) (r : Fin 4) s, (∀ c ∈ regionCores d.val r.val, (s.core c).blocks = []) → kget .on (s.die d.val).regions r.val = .on →
    ∃ t, exec (.regionClockGate d r) s = .next t ∧ kget .on (t.die d.val).regions r.val = .clockGated ∧
      (∀ x, x ≠ r.val → kget .on (t.die d.val).regions x = kget .on (s.die d.val).regions x)) ∧
  (∀ (d : Fin 12) (r : Fin 4) s, (∀ c ∈ regionCores d.val r.val, (s.core c).blocks = []) →
    (kget .on (s.die d.val).regions r.val = .on ∨ kget .on (s.die d.val).regions r.val = .clockGated) →
    ∃ t, exec (.regionPowerGate d ⟨r, false⟩) s = .next t ∧ kget .on (t.die d.val).regions r.val = .powerGated ∧
      (∀ c ∈ regionCores d.val r.val, (t.core c).lmem = [] ∧ (t.core c).tokens = [] ∧ (t.core c).icache = [] ∧
        (t.core c).position = (s.core c).position)) ∧
  (∀ (d : Fin 12) (r : Fin 4) s, ∃ t, exec (.regionPowerGate d ⟨r, true⟩) s = .next t ∧ kget .on (t.die d.val).regions r.val = .powerGated ∧
    ∀ c ∈ regionCores d.val r.val, (s.core c).present = true → (t.core c).retiring = some 3) ∧
  (∀ (d : Fin 12) s, (∀ r, r < 4 → kget .on (s.die d.val).regions r = .powerGated) →
    ∃ t, exec (.diePllOff d) s = .next t ∧ (t.die d.val).pll = false ∧ (t.die d.val).regions = (s.die d.val).regions) ∧
  (∀ (d : Fin 12) (r : Fin 4) s n b, kget .on (s.die d.val).regions r.val = .waking n b →
    (∃ t, exec (.regionWakeComplete d r) s = .next t ∧ kget .on (t.die d.val).regions r.val = .on) ∧
    (b = false → n + 10000 ≤ s.ticks →
      ∃ t, exec (.regionWakeTimeout d r) s = .next t ∧ kget .on (t.die d.val).regions r.val = .waking s.ticks true)) ∧
  (∀ (core : Fin 1536) s reason p, (s.core core.val).retiring = some reason → (s.core core.val).blocks = [] →
    (s.die (core.val / 128)).spare (core.val % 128 / 32) = some p → p < 255 → (s.cache core.val).lines = [] →
    ∃ t, exec (.coreRetired core) s = .next t ∧ (t.core core.val).position = BitVec.ofNat 8 p ∧ (t.core core.val).present = true ∧
      (t.core core.val).retiring = none ∧ p ∈ (t.die (core.val / 128)).used ∧
      (s.core core.val).position.toNat ∈ (t.die (core.val / 128)).failed)

/-! ## The matrix and tile engines -/

/-- R163, R168, R173, R175, R182: the matrix engine: a descriptor read copies a legal descriptor, and an illegal one is DESCRIPTOR_FAULT; the
oldest checked instruction starts when the engine and its interlocks allow; at completion it leaves the queue, its token is free, and a
result without side operand, digest or poisoned word stands in D's lines; a double-bit error of its accumulator buffer is
DATA_POISON. -/
def Obligations.MatrixInstructionsAreReadStartedAndCompleted : Prop :=
  (∀ (core : Fin 1536) tok s o b, let k := s.core core.val; let copy := k.readDesc b o.desc.toNat
    k.matrixQ = [o] → o.token = tok → o.stage = .queued → o.side = none → o.accepted + 1 ≤ s.coreCycles core.val →
    s.has core.val o.block b → s.localSound core.val (b.localBase + o.desc.toNat) 64 →
    (matCheck (matDesc copy) o.desc.toNat b.localBytes none = none →
      ∃ t, exec (.matrixDescriptorRead core tok) s = .next t ∧
        (t.core core.val).matrixQ = [{ o with
          copy := copy, sideCopy := 0, stage := .checked
          tainted := o.early.any fun r => { o with copy := copy, sideCopy := 0, stage := .checked }.readsAt r.1 r.2 }] ∧ t = { s with cores := t.cores }) ∧
    (∀ off reason, matCheck (matDesc copy) o.desc.toNat b.localBytes none = some (off, reason) → b.phase = .running →
      ∃ t, exec (.matrixDescriptorRead core tok) s = .next t ∧ (t.core core.val).matrixQ = [] ∧
        (t.block core.val o.block).phase = .terminating 0x09 (s.coreCycles core.val))) ∧
  (∀ (core : Fin 1536) s pre o post, let k := s.core core.val; let base := (kget {} k.blocks o.block).localBase
    let tm := matTiming o.mat o.sideD base; let now := s.coreCycles core.val
    k.matrixQ = pre ++ o :: post → (∀ p ∈ pre, p.started = true ∧ p.token ≠ o.token) → (∀ p ∈ post, p.token ≠ o.token) →
    o.stage = .checked → s.coreRuns core.val = true → o.accepted + 2 ≤ now → k.engineFree ≤ now → interlocksOk now base o pre = true →
    ∃ t, exec (.matrixStart core) s = .next t ∧ (t.core core.val).engineFree = now + tm.1 ∧
      (t.core core.val).matrixQ = pre ++ { o with stage := .started now (now + tm.2.1) } :: post ∧ t = { s with cores := t.cores }) ∧
  (∀ (core : Fin 1536) s o rest b since done, let k := s.core core.val; let d := o.mat
    k.matrixQ = o :: rest → o.stage = .started since done → done ≤ s.coreCycles core.val → s.has core.val o.block b →
    EngineSound s core.val → k.firstPoison b d o.sideD = none → Memory.wf k.lmem = true →
    ∃ t, exec (.matrixComplete core) s = .next t ∧ (t.core core.val).matrixQ = rest ∧
      ((kget {} k.tokens (fld o.token 0 6)).gen.toNat = fld o.token 6 26 → (kget {} (t.core core.val).tokens (fld o.token 0 6)).busy = false) ∧
      (o.tainted = false → o.side = none → d.pair = false → d.hasDigest = false → (∀ l ∈ k.mainResult b d, l.length * d.ab ≤ d.spanD.stride) →
        ∀ i l j e, (k.mainResult b d)[i]? = some l → l[j]? = some e →
          cellsRead (t.core core.val).lmem (b.localBase + d.spanD.base + i * d.spanD.stride + j * d.ab) d.ab = e.1 % 256 ^ d.ab)) ∧
  (∀ (core : Fin 1536) s o rest b since done u, (s.core core.val).matrixQ = o :: rest → o.stage = .started since done →
    done ≤ s.coreCycles core.val → s.has core.val o.block b → b.phase = .running → s.upsets = [u] → u.mem = .accumulator →
    u.unit = core.val → u.double = true →
    ∃ t, exec (.matrixComplete core) s = .next t ∧ (t.core core.val).matrixQ = rest ∧ t.upsets = [] ∧
      (t.block core.val o.block).phase = .terminating 0x0C (s.coreCycles core.val))

/-- R107, R149, R159, R175, R179, R180, R489, Table 6.8, Table 6.9: the oldest checked tile instruction of a quarter is performed by
the command of its operation: the elements of D take its results, and every other byte of local memory stays; its completion frees its
token. The 4-bit and 6-bit destination types, whose elements share bytes, and a CVT to a scaled type are left out. -/
def Obligations.TileOperationsWriteTheirResult : Prop :=
  TileGives .tileCvt 0x00 cvtRows ∧ TileGives .tileAdd 0x01 (arithRows fun f r o x y _ => f.add r o x y) ∧
  TileGives .tileSub 0x02 (arithRows fun f r o x y _ => f.sub r o x y) ∧ TileGives .tileMul 0x03 (arithRows fun f r o x y _ => f.mul r o x y) ∧
  TileGives .tileFma 0x04 (arithRows fun f r o x y z => f.fma r o x y z) ∧
  TileGives .tileMin 0x05 (arithRows fun f _ _ x y _ => f.minimum x y) ∧ TileGives .tileMax 0x06 (arithRows fun f _ _ x y _ => f.maximum x y) ∧
  TileGives .tileMinnum 0x07 (arithRows fun f _ _ x y _ => f.minNum x y) ∧ TileGives .tileMaxnum 0x08 (arithRows fun f _ _ x y _ => f.maxNum x y) ∧
  TileGives .rsum 0x10 (redRows 0) ∧ TileGives .rmin 0x11 (redRows 1) ∧ TileGives .rmax 0x12 (redRows 2) ∧
  TileGives .transpose 0x20 (fun k b d => (List.range d.cols).map fun j => (List.range d.rows).map fun i =>
    k.elem b d.dt (d.s1Base + i * d.s1Stride) j) ∧
  TileGives .fill 0x21 (fun _ _ d => (List.range d.rows).map fun _ => (List.range d.cols).map fun _ => fldN d.imm 0 (codeBits d.dt)) ∧
  (∀ (core : Fin 1536) (quarter : Fin 4) s o rest done, let k := s.core core.val
    kget [] k.tileQ quarter.val = o :: rest → o.stage = .written done → done ≤ s.coreCycles core.val →
    ∃ t, exec (.tileComplete core quarter) s = .next t ∧ kget [] (t.core core.val).tileQ quarter.val = rest ∧
      ((kget {} k.tokens (fld o.token 0 6)).gen.toNat = fld o.token 6 26 → (kget {} (t.core core.val).tokens (fld o.token 0 6)).busy = false) ∧
      (t.core core.val).lmem = k.lmem)

end
namespace Sys2Proof.Machine

/-- The command of a floor message's opcode; ACK has no row of its own. -/
def floorCmd : FloorOp → Option (FloorMsg → Instr)
  | .rdLineNc => some .rdLineNc | .rdSector => some .rdSector | .wrLine => some .wrLine | .wrMasked => some .wrMasked
  | .wrSector => some .wrSector | .regRd => some .regRd | .regWr => some .regWr | .rdS => some .rdS | .rdX => some .rdX
  | .upg => some .upg | .wb => some .wb | .atomH => some .atomH | .purgeWb => some .purgeWb | .snpS => some .snpS
  | .snpX => some .snpX | .snpNc => some .snpNc | .snpInv => some .snpInv | .snpInvWb => some .snpInvWb | .purge => some .purge
  | .compS => some .compS | .compE => some .compE | .compM => some .compM | .cack => some .cack | .wbAck => some .wbAck
  | .snpMiss => some .snpMiss | .snpAckS => some .snpAckS | .snpAckI => some .snpAckI | .snpFwdO => some .snpFwdO
  | .snpFwdI => some .snpFwdI | .snpFwdKeep => some .snpFwdKeep | .purgeDone => some .purgeDone | .dataClean => some .dataClean
  | .dataDirty => some .dataDirty | .atomOld => some .atomOld | .snpAckKeep => some .snpAckKeep | .ack => none

/-- A message that its destination handles: it is well formed, none of its channel and agents is in flight before it, its tiles are
connected, and its sender is not fenced (R17, R190, R191, R258). -/
def Arrives (s : State) (op : FloorOp) (m : FloorMsg) : Prop :=
  badMessage op m = false ∧ s.floorBehind op m = false ∧ s.connected m.srcTile.toNat m.dstTile.toNat = true ∧
  (s.tile m.srcTile.toNat).fenced = false

/-- The requests of which the sender awaits an answer before they are checked (R188). -/
def isRequest (op : FloorOp) : Bool :=
  op.isCache || op = .rdLineNc || op = .rdSector || op = .wrLine || op = .wrMasked || op = .wrSector || op = .atomH || op = .wb ||
  op = .purgeWb || op = .regRd || op = .regWr

/-- A home that holds and parks nothing, in a module without a fenced tile and without a bit error in a slice word, with a line in no
transaction and without an entry. -/
def QuietHome (s : State) (t tma : Nat) : Prop :=
  (∀ d, d < 12 → (s.tile d).fenced = false) ∧ (∀ u ∈ s.upsets, u.mem ≠ .slice) ∧ (s.tile t).held = [] ∧
  (∀ x ∈ (s.tile t).slices, x.2.parked = []) ∧ (s.tile t).taking = [] ∧ (s.tile t).inTxn (tma / 128) = false ∧
  (s.tile t).dirFind (tma / 128) = none

/-- The DRAM of a line is read and written plainly: no sector has an error, no copy exists, and no access is sampled. -/
def PlainDram (s : State) (t tma : Nat) : Prop :=
  s.dramErrs = [] ∧ s.mirrorOf t tma = none ∧ (s.tile t).hot.enable = false ∧ Memory.wf s.mem = true

/-- The way and the entry of the directory that a home keeps for a line of its own. -/
def State.entryOf (s : State) (t tma : Nat) : Option DirEntry := ((s.tile t).dirFind (tma / 128)).map (·.2)

end Sys2Proof.Machine

section

open Sys2Proof Sys2Proof.Machine

/-! ## The floor -/

/-- R190, R258: a message with a wrong VC, LENGTH, reserved bits or destination agent is discarded and counted in FLR_PROTO_ERR, which
saturates; one from a fenced tile is discarded. Nothing else changes, but that the sender of a request awaits its answer. -/
def Obligations.BadFloorMessagesAreDiscardedAndCounted : Prop :=
  ∀ op c m s, floorCmd op = some c → m.dstTile.toNat < 12 → s.floorBehind op m = false →
    ((m.srcTile.toNat < 12 ∧ (s.tile m.srcTile.toNat).fenced = true) → ∃ t, exec (c m) s = .next t ∧
      (t.tile m.dstTile.toNat).discarded = (s.tile m.dstTile.toNat).discarded + 1 ∧ t = { s with tiles := t.tiles, floor := t.floor }) ∧
    ((s.tile m.srcTile.toNat).fenced = false → s.connected m.srcTile.toNat m.dstTile.toNat = true → badMessage op m = true →
      ∃ t, exec (c m) s = .next t ∧
      (t.tile m.dstTile.toNat).protoErr = (if (s.tile m.dstTile.toNat).protoErr = BitVec.allOnes 64 then BitVec.allOnes 64
        else (s.tile m.dstTile.toNat).protoErr + 1) ∧
      (isRequest op = true → t.outstanding = s.outstanding ++ [({ op := op, msg := m }, s.floorCycles)] ∧
        t = { s with tiles := t.tiles, floor := t.floor, outstanding := t.outstanding, caches := t.caches }) ∧
      (isRequest op = false → t = { s with tiles := t.tiles, floor := t.floor }) ∧ ∀ d, d ≠ m.dstTile.toNat → t.tile d = s.tile d)

/-- R189, R195, R201, R227, R250: a non-coherent read of a line without an entry, held by its home's cache ways, is answered with the
line, or with its sector; a whole-line read that misses takes the set's miss entry. -/
def Obligations.NonCoherentReadsAreServedByTheHome : Prop :=
  ∀ op m s tma, let t' := m.dstTile.toNat; let hs := homeSlice tma; let sl := (s.tile t').slice hs.1
    let c : Instr := if op = .rdSector then .rdSector m else .rdLineNc m
    (op = .rdSector ∨ op = .rdLineNc) → Arrives s op m → t' < 12 → s.homeOf (requesterOf op m) (m.line * 128) = .ok (t', tma) →
    QuietHome s t' tma → isScratch tma = false →
    (∀ w l, sl.find hs.2.1 hs.2.2 = some (w, l) → ∃ t, exec c s = .next t ∧
      t.floor = s.floor.erase { op := op, msg := m } ++
        [{ op := .dataClean, msg := dataOf m (op = .rdSector) { data := l.data, poison := l.poison } }] ∧
      t.mem = s.mem ∧ (t.tile t').inTxn (tma / 128) = false) ∧
    (op = .rdLineNc → sl.find hs.2.1 hs.2.2 = none → sl.victim (tma / 128) = none → kfind sl.misses hs.2.1 = none → sl.misses.length < 32 →
      ∃ t, exec c s = .next t ∧ kfind ((t.tile t').slice hs.1).misses hs.2.1 = some { op := op, msg := m, home := some tma } ∧
        (t.tile t').inTxn (tma / 128) = true ∧ t.mem = s.mem)

/-- R189, R197, R228, R250, R251: a write, or an atomic at the home, of a line without an entry, which waits for no miss, no device and no
entry of the victim buffer, is performed and acknowledged: a line that the cache ways hold takes the bytes and is dirty; one that is neither held nor allocated, or lies
in a scratch way, takes them in its memory; an atomic leaves the new value and answers the old one. The answer goes back to its sender
with STATUS OK, the line is in no transaction, and the request is outstanding no more. -/
def Obligations.NonCoherentWritesArePerformedAndAcknowledged : Prop :=
  ∀ op m s tma, let t' := m.dstTile.toNat; let f : Flight := { op := op, msg := m }; let hs := homeSlice tma
    let w := writeOf op m; let k := memKey t' tma
    Arrives s op m → t' < 12 → s.homeOf (requesterOf op m) (m.line * 128) (decide (op = .wrLine)) = .ok (t', tma) → QuietHome s t' tma →
    s.writeWaits t' tma f false = false → tma % 128 = 0 →
    (∀ c, (op = .wrLine ∨ op = .wrMasked ∨ op = .wrSector) → floorCmd op = some c → ∃ t, exec (c m) s = .next t ∧
      t.floor = s.floor.erase f ++ [{ op := .ack, msg := ackOf m 0 }] ∧ (t.tile t').inTxn (tma / 128) = false ∧
      (∀ x ∈ t.outstanding, ¬ (x.1.msg.srcTile = m.srcTile ∧ x.1.msg.srcAgent = m.srcAgent ∧ x.1.msg.tag = m.tag)) ∧
      (∀ v l, isScratch tma = false → (s.tile t').streamEnable = false → ((s.tile t').slice hs.1).find hs.2.1 hs.2.2 = some (v, l) →
        t.mem = s.mem ∧ ∃ l', kfind ((t.tile t').slice hs.1).lines (hs.2.1 * 16 + v) = some l' ∧ l'.dirty = true ∧ l'.tag = hs.2.2 ∧
          l'.data = (LineData.merge { data := l.data, poison := l.poison } w.1 w.2).data) ∧
      ((isScratch tma = true ∨ (s.llmHas t' tma = false ∧ PlainDram s t' tma ∧
          (s.tile t').allocates ((s.tile t').slice hs.1) (requesterOf op m) (decide (op ≠ .wrSector)) = false)) → Memory.wf s.mem = true →
        (t.rawLine k).data = ((s.rawLine k).merge w.1 w.2).data ∧
        ∀ a, (a < k ∨ k + 128 ≤ a) → cellGet t.mem a = cellGet s.mem a)) ∧
    (op = .atomH → badAtom m = false → ∃ t r, exec (.atomH m) s = .next t ∧
      t.floor = s.floor.erase f ++ [r] ∧ r.op = (if byteFld m.data 18 1 = 1 then .atomOld else .ack) ∧
      r.msg.dstTile = m.srcTile ∧ r.msg.dstAgent = m.srcAgent ∧ r.msg.tag = m.tag ∧ r.msg.status = 0 ∧ (t.tile t').inTxn (tma / 128) = false ∧
      (∀ x ∈ t.outstanding, ¬ (x.1.msg.srcTile = m.srcTile ∧ x.1.msg.srcAgent = m.srcAgent ∧ x.1.msg.tag = m.tag)) ∧
      let o := m.addr.toNat % 128; let ty := byteFld m.data 17 1; let n := atypeBytes ty
      let old := fun (b : LineData) => b.get o n
      let new := fun (b : LineData) => (b.merge (lineOfBytes o n (atomNew (byteFld m.data 16 1) ty (old b) (byteFld m.data 0 8) (byteFld m.data 8 8)))
        (maskOfBytes o n)).data
      (∀ v l, isScratch tma = false → ((s.tile t').slice hs.1).find hs.2.1 hs.2.2 = some (v, l) →
        let b : LineData := { data := l.data, poison := l.poison }
        (byteFld m.data 18 1 = 1 → r.msg.data = BitVec.ofNat 1024 (old b)) ∧ t.mem = s.mem ∧
        ∃ l', kfind ((t.tile t').slice hs.1).lines (hs.2.1 * 16 + v) = some l' ∧ l'.dirty = true ∧ l'.tag = hs.2.2 ∧ l'.data = new b) ∧
      ((isScratch tma = true ∨ (s.llmHas t' tma = false ∧ PlainDram s t' tma ∧
          (s.tile t').allocates ((s.tile t').slice hs.1) (requesterOf op m) true = false)) → Memory.wf s.mem = true →
        (byteFld m.data 18 1 = 1 → r.msg.data = BitVec.ofNat 1024 (old (s.rawLine k))) ∧ (t.rawLine k).data = new (s.rawLine k) ∧
        ∀ a, (a < k ∨ k + 128 ≤ a) → cellGet t.mem a = cellGet s.mem a))

/-- R189, R419, R420, Table 7.4: a register message that its sender may make reads the register and brings its value, or writes it and is
acknowledged; one that its sender may not make is answered with DECODE_ERROR. -/
def Obligations.RegisterMessagesReadAndWriteRegisters : Prop :=
  ∀ m s a off n, State.floorAgent m = some a → regTarget m = some (off, n) → onTile m off = true →
    (Arrives s .regRd m → s.mayReach a off false = true → ∃ t r, exec (.regRd m) s = .next t ∧
      let f : Flight := { op := .regRd, msg := m }
      let u := { s with floor := s.floor.erase f, outstanding := s.outstanding ++ [(f, s.floorCycles)] }
      t.floor = u.floor ++ [r] ∧ r.op = .dataClean ∧ r.msg.dstTile = m.srcTile ∧ r.msg.tag = m.tag ∧
      r.msg.data = BitVec.ofNat 1024 (u.regRead off n) ∧ t = { u.noteRead off n with floor := t.floor, outstanding := t.outstanding }) ∧
    (Arrives s .regWr m → s.mayReach a off true = true → ∃ t, exec (.regWr m) s = .next t ∧
      let f : Flight := { op := .regWr, msg := m }
      let u := { s with floor := s.floor.erase f, outstanding := s.outstanding ++ [(f, s.floorCycles)] }.performWrite off n (fld m.data 0 (8 * n))
      t = { u with floor := t.floor, outstanding := t.outstanding } ∧ t.floor = u.floor ++ [{ op := .ack, msg := ackOf m 0 }] ∧
      (∀ x ∈ t.outstanding, ¬ (x.1.msg.srcTile = m.srcTile ∧ x.1.msg.srcAgent = m.srcAgent ∧ x.1.msg.tag = m.tag)) ∧
      (off = 0x1004014 + m.dstTile.toNat * 0x100000 → m.dstTile.toNat < 12 →
        kget 0 (t.tile m.dstTile.toNat).classMask 1 = BitVec.ofNat 16 (fld m.data 0 16))) ∧
    (∀ op c w, (op, c, w) ∈ [(FloorOp.regRd, Instr.regRd, false), (.regWr, .regWr, true)] → Arrives s op m → s.mayReach a off w = false →
      ∃ t, exec (c m) s = .next t ∧ t.floor = s.floor.erase { op := op, msg := m } ++ [{ op := .ack, msg := ackOf m MemErr.decode.status }] ∧
        t = { s with floor := t.floor, outstanding := t.outstanding })

/-- R218, R245, R261, R188, R190, R454: a request unanswered for 1 ms completes with TIMEOUT, with FENCED where its home is being fenced,
and with MEM_STOPPED where it waits for a critical device, and leaves its home; one held for a critical device for 1 ms completes with
MEM_STOPPED. -/
def Obligations.UnansweredRequestsTimeOut : Prop :=
  (∀ (st : Fin 13) ag tag s f at_, s.outstanding = [(f, at_)] → f.msg.srcTile.toNat = st.val → f.msg.srcAgent = ag → f.msg.tag = tag →
    at_ + 2000000 ≤ s.floorCycles → let d := f.msg.dstTile.toNat
    (∀ h ∈ (s.tile d).held, h.1.same f = true) → (∀ x ∈ (s.tile d).slices, ∀ g ∈ x.2.parked, f.same g = true) →
    ∃ t, exec (.floorRequestTimeout st ag tag) s = .next t ∧ t.outstanding = [] ∧
      t.floor = s.floor ++ [{ op := .ack, msg := ackOf f.msg (if (s.tile d).fenced ∨ (s.tile d).fence.isSome then MemErr.fenced.status
        else if s.heldCritical d f then MemErr.stopped.status else MemErr.timeout.status) }] ∧
      (t.tile d).held = [] ∧ (∀ x ∈ (t.tile d).txns, x.req.same f = false) ∧ t.mem = s.mem) ∧
  (∀ (st : Fin 13) ag tag s f at_ d, d < 12 → (∀ d', d' < d → (s.tile d').held = []) → (s.tile d).held = [(f, at_, 1)] →
    f.msg.srcTile.toNat = st.val → f.msg.srcAgent = ag → f.msg.tag = tag → at_ + 2000000 ≤ s.floorCycles →
    ∃ t, exec (.memStopped st ag tag) s = .next t ∧ (t.tile d).held = [] ∧
      t.floor = s.floor ++ [{ op := .ack, msg := ackOf f.msg MemErr.stopped.status }] ∧ t.mem = s.mem)

/-! ## Coherence -/

/-- R243, R245, R246, Table 8.4: a coherent request for a line without an entry: the home's entry names the requester as its owner, the
grant is COMP_E for RD_S and COMP_M for RD_X and UPG, and a line that the cache ways hold follows with it. -/
def Obligations.CoherentRequestsOfUnheldLinesAreGranted : Prop :=
  ∀ op c m s tma n w l, let t' := m.dstTile.toNat; let hs := homeSlice tma
    (op = .rdS ∨ op = .rdX ∨ op = .upg) → floorCmd op = some c → Arrives s op m → t' < 12 → senderCache m = some n →
    s.homeOf (requesterOf op m) (m.line * 128) = .ok (t', tma) → QuietHome s t' tma → isScratch tma = false →
    (s.tile t').dirFull (tma / 128) = false → (s.tile t').streamEnable = false →
    ((s.tile t').slice hs.1).find hs.2.1 hs.2.2 = some (w, l) →
    ∃ t, exec (c m) s = .next t ∧ t.entryOf t' tma = some { line := tma / 128, st := .x, owner := n } ∧
      t.floor = s.floor.erase { op := op, msg := m } ++ [{ op := if op = .rdS then .compE else .compM, msg := reply m 2 0 },
        { op := .dataClean, msg := dataOf m false { data := l.data, poison := l.poison } }] ∧
      (t.tile t').inTxn (tma / 128) = true ∧ t.mem = s.mem

/-- R27, R239, R248, R260, Table 8.5: a snoop of a cache that sleeps wakes it, and waits; else it changes the cache's line and answers as the table says: SNP_S makes M and E lines O and S and
forwards, SNP_X and SNP_INV drop the line, SNP_NC forwards and keeps it, SNP_INV_WB returns the data of M and O lines.

R245, R246: a snoop's answer takes its cache from the caches awaited: while another is awaited, the transaction stays with the
answer recorded; a stale answer changes nothing. -/
def Obligations.SnoopsAreAnsweredAndCollected : Prop :=
  (
  ∀ op k c m s n, let x := (s.cache n).snoop n m.line k
    (op, k) ∈ [(FloorOp.snpS, Snoop.s), (.snpX, .x), (.snpNc, .nc), (.snpInv, .inv), (.snpInvWb, .invWb)] → floorCmd op = some c →
    Arrives s op m → agentCache m.dstTile.toNat m.dstAgent.toNat = some n → s.cacheSilent n = false →
    (s.cacheAsleep n = true → ∃ t, exec (c m) s = .next t ∧ t.floor = s.floor ∧ t.caches = s.caches ∧ t.mem = s.mem ∧
      (isL1 n = false → (t.die (cacheTile n)).pll = true) ∧
      (isL1 n = true → kget .on (s.die (cacheTile n)).regions (n / 32 % 4) = .powerGated →
        kget .on (t.die (cacheTile n)).regions (n / 32 % 4) = .waking s.ticks false)) ∧
    (s.cacheAsleep n = false → ∃ t, exec (c m) s = .next t ∧ t.cache n = x.1 ∧ (∀ n', n' ≠ n → t.cache n' = s.cache n') ∧ t.mem = s.mem ∧
      (x.2.2 = none → t.floor = s.floor.erase { op := op, msg := m } ++ [{ op := answerOp x.2.1, msg := reply m 2 0 }]) ∧
      (∀ d, x.2.2 = some d → x.2.1 = .wbData → t.floor = s.floor.erase { op := op, msg := m } ++
        [{ op := .dataDirty, msg := { reply m 3 8 with data := d.data, poison := d.poison, writer := (s.cache n).writerOf n m.line } }]) ∧
      (∀ d, x.2.2 = some d → x.2.1 ≠ .wbData → ∃ g, t.floor = s.floor.erase { op := op, msg := m } ++ [g, { op := answerOp x.2.1, msg := reply m 2 0 }] ∧
        g.op = (if x.2.1 = .fwdI then .dataDirty else .dataClean) ∧ g.msg.dstTile = m.reqTile ∧ g.msg.dstAgent = m.reqAgent ∧
        g.msg.data = (dataOf m m.reqSector d).data))) ∧
  (
  ∀ op a c m s n x n', let t' := m.dstTile.toNat
    (op, a) ∈ [(FloorOp.snpMiss, Answer.miss), (.snpAckS, .ackS), (.snpAckI, .ackI), (.snpFwdO, .fwdO), (.snpFwdI, .fwdI),
      (.snpFwdKeep, .fwdKeep), (.snpAckKeep, .ackKeep)] → floorCmd op = some c → Arrives s op m → t' < 12 → senderCache m = some n →
    (s.txnFor t' m.line n = none → ∃ t, exec (c m) s = .next t ∧ t = { s with floor := s.floor.erase { op := op, msg := m } }) ∧
    (s.txnFor t' m.line n = some x → x.recallOf = none → n' ∈ x.waiting → n' ≠ n → ∃ t y, exec (c m) s = .next t ∧
      y ∈ (t.tile t').txns ∧ y.line = x.line ∧ y.waiting = x.waiting.filter (· ≠ n) ∧ y.granted = x.granted ∧
      y.fwd = (x.fwd || a = .fwdO || a = .fwdI || a = .fwdKeep) ∧ t.mem = s.mem))

/-- R239, R245, R246, Table 8.4: a write-back for a line of the home is acknowledged at once: from the line's owner its data reaches the home's
cache way or its memory, and the entry loses the owner; from any other cache it is discarded, and the entry stays. The acknowledgement
frees the cache's buffer entry.

R247: at a requester, a line is installed once its grant and its data have come, whichever comes first: in the state granted, or M
where the data is dirty; the requester then sends CACK. Until then the request waits. -/
def Obligations.WriteBacksGrantsAndDataReachTheirLine : Prop :=
  (
  (∀ m s n tma, let t' := m.dstTile.toNat
    Arrives s .wb m → t' < 12 → senderCache m = some n → s.decodePa (requesterOf .wb m) (m.line * 128) = .ok (.dram t' tma) →
    m.part.toNat = s.partOf t' → s.beingTaken t' tma = false → (∀ w l, (s.cache n).find n m.line = some (w, l) → l.st ≠ .m ∧ l.st ≠ .o) →
    ∃ t, exec (.wb m) s = .next t ∧ (∃ pre, t.floor = pre ++ [{ op := .wbAck, msg := reply m 2 0 }]) ∧
      ((∀ d, d < 12 → (s.tile d).fenced = false) → (∀ u ∈ s.upsets, u.mem ≠ .slice) → isScratch tma = false →
        ∀ v e, let k := s.tile t'; let hs := homeSlice tma
        k.dirFind (tma / 128) = some (v, e) → kwf k.dir = true →
        (∀ p ∈ k.dir, p.2.line = tma / 128 → k.dirFind (tma / 128) = some (p.1 % 16, p.2)) →
        (e.holder ≠ some n → t.entryOf t' tma = some e ∧ t.mem = s.mem) ∧
        (e.holder = some n → t.entryOf t' tma = e.remove n ∧
          (∀ w l, k.streamEnable = false → (k.slice hs.1).find hs.2.1 hs.2.2 = some (w, l) → t.mem = s.mem ∧
            ∃ l', kfind ((t.tile t').slice hs.1).lines (hs.2.1 * 16 + w) = some l' ∧ l'.dirty = true ∧ l'.tag = hs.2.2 ∧ l'.data = m.data) ∧
          (s.llmHas t' tma = false → (∀ sl, k.allocates sl (requesterOf .wb m) true = false) → PlainDram s t' tma →
            s.deviceHeld t' tma = false → (t.rawLine (memKey t' tma)).data = m.data)))) ∧
  (∀ m s n, Arrives s .wbAck m → agentCache m.dstTile.toNat m.dstAgent.toNat = some n →
    ∃ t, exec (.wbAck m) s = .next t ∧ (t.cache n).wbuf = (s.cache n).wbuf.filter (fun x => x.line ≠ m.line) ∧
      (t.cache n).lines = (s.cache n).lines ∧ t.mem = s.mem ∧ t.tiles = s.tiles)) ∧
  (
  (∀ op g c m s n q w l, let line := m.line
    (op, g) ∈ [(FloorOp.compS, LineState.s), (.compE, .e), (.compM, .m)] → floorCmd op = some c → Arrives s op m →
    agentCache m.dstTile.toNat m.dstAgent.toNat = some n → (s.cache n).reqs = [q] → q.line = line →
    (q.needData = true → q.data = none → ∃ t, exec (c m) s = .next t ∧
      (t.cache n).reqs = [{ q with grant := some g, home := m.srcTile.toNat }] ∧ (t.cache n).lines = (s.cache n).lines) ∧
    (∀ d, q.data = some d → (s.cache n).find n line = some (w, l) → ∃ t k, exec (c m) s = .next t ∧ (t.cache n).reqs = [] ∧
      ((t.cache n).find n line).map (fun x => (x.2.st, x.2.data)) = some (if q.dirty then .m else g, d.1) ∧
      t.floor = s.floor.erase { op := op, msg := m } ++ [k] ∧ k.op = .cack ∧ k.msg.tag = q.tag)) ∧
  (∀ op c m s n q g w l, let line := m.line
    (op = .dataClean ∨ (op = .dataDirty ∧ 128 ≤ m.dstAgent.toNat)) → floorCmd op = some c → Arrives s op m →
    agentCache m.dstTile.toNat m.dstAgent.toNat = some n → (s.cache n).reqs = [q] → q.line = line → q.grant = some g →
    (s.cache n).find n line = some (w, l) → ∃ t, exec (c m) s = .next t ∧ (t.cache n).reqs = [] ∧
      ((t.cache n).find n line).map (fun x => (x.2.st, x.2.data)) = some (if q.dirty || op = .dataDirty then .m else g, m.data)) ∧
  (∀ m s, Arrives s .atomOld m → ∃ t, exec (.atomOld m) s = .next t ∧
    (∀ x ∈ t.outstanding, ¬ (x.1.msg.srcTile = m.dstTile ∧ x.1.msg.srcAgent = m.dstAgent ∧ x.1.msg.tag = m.tag)) ∧
    t = { s with floor := t.floor, outstanding := t.outstanding }))

/-- R243, R245, R259 to R261: CACK ends the requester's transaction; a recall whose snoops are answered frees its victim's entry; a
cache that is purged of a fenced tile drops that tile's lines and answers, its PURGE_DONE is noted, a line purged is written by the home
that took its unit over and completes with FENCED elsewhere, and a fence scan ends.

R197, R199 to R201, R454: a fill that nothing waits behind gives its request the line of the memory, is kept in the cache ways where it
allocates, and frees the miss entry; the oldest dirty victim is written to its device; an entry of the stream detector without a match loses its count; a snoop unanswered for 1 ms starts the fence of the silent
cache's die. -/
def Obligations.TransactionsFillsAndRecallsEnd : Prop :=
  (
  (∀ m s x, let t' := m.dstTile.toNat
    Arrives s .cack m → t' < 12 → (s.tile t').txns = [x] → x.granted = true → x.req.op.isCache = true → x.req.msg.srcTile = m.srcTile →
    x.req.msg.srcAgent = m.srcAgent → x.req.msg.line = m.line → (s.tile t').held = [] → (∀ y ∈ (s.tile t').slices, y.2.parked = []) →
    ∃ t, exec (.cack m) s = .next t ∧ (t.tile t').txns = [] ∧ t.mem = s.mem) ∧
  (∀ (d : Fin 12) line s x v, (s.tile d.val).txns = [x] → (s.tile d.val).dirFind line = some v → x.recallOf = some line → x.waiting = [] → x.ret = none → (s.tile d.val).held = [] →
    (∀ y ∈ (s.tile d.val).slices, y.2.parked = []) →
    (∀ k, k < 12 → (s.tile k).fenced = false) → kwf (s.tile d.val).dir = true → x.req.op = .rdS → line ≠ x.line →
    dirSet line = dirSet x.line → (∀ p ∈ (s.tile d.val).dir, p.2.line = line → (s.tile d.val).dirFind line = some (p.1 % 16, p.2)) →
    (s.tile d.val).dirFind x.line = none →
    ∃ t, exec (.directoryRecall d line) s = .next t ∧ t.entryOf d.val (line * 128) = none ∧
      t.entryOf d.val (x.line * 128) = some { line := x.line, st := .x, owner := (senderCache x.req.msg).getD 0 }) ∧
  (∀ m s n, let f := m.addr.toNat % 16
    Arrives s .purge m → agentCache m.dstTile.toNat m.dstAgent.toNat = some n → s.cacheSilent n = false → s.cacheAsleep n = false →
    ∃ t, exec (.purge m) s = .next t ∧ (∀ p ∈ (t.cache n).lines, p.2.home ≠ f) ∧ (∀ l ∈ (t.cache n).wbuf, l.home ≠ f) ∧
      (∀ p ∈ (s.cache n).lines, p.2.home ≠ f → p ∈ (t.cache n).lines) ∧
      ∃ pre d, t.floor = pre ++ [d] ∧ d.op = .purgeDone ∧ d.msg.addr.toNat = f) ∧
  (∀ m s n, Arrives s .purgeDone m → senderCache m = some n → (∀ d, d < 12 → (s.tile d).taking = []) →
    ∃ t, exec (.purgeDone m) s = .next t ∧ t.hub.purges = s.hub.purges.filter (· ≠ (n, m.addr.toNat % 16))) ∧
  (∀ m s d tma, Arrives s .purgeWb m → s.decodePa (requesterOf .purgeWb m) (m.line * 128) = .ok (.dram d tma) →
    let answers := fun (st : Nat) => ∃ t, exec (.purgeWb m) s = .next t ∧
      t.floor = s.floor.erase { op := .purgeWb, msg := m } ++ [{ op := .ack, msg := ackOf m st }] ∧
      (st ≠ 0 → t.mem = s.mem) ∧
      (st = 0 → s.llmHas d tma = false → (∀ sl, (s.tile d).allocates sl (requesterOf .purgeWb m) true = false) → PlainDram s d tma →
        s.deviceHeld d tma = false → isScratch tma = false → (t.rawLine (memKey d tma)).data = m.data)
    (s.partOf d ≠ m.part.toNat → answers MemErr.decode.status) ∧
    (s.partOf d = m.part.toNat → (d ≠ m.dstTile.toNat ∨ s.takenOver d tma = false) → answers MemErr.fenced.status) ∧
    (s.partOf d = m.part.toNat → d = m.dstTile.toNat → s.takenOver d tma = true → answers 0)) ∧
  (∀ (d f : Fin 12) s, f.val ∈ (s.tile d.val).scans → ∃ t, exec (.directoryFenceScan d f) s = .next t ∧
    f.val ∉ (t.tile d.val).scans ∧ ∀ g ∈ (s.tile d.val).scans, g ≠ f.val → g ∈ (t.tile d.val).scans)) ∧
  (
  (∀ (d : Fin 12) (j : Fin 128) (set : Fin 1024) s f, let sl := (s.tile d.val).slice j.val
    let tma := s.tmaAt f; let r := requesterOf f.op f.msg
    kwf sl.misses = true → kfind sl.misses set.val = some f → sl.victims.length < 8 → s.deviceHeld d.val tma = false →
    homeSlice tma = (j.val, set.val, (homeSlice tma).2.2) → s.llmHas d.val tma = false → PlainDram s d.val tma →
    (∀ y ∈ (s.tile d.val).slices, y.2.parked = []) → (s.tile d.val).held = [] →
    ∃ t, exec (.lineFillComplete d j set) s = .next t ∧ kfind ((t.tile d.val).slice j.val).misses set.val = none ∧
      t.floor = s.floor ++ [{ op := .dataClean, msg := dataOf f.msg (f.op = .rdSector) (s.rawLine (memKey d.val tma)) }] ∧ t.mem = s.mem ∧
      (f.bypass = false → (s.tile d.val).allocates sl r true = true →
        (∃ w, w < 16 ∧ ((s.tile d.val).allocWays sl r.cls).getLsbD w = true ∧ kfind sl.lines (set.val * 16 + w) = none) →
        ∃ w l, ((t.tile d.val).slice j.val).find set.val (homeSlice tma).2.2 = some (w, l) ∧ l.dirty = false ∧
          l.data = (s.rawLine (memKey d.val tma)).data)) ∧
  (∀ (d : Fin 12) (j : Fin 128) s v rest, ((s.tile d.val).slice j.val).victims = v :: rest → s.deviceHeld d.val (v.1 * 128) = false →
    (∀ y ∈ (s.tile d.val).slices, y.2.parked = []) → (s.tile d.val).held = [] → PlainDram s d.val (v.1 * 128) →
    ∃ t, exec (.victimWriteback d j) s = .next t ∧ ((t.tile d.val).slice j.val).victims = rest ∧ t.floor = s.floor ∧
      (t.rawLine (memKey d.val (v.1 * 128))).data = v.2.1 ∧
      ∀ a, (a < memKey d.val (v.1 * 128) ∨ memKey d.val (v.1 * 128) + 128 ≤ a) → cellGet t.mem a = cellGet s.mem a) ∧
  (∀ (d : Fin 12) (e : Fin 16) s x, kfind (s.tile d.val).streamEntries e.val = some x →
    x.last + 2 ^ (s.tile d.val).gapExp.toNat < s.floorCycles →
    ∃ t, exec (.streamEntryReset d e) s = .next t ∧ kfind (t.tile d.val).streamEntries e.val = some { x with count := 0 } ∧
      (∀ k, k ≠ d.val → t.tile k = s.tile k)) ∧
  (∀ (d : Fin 12) s x n, (s.tile d.val).txns = [x] → x.recallOf = none → x.waiting = [n] → x.start + 2000000 ≤ s.floorCycles →
    (s.tile (cacheTile n)).fenced = false → (s.tile (cacheTile n)).fence = none →
    ∃ t, exec (.snoopTimeout d x.line) s = .next t ∧ (t.tile (cacheTile n)).fence = some (1, s.floorCycles)))

end
namespace Sys2Proof.Machine

/-- A register write that the agent may make, on a module whose hub is up (R419, R420, Table 14.2). -/
def MayWrite (s : State) (a : Agent) (off : Nat) : Prop :=
  s.accessReaches a = true ∧ s.mayReach a off true = true

/-- The commands of frames, by TYPE (Table 9.8). -/
def frameCmd : BitVec 8 → Option (Fin 96 → Frame → Instr)
  | 0x01 => some .rrdFrame | 0x02 => some .rwrFrame | 0x03 => some .ratomFrame | 0x04 => some .rmsgFrame
  | 0x08 => some .rrdData | 0x09 => some .rwrAck | 0x0A => some .ratomOld | 0x0B => some .rmsgAck | 0x0C => some .linkNak
  | 0x10 => some .collData | 0x11 => some .collAbort | _ => none

/-- A frame that an ACTIVE link of a partition with a PID keeps in its buffer, well formed (R281, R282). -/
def InBuffer (s : State) (l : Fin 96) (fr : Frame) : Prop :=
  (s.link l.val).rxq = [fr] ∧ fr.badReason = none

/-- Only link l of the module's units changes. -/
def LinkOnly (s t : State) (l : Nat) : Prop := t = { s with links := t.links } ∧ ∀ m, m ≠ l → t.link m = s.link m

end Sys2Proof.Machine

section

open Sys2Proof Sys2Proof.Machine

/-! ## Last-level memory, DRAM and translation -/

/-- R203, R204, R206 to R209: SCRATCH_WAYS, LLM_ENABLE and the stream detector's control take what an agent that may write them writes,
within range, and leave the window's configuration dirty; a conversion to scratch ends after 1,536 cycles with the way a scratch way that
reads zero, and one to cache after 1,024. -/
def Obligations.LastLevelMemoryFollowsItsControls : Prop :=
  (∀ a (d : Fin 12) (j : Fin 128) (v : BitVec 32) s, v.toNat < 65536 → MayWrite s a (tileOff d.val (0x4800 + 4 * j.val)) →
    ∃ t, exec (.flrLlmSliceCfg a d j v) s = .next t ∧ ((t.tile d.val).slice j.val).target = v.truncate 16 ∧
      ((t.tile d.val).slice j.val).scratch = ((s.tile d.val).slice j.val).scratch ∧ (t.tile d.val).crc.dirty = true ∧ t.mem = s.mem) ∧
  (∀ a (d : Fin 12) (v : BitVec 32) s, v.toNat < 2 → MayWrite s a (tileOff d.val 0x4000) →
    ∃ t, exec (.flrLlmCtl a d v) s = .next t ∧ (t.tile d.val).llmEnable = decide (v = 1) ∧ (t.tile d.val).crc.dirty = true) ∧
  (∀ a (d : Fin 12) (v : BitVec 32) s, v.toNat < 65536 → 16 ≤ fld v 1 10 → 8 ≤ fld v 11 5 → fld v 11 5 ≤ 16 →
    MayWrite s a (tileOff d.val 0x4040) →
    ∃ t, exec (.flrStreamCtl a d v) s = .next t ∧ (t.tile d.val).streamEnable = v.getLsbD 0 ∧ (t.tile d.val).threshold.toNat = fld v 1 10 ∧
      (t.tile d.val).gapExp.toNat = fld v 11 5 ∧ (v.getLsbD 0 = false → (t.tile d.val).streamEntries = []) ∧
      (t.tile d.val).crc.dirty = true ∧ t.mem = s.mem) ∧
  (∀ (d : Fin 12) (j : Fin 128) s c, ((s.tile d.val).slice j.val).conv = some c → c.toScratch = true → c.way < 16 →
    c.start + 1536 ≤ s.arithCycles d.val → ((s.tile d.val).slice j.val).wayLines c.way = [] → (s.tile d.val).held = [] →
    (∀ y ∈ (s.tile d.val).slices, y.2.parked = []) →
    ∃ t, exec (.wayToScratch d j) s = .next t ∧ ((t.tile d.val).slice j.val).scratch.getLsbD c.way = true ∧
      (∀ a, memKey d.val (scratchTma j.val c.way 0) ≤ a → a < memKey d.val (scratchTma j.val c.way 0) + 131072 → cellGet t.mem a = 0) ∧
      (∀ a, (a < memKey d.val (scratchTma j.val c.way 0) ∨ memKey d.val (scratchTma j.val c.way 0) + 131072 ≤ a) →
        Memory.wf s.mem = true → cellGet t.mem a = cellGet s.mem a)) ∧
  (∀ (d : Fin 12) (j : Fin 128) s c, ((s.tile d.val).slice j.val).conv = some c → c.toScratch = false → c.way < 16 →
    c.start + 1024 ≤ s.arithCycles d.val → (s.tile d.val).scratchLines j.val c.way = [] → (s.tile d.val).held = [] →
    (∀ y ∈ (s.tile d.val).slices, y.2.parked = []) →
    ∃ t, exec (.scratchToCache d j) s = .next t ∧ ((t.tile d.val).slice j.val).scratch.getLsbD c.way = false)

/-- R216 to R220: a sample sets a device's temperature and stage, a refresh counts on its bank, a clean scrub leaves memory, and an
uncorrectable one without a mirror poisons its sector, and a repair takes a spare row and ends the candidate, with
the row's errors corrected or its sectors poisoned. -/
def Obligations.DramDevicesFollowTheirEvents : Prop :=
  (∀ (d : Fin 12) dev temp s, let x := kget {} (s.tile d.val).drams (devNum dev)
    (s.tile d.val).up = true → s.power.tripped = false → temp < 100 → x.stage.toNat < 4 →
    ∃ t, exec (.dramTempSample d dev temp) s = .next t ∧ (kget {} (t.tile d.val).drams (devNum dev)).temp = temp ∧
      (kget {} (t.tile d.val).drams (devNum dev)).stage.toNat = stageAfter x.stage.toNat temp ∧ t.mem = s.mem) ∧
  (∀ (d : Fin 12) dev bank s, (kget {} (s.tile d.val).drams (devNum dev)).stage ≠ 5 → s.power.standby = false → s.power.coolStop = false →
    ∃ t, exec (.refresh d dev bank) s = .next t ∧
      kget 0 (kget {} (t.tile d.val).drams (devNum dev)).refreshes bank = kget 0 (kget {} (s.tile d.val).drams (devNum dev)).refreshes bank + 1 ∧
      (∀ k, k ≠ d.val → t.tile k = s.tile k) ∧ t = { s with tiles := t.tiles }) ∧
  (∀ (d : Fin 12) dev sector mirror s,
    let tma := tmaOf (devNum dev) (sector * 32 % (if devNum dev = 0 then 2 ^ 37 else 2 ^ 36))
    s.power.standby = false → s.deviceHeld d.val tma = false → kget .clean s.dramErrs (memKey d.val tma / 32) = .clean → s.llmDirty d.val (tma / 128 * 128) = false → s.mirrorOf d.val tma = none →
    (∃ t, exec (.scrub d dev sector .clean mirror) s = .next t ∧ t.mem = s.mem ∧ t.poison = s.poison) ∧
    (∃ t, exec (.scrub d dev sector .uncorrectable mirror) s = .next t ∧ memKey d.val tma / 32 ∈ t.poison ∧ t.mem = s.mem)) ∧
  (∀ (d : Fin 12) dev (bank : Fin 256) (row : BitVec 32) s x, x = kget {} (s.tile d.val).drams (devNum dev) → row.toNat < 2 ^ 20 →
    x.candidates = [(bank.val * 2 ^ 20 + row.toNat, false)] → 0 < s.sparesOf d.val (devNum dev) bank.val → kwf s.dramErrs = true →
    (∀ e, (s.tile e).held = [] ∧ (s.tile e).draining = false ∧ ∀ y ∈ (s.tile e).slices, y.2.parked = []) →
    ∃ t, exec (.dramRepair d dev bank row) s = .next t ∧ (kget {} (t.tile d.val).drams (devNum dev)).candidates = [] ∧
      kget 0 (kget {} (t.tile d.val).drams (devNum dev)).spares bank.val = s.sparesOf d.val (devNum dev) bank.val - 1 ∧
      bank.val * 2 ^ 20 + row.toNat ∈ (kget {} (t.tile d.val).drams (devNum dev)).repaired ∧
      ∀ e ∈ s.rowErrs d.val (devNum dev) bank.val row.toNat, kget .clean t.dramErrs (memKey d.val e.1 / 32) = .clean ∧
        (e.2 = .uncorrectable → memKey d.val e.1 / 32 ∈ t.poison))

/-- R233 to R236: a walk for an address that a cached translation serves changes nothing; HUB_XLAT_INV_CTL queues an invalidation of the
contexts' entries on the dies it names, and its completion takes it from the queue, writes DONE_SEQ, and leaves no entry of the
context on those dies. -/
def Obligations.TranslationsAreWalkedAndInvalidated : Prop :=
  (∀ (d : Fin 12) (ctx : Fin 32) atp adHw (va : BitVec 64) acc s e, let k := s.tile d.val
    (k.tlbSmall ++ k.tlbMid ++ k.tlbBig).find? (fun e => e.matches_ ctx.val (atpAsid atp) va.toNat && e.serves acc) = some e →
    ∃ t, exec (.pageWalk d ctx atp adHw va acc) s = .next t ∧ t = s) ∧
  (∀ (d : Fin 12) (ctx : Fin 32) atp adHw (va : BitVec 64) acc s s₁ e, let k := s.tile d.val
    canonical va.toNat = true → (k.tlbSmall ++ k.tlbMid ++ k.tlbBig).find? (fun e => e.matches_ ctx.val (atpAsid atp) va.toNat && e.serves acc) = none →
    s.walk d.val ctx.val (atpAsid atp) adHw va.toNat acc 4 (atpRoot atp) = (s₁, .ok e) →
    ∃ t, exec (.pageWalk d ctx atp adHw va acc) s = .next t ∧
      e ∈ (t.tile d.val).tlbSmall ++ (t.tile d.val).tlbMid ++ (t.tile d.val).tlbBig ∧ t.mem = s₁.mem) ∧
  (∀ a (v : BitVec 64) s, MayWrite s a 0x42008 → s.hub.invs.length < 16 → fld v 23 1 = 0 → fld v 36 12 = 0 → fld v 24 12 ≠ 0 →
    ∃ t, exec (.hubXlatInvCtl a true v) s = .next t ∧ t.hub.invs = s.hub.invs ++ [(s.hub.invVa, v)] ∧ t.hub.invCtl = v ∧
      t.hub.refused = false ∧ t.hub.doneSeq = s.hub.doneSeq) ∧
  (∀ s va c rest d, s.hub.invs = (va, c) :: rest → d < 12 → bit c (24 + d) = true → fld c 21 2 = 0 → kwf s.tiles = true →
    ∃ t, exec .xlatInvalidationComplete s = .next t ∧ t.hub.invs = rest ∧ t.hub.doneSeq.toNat = fld c 48 16 ∧
      (∀ e ∈ (t.tile d).tlbSmall ++ (t.tile d).tlbMid ++ (t.tile d).tlbBig, e.context ≠ fld c 16 5) ∧
      (∀ p ∈ t.cores, p.1 / 128 = d → ∀ e ∈ p.2.tlb, e.context ≠ fld c 16 5) ∧ t.mem = s.mem)

/-! ## Links -/

/-- R267, R268, R272, R301, R302, R403: LNK_CTL: ENABLE of a link that is OFF begins its training, but for one of a module that
is not READY or of a fenced tile, which stays OFF; clearing it makes the link OFF; RETRAIN of
an ACTIVE link enters RETRAIN; LANE_EN takes its value; LANE_REENABLE clears DECOM.

R264, R267 to R272, Table 9.4: a link's training: equalised lanes go to lock, lock to the exchange of identities, a second equal
identity block that matches makes the link ACTIVE on the common lanes and another one ISOLATED; an identity block is sent when due; an
attempt of 5 ms is repeated; a link DOWN for 1 s is trained again; RETRAIN for 100 ms ends DOWN; a training pattern retrains an ACTIVE link. -/
def Obligations.LinksTrainAndObeyTheirControl : Prop :=
  (
  ∀ a (l : Fin 96) s, let k := s.link l.val; MayWrite s a (lnkCtlOff l.val) →
    (k.state = .off → k.enable = false → s.linksRun (l.val / 8) = false → ∃ t, exec (.lnkCtlEnable a l 1) s = .next t ∧
      (t.link l.val).enable = true ∧ (t.link l.val).state = .off) ∧
    (k.state = .off → k.enable = false → k.decom ≠ 3 → s.linksRun (l.val / 8) = true → ∃ t, exec (.lnkCtlEnable a l 1) s = .next t ∧ (t.link l.val).enable = true ∧
      (t.link l.val).state = (if s.trains (l.val / 8) then .wait else .train) ∧ (s.trains (l.val / 8) = false → (t.link l.val).step = 1)) ∧
    (k.state ≠ .off → k.enable = true → ∃ t, exec (.lnkCtlEnable a l 0) s = .next t ∧ (t.link l.val).enable = false ∧
      (t.link l.val).state = .off ∧ (t.link l.val).replay = [] ∧ (t.link l.val).rxq = []) ∧
    (k.state = .active → ∃ t, exec (.retrain a l) s = .next t ∧ (t.link l.val).state = .retrain ∧ (t.link l.val).resume = true ∧
      (t.link l.val).replay = k.replay ∧ (t.link l.val).seq = k.seq + 1) ∧
    (∀ v, ∃ t, exec (.laneEn a l v) s = .next t ∧ (t.link l.val).laneEn = v ∧ (t.link l.val).enable = k.enable) ∧
    (k.fenced = false → ∃ t, exec (.laneReenable a l) s = .next t ∧ (t.link l.val).decom = 0 ∧ (t.link l.val).eqFails = [] ∧
      (t.link l.val).state = k.state)) ∧
  (
  (∀ (l : Fin 96) good s, (s.link l.val).step = 1 → (s.link l.val).offered &&& good ≠ 0 → (∀ i, i < 2 → kget 0 (s.link l.val).eqFails i = 0) →
    ∃ t, exec (.equalisationComplete l good) s = .next t ∧ (t.link l.val).step = 2 ∧ (t.link l.val).good = (s.link l.val).offered &&& good ∧
      LinkOnly s t l.val) ∧
  (∀ (l : Fin 96) s, (s.link l.val).step = 2 → ∃ t, exec (.codewordLock l) s = .next t ∧ (t.link l.val).step = 3 ∧
    (t.link l.val).identRun = 0 ∧ LinkOnly s t l.val) ∧
  (∀ (l : Fin 96) b s, let k := s.link l.val; b.formOk = true → k.step = 3 → k.ident = some b → 1 ≤ k.identRun →
    k.offered &&& k.good &&& b.lanes.truncate 2 ≠ 0 →
    ∃ t, exec (.identityBlock l b) s = .next t ∧ (t.link l.val).state = (if s.identMatches (l.val / 8) b then .active else .isolated) ∧
      (t.link l.val).lanes = k.offered &&& k.good &&& b.lanes.truncate 2 ∧ (t.link l.val).step = 0 ∧ (t.link l.val).peerSelf = b.self) ∧
  (∀ (l : Fin 96) s, (s.link l.val).step = 3 → (s.link l.val).identAt = none → ∃ t, exec (.identityBlockSend l) s = .next t ∧
    (t.link l.val).lastIdent = some (s.identBlock l.val) ∧ (t.link l.val).identAt = some s.floorCycles ∧ LinkOnly s t l.val ∧
    ∃ x, (t.link l.val).lastSent = some x ∧ x.first = 125 ∧ x.seq = (s.link l.val).txSeq ∧ x.area = (s.identBlock l.val).area ∧
      x.crc.toNat = x.crcOf % 2 ^ 32) ∧
  (∀ (l : Fin 96) s, (s.link l.val).step ≠ 0 → (s.link l.val).attemptAt + 10000000 ≤ s.floorCycles → (s.link l.val).attempts < 2 →
    ∃ t, exec (.trainingAttemptTimeout l) s = .next t ∧ (t.link l.val).attempts = (s.link l.val).attempts + 1 ∧ (t.link l.val).step = 1 ∧
      (t.link l.val).attemptAt = s.floorCycles ∧ LinkOnly s t l.val) ∧
  (∀ (l : Fin 96) s, let k := s.link l.val; k.state = .down → k.enable = true → k.fenced = false → k.decom ≠ 3 →
    k.downAt + 2000000000 ≤ s.floorCycles → s.trains (l.val / 8) = false →
    ∃ t, exec (.linkDownRetry l) s = .next t ∧ (t.link l.val).state = .train ∧ (t.link l.val).step = 1 ∧ LinkOnly s t l.val) ∧
  (∀ (l : Fin 96) s, (s.link l.val).state = .retrain → (s.link l.val).retrainAt + 200000000 ≤ s.floorCycles →
    ∃ t, exec (.retrainTimeout l) s = .next t ∧ (t.link l.val).state = .down ∧ (t.link l.val).lanes = 0 ∧ (t.link l.val).downAt = s.floorCycles) ∧
  (∀ (l : Fin 96) s, (s.link l.val).state = .active → ∃ t, exec (.trainingPatternReceived l) s = .next t ∧ (t.link l.val).state = .retrain ∧
    (t.link l.val).replay = (s.link l.val).replay))

/-- R264, R265, R273 to R275: blocks on a link: an uncorrectable codeword is counted and asks for a replay; a block with a wrong CRC asks
for a replay; a good block brings its acknowledgement and its credits, an empty one (FIRST 127) nothing else, one with the awaited SEQ is
taken, and one that comes too soon asks for a replay. A block sent while one waits for replay is that one; with a queued frame that has
its credits it carries the frame, takes the next SEQ and is kept for replay; without frames it is empty, with the next SEQ unchanged. -/
def Obligations.LinkBlocksAreReceivedAndSent : Prop :=
  (∀ (l : Fin 96) b s, let k := s.link l.val; k.state = .active → k.step = 0 → (k.carrying = 3 → b.lost = 0 ∨ b.lost = 3) →
    b.decodes = false → k.badRun < 7 →
    ∃ t, exec (.linkBlockReceived l b) s = .next t ∧ (t.link l.val).uncorr = satAdd k.uncorr 1 ∧ (t.link l.val).badRun = k.badRun + 1 ∧
      (t.link l.val).nak = true ∧ (t.link l.val).rxSeq = k.rxSeq ∧ LinkOnly s t l.val) ∧
  (∀ (l : Fin 96) b s, let k := s.link l.val; k.state = .active → k.step = 0 → (k.carrying = 3 → b.lost = 0 ∨ b.lost = 3) →
    b.decodes = true → b.corr0 = 0 → b.corr1 = 0 → k.winStart + 2000000000 ≤ s.floorCycles → b.crc.toNat ≠ b.crcOf →
    ∃ t, exec (.linkBlockReceived l b) s = .next t ∧ (t.link l.val).nak = true ∧ (t.link l.val).rxSeq = k.rxSeq ∧ (t.link l.val).rxq = k.rxq ∧
      LinkOnly s t l.val) ∧
  (∀ (l : Fin 96) b s, let k := s.link l.val; k.state = .active → k.step = 0 → (k.carrying = 3 → b.lost = 0 ∨ b.lost = 3) →
    b.decodes = true → b.corr0 = 0 → b.corr1 = 0 → k.winStart + 2000000000 ≤ s.floorCycles → b.crc.toNat = b.crcOf →
    b.nak = 0 → b.stopped = 0 →
    (b.first = 127 → ∃ t, exec (.linkBlockReceived l b) s = .next t ∧ (t.link l.val).rxSeq = k.rxSeq ∧ (t.link l.val).rxq = k.rxq ∧
      (∀ q fi ar more, k.replay = (q, fi, ar) :: more → b.ackSeq = q + 1 → (t.link l.val).replay = more) ∧
      (∀ v, v < 3 → b.crVc.toNat = v → (t.link l.val).credit v = k.credit v + (b.crCount - kget 0 k.crSeen v).toNat)) ∧
    (b.first ≠ 127 → b.first ≠ 125 → b.seq = k.rxSeq → ∃ t, exec (.linkBlockReceived l b) s = .next t ∧
      (t.link l.val).rxSeq = k.rxSeq + 1 ∧ (t.link l.val).nak = false) ∧
    (b.first ≠ 127 → b.first ≠ 125 → b.seq ≠ k.rxSeq → (b.seq - k.rxSeq).toNat < 2048 → ∃ t, exec (.linkBlockReceived l b) s = .next t ∧
      (t.link l.val).rxSeq = k.rxSeq ∧ (t.link l.val).rxq = k.rxq ∧ (t.link l.val).nak = true)) ∧
  (∀ (l : Fin 96) s q first area more, let k := s.link l.val; k.state = .active → k.resend = (q, first, area) :: more →
    ∃ t x, exec (.linkBlockSend l) s = .next t ∧ (t.link l.val).lastSent = some x ∧ x.seq = q ∧ x.first = first ∧ x.area = area ∧
      x.ackSeq = k.rxSeq ∧ x.crc.toNat = x.crcOf % 2 ^ 32 ∧ (t.link l.val).resend = more ∧ (t.link l.val).txSeq = k.txSeq ∧ LinkOnly s t l.val) ∧
  (∀ (l : Fin 96) s, let k := s.link l.val; k.state = .active → k.resend = [] → k.txPart = [] → k.txq = [] →
    ∃ t x, exec (.linkBlockSend l) s = .next t ∧ (t.link l.val).lastSent = some x ∧ x.seq = k.txSeq ∧ x.first = 127 ∧
      (t.link l.val).txSeq = k.txSeq ∧ (t.link l.val).replay = k.replay ∧ LinkOnly s t l.val) ∧
  (∀ (l : Fin 96) s fr, let k := s.link l.val; k.state = .active → k.resend = [] → k.txPart = [] → k.txq = [fr] →
    fr.need ≤ k.credit fr.vc.toNat → k.replay.length < 256 → fr.bytes ≠ [] →
    ∃ t x, exec (.linkBlockSend l) s = .next t ∧ (t.link l.val).lastSent = some x ∧ x.seq = k.txSeq ∧ x.first = 0 ∧
      x.area = (fr.bytes ++ List.replicate 632 0).take 632 ∧ (t.link l.val).txq = [] ∧ (t.link l.val).txPart = fr.bytes.drop 632 ∧
      (t.link l.val).txSeq = k.txSeq + 1 ∧ (t.link l.val).replay = k.replay ++ [(k.txSeq, x.first, x.area)] ∧
      (t.link l.val).credit fr.vc.toNat = k.credit fr.vc.toNat - fr.need ∧ t = { s with links := t.links, tiles := t.tiles })

/-! ## Frames and collectives -/

/-- R281, R282, R303, Table 9.8: a frame of each TYPE on a link that is not ACTIVE is dropped and counted in FOREIGN, with no other effect on
memory or on a transaction; the frame's credits return.

R279, R281: a frame of each TYPE bound for another module goes on over its route's link, and leaves the buffer it came in. -/
def Obligations.FramesOfInactiveLinksOrOtherModulesPass : Prop :=
  (
  ∀ c (l : Fin 96) fr s, frameCmd fr.typ = some c → (s.link l.val).state ≠ .active → (s.link l.val).rxq = [] →
    kget 0 (s.link l.val).rxUsed fr.vc.toNat + fr.need ≤ vcCredits fr.vc.toNat →
    ∃ t, exec (c l fr) s = .next t ∧ (t.link l.val).foreign = satAdd (s.link l.val).foreign 1 ∧ (t.link l.val).rxq = [] ∧
      kget 0 (t.link l.val).crFreed fr.vc.toNat = kget 0 (s.link l.val).crFreed fr.vc.toNat + BitVec.ofNat 12 fr.need ∧ LinkOnly s t l.val) ∧
  (
  ∀ c (l : Fin 96) fr s out, frameCmd fr.typ = some c → InBuffer s l fr → s.ownDst fr.dst = false →
    s.routeOf (l.val / 8) fr = some out → fr.hops ≠ 7 → s.stoppedNow (s.partOf (l.val / 8)) = false → out ≠ l.val →
    ∃ t, exec (c l fr) s = .next t ∧ (t.link l.val).rxq = [] ∧ (t.link out).txq = (s.link out).txq ++ [{ fr with hops := fr.hops + 1 }] ∧
      t = { s with links := t.links } ∧ ∀ m, m ≠ l.val → m ≠ out → t.link m = s.link m)

/-- R282, R283, R285, R287, R297: requests for the module are performed in their partition and answered on the route back: here a request
that the partition's memory performs, as performRemote gives it; an answer completes the transaction of its tag, whose thread receives
its registers or whose block faults, and one that names none is counted stale; LINK_NAK is counted; a collective's frame goes to its
engine, or is held until its collective starts. -/
def Obligations.FramesForTheModuleAreHandled : Prop :=
  (∀ c (l : Fin 96) fr s p u st rs po v, fr.typ ∈ [(1 : BitVec 8), 2, 3, 4] → frameCmd fr.typ = some c → InBuffer s l fr →
    s.ownDst fr.dst = true → s.dstPart fr.dst fr.pid = some p →
    (s.noteSlowFrame fr).performRemote (l.val / 8) p fr = (u, .answer st rs po v) →
    ∃ t g, exec (c l fr) s = .next t ∧ t.mem = u.mem ∧ t.caches = u.caches ∧ fr ∉ (t.link l.val).rxq ∧ g.dst = fr.src ∧ g.src = fr.dst ∧
      g.tag = fr.tag ∧ g.pid = fr.pid ∧ g.status.toNat = st % 8 ∧ g.typ.toNat = (if fr.typ = 3 ∧ fr.ret = 0 then 9 else fr.typ.toNat + 7) ∧
      (u.ownDst fr.src = true → t.localFrames = u.localFrames ++ [(l.val / 8, none, g)]) ∧
      (∀ k, u.ownDst fr.src = false → u.routeOf (l.val / 8) g = some k → (t.link k).txq = (u.link k).txq ++ [{ g with hops := g.hops + 1 }])) ∧
  (∀ c (l : Fin 96) (d : Fin 12) fr s p x b, fr.typ ∈ [(8 : BitVec 8), 9, 10, 11] → frameCmd fr.typ = some c → InBuffer s l fr →
    s.ownDst fr.dst = true → s.dstPart fr.dst fr.pid = some p → (s.tile d.val).remotes = [(fr.tag.toNat, x)] →
    (∀ e, e < 12 → e ≠ d.val → (s.tile e).remotes = []) → s.selfAddr d.val = fr.dst → x.frame.dst = fr.src →
    (answerType x.frame.typ.toNat = some fr.typ.toNat ∨ (x.frame.typ = 3 ∧ fr.typ = 9)) →
    x.dead = false → s.has x.core x.block b → b.phase = .running → NoGather b → (∀ k, (kget {} b.bars k).open_ = false) →
    (∀ k, (kget {} (kget {} s.teams b.team).bars k).open_ = false) →
    (fr.status = 0 → fr.poison.getLsbD 0 = false → (∀ r, x.dst = some r → r + 4 ≤ 256) →
      ∃ t, exec (c l fr) s = .next t ∧ kfind (t.tile d.val).remotes fr.tag.toNat = none ∧ (t.link l.val).rxq = [] ∧ t.mem = s.mem ∧
        (t.block x.core x.block).remote = b.remote - 1 ∧
        ∀ w ∈ x.regs (leNat fr.body), ((t.block x.core x.block).group x.group).reg x.lane w.1 = w.2) ∧
    (fr.status ≠ 0 → ¬ (fr.typ = 0x0B ∧ fr.status = 2 ∧ fr.reason = 8) →
      ∃ t, exec (c l fr) s = .next t ∧ kfind (t.tile d.val).remotes fr.tag.toNat = none ∧ (t.link l.val).rxq = [] ∧
        (t.block x.core x.block).phase = .terminating 0x0E (s.coreCycles x.core))) ∧
  (∀ c (l : Fin 96) fr s p, fr.typ ∈ [(8 : BitVec 8), 9, 10, 11] → frameCmd fr.typ = some c → InBuffer s l fr →
    s.ownDst fr.dst = true → s.dstPart fr.dst fr.pid = some p → (∀ d, d < 12 → (s.tile d).remotes = []) →
    ∃ t, exec (c l fr) s = .next t ∧ (t.link l.val).stale = satAdd (s.link l.val).stale 1 ∧ t.mem = s.mem ∧ t.cores = s.cores ∧
      (t.link l.val).rxq = []) ∧
  (∀ (l : Fin 96) fr s p, fr.typ = 0x0C → InBuffer s l fr → s.ownDst fr.dst = true → s.dstPart fr.dst fr.pid = some p →
    ∃ t, exec (.linkNak l fr) s = .next t ∧ (t.link l.val).nakRx = satAdd (s.link l.val).nakRx 1 ∧ (t.link l.val).rxq = []) ∧
  (∀ c (l : Fin 96) fr s p, fr.typ ∈ [(0x10 : BitVec 8), 0x11] → frameCmd fr.typ = some c → InBuffer s l fr → s.ownDst fr.dst = true →
    s.dstPart fr.dst fr.pid = some p → s.colls = [] → s.stoppedNow p = false → kfind (s.partition p).lastSeq fr.chan.toNat = none →
    (s.partition p).heldBytes fr.chan + 32 + fr.plenBytes ≤ 262144 →
    ∃ t, exec (c l fr) s = .next t ∧ (t.partition p).heldColl = (s.partition p).heldColl ++ [(l.val + 97, fr)] ∧ (t.link l.val).rxq = [] ∧
      t.mem = s.mem) ∧
  (∀ c (l : Fin 96) fr s p x, fr.typ ∈ [(0x10 : BitVec 8), 0x11] → frameCmd fr.typ = some c → InBuffer s l fr → s.ownDst fr.dst = true →
    s.dstPart fr.dst fr.pid = some p → s.stoppedNow p = false → s.colls = [x] → x.first = p → (collDesc x.desc).chan = fr.chan.toNat →
    (collDesc x.desc).seq % 512 = fr.seqNo → x.running = true → x.code = none →
    ∃ t, exec (c l fr) s = .next t ∧ (t.link l.val).rxq = [] ∧ t.colls = ((s.noteSlowFrame fr).collReceives x.queue fr).colls)

/-- R285 to R288: a transaction unanswered for 20 ms x 2^S since it left its tile ends with TIMEOUT, and its block faults; a message answered FULL is sent again
after 1 µs on its route; a slowness level that has been lower for 1 ms is advertised. -/
def Obligations.RemoteTransactionsTimeOutAndRetry : Prop :=
  (∀ (d : Fin 12) (tag : BitVec 16) s x b n, kwf (s.tile d.val).remotes = true → kfind (s.tile d.val).remotes tag.toNat = some x → x.dead = false →
    s.has x.core x.block b → b.phase = .running → x.sent = some n → n + 2000000 * 2 ^ x.slow ≤ s.ticks →
    ∃ t, exec (.remoteTimeout d tag) s = .next t ∧ kfind (t.tile d.val).remotes tag.toNat = none ∧
      (t.block x.core x.block).phase = .terminating 0x0E (s.coreCycles x.core) ∧ (t.block x.core x.block).remote = b.remote - 1) ∧
  (∀ (d : Fin 12) (tag : BitVec 16) s x at_ k, kfind (s.tile d.val).remotes tag.toNat = some x → x.dead = false → x.retryAt = some at_ →
    at_ + 100 ≤ s.ticks → s.ownDst x.frame.dst = false → s.routeOf d.val x.frame = some k → (s.link k).peerStopped = false →
    ∃ t y, exec (.rmsgRetry d tag) s = .next t ∧ kfind (t.tile d.val).remotes tag.toNat = some y ∧ y.retryAt = none ∧ y.link = some k ∧
      (t.link k).txq = (s.link k).txq ++ [{ x.frame with hops := x.frame.hops + 1 }] ∧ t.mem = s.mem) ∧
  (∀ (d : Fin 12) s n, s.slowNow d.val < (s.partition d.val).slow → (s.partition d.val).lowerSince = some n → n + 100000 ≤ s.ticks →
    ∃ t, exec (.slowLevelFall d) s = .next t ∧ (t.partition d.val).slow = s.slowNow d.val ∧ (t.partition d.val).lowerSince = none ∧
      ∀ p, p ≠ d.val → t.partition p = s.partition p)

/-- R297 to R299, R331, R345: a collective that may start, and whose engines read their buffers, runs; one that has a status leaves the
collective engines, after a failure with its receive buffer unspecified, and its command goes to its end with the status and the detail
that this status gives; one whose engine has waited its time for a frame ends with TIMEOUT. -/
def Obligations.CollectivesStartAndEnd : Prop :=
  (∀ (q : Fin 256) s c code u r, s.collOf q.val = some c → c.code = some code →
    (if c.running = true ∧ 2 ≤ code then s.spoilResults c (List.range c.dies) else .ok s) = .ok u →
    u.run q.val = some r → r.stage = .running → r.status = 0 →
    ∃ t r', exec (.collectiveComplete q) s = .next t ∧ (∀ x ∈ t.colls, x.queue ≠ q.val) ∧ t.mem = u.mem ∧ t.run q.val = some r' ∧
      r'.stage = .ending ∧ r'.status = (if code = 0 then 0 else if code = 8 then 0x0011 else 0x0009) ∧
      r'.detail = (if code = 0 then r.detail else if code = 8 then r.fencedDies.zeroExtend 32 else BitVec.ofNat 32 code)) ∧
  (∀ (q : Fin 256) (d : Fin 12) s c, let e := c.engine (d.val - c.first)
    s.collOf q.val = some c → c.running = true → c.code = none → c.first ≤ d.val → d.val < c.first + c.dies → e.status = 0xFF →
    e.lastFrame + (collDesc c.desc).timeoutMs * 100000 * 2 ^ e.slow ≤ s.ticks →
    ∃ t c', exec (.collectiveTimeout q d) s = .next t ∧ t.collOf q.val = some c' ∧ c'.code = some 2) ∧
  (∀ (q : Fin 256) s c u, s.collOf q.val = some c → s.collMayStart c = true → (∀ l, l < 96 → (s.link l).peerStopped = false) →
    (s.modColl q.val fun c => { c with running := true }).startEngines q.val (List.range c.dies) = (u, .ok ()) →
    ∃ t c', exec (.collectiveStart q) s = .next t ∧ t.collOf q.val = some c' ∧ c'.running = true)

end

namespace Sys2Proof.Machine

/-- A window access of n bytes that reaches memory with no earlier window request waiting: the requester and the address that the
window gives it (R309 to R311). -/
def InWindow (s : State) (off n : Nat) (r : Req) (pa : Nat) : Prop :=
  s.host.reachable = true ∧ s.host.held = [] ∧ 0 < n ∧ off + n ≤ 2 ^ 32 ∧ off % 4096 + n ≤ 4096 ∧ s.windowReq off n = some (r, pa)

/-- s with the window requests l waiting. -/
def Held (s : State) (l : List WindowOp) : State := { s with host := { s.host with held := l } }

/-- t differs from s in the PCI Express function alone. -/
def HostOnly (s t : State) : Prop := t = { s with host := t.host }

/-- The beginning of a host-function reset (R325): the function is held in reset with its registers at reset, the link is down, and
every command of the host's contexts that has not ended ends with HOST_RESET. -/
def ResetBegins (s t : State) (cause : BitVec 4) : Prop :=
  t.host.inReset = true ∧ t.host.resetting = true ∧ t.host.resetCause = cause ∧ t.host.linkUp = false ∧ t.host.bme = false ∧
  t.host.mse = false ∧ t.host.win = 0 ∧ t.host.rings = [] ∧ t.host.posted = [] ∧ t.host.msixTable = [] ∧ t.host.aer = 0 ∧
  t.host.epoch = (if s.host.linkUp then s.host.epoch + 1 else s.host.epoch) ∧
  ∀ q r, s.run q = some r → (s.queue q).live = true → (s.queue q).context ∈ s.hostContexts → r.stage ≠ .ending → r.stage ≠ .done →
    ∃ r', t.run q = some r' ∧ r'.stage = .ending ∧ r'.status = 0x000F ∧ r'.index = r.index

/-- A level of an input passes its filter, its transition stays within the limit, and the input does not chatter (R474, R475). -/
def Calm (s : State) (sig : Nat) : Prop :=
  s.velvet.powered = true ∧ s.filtering sig = false ∧ s.velvet.chatter.getLsbD sig = false ∧ (s.recent sig).length < sigLimit sig

/-- An access of n bytes of a host core to memory: the core runs, and the address is no register's (R57). -/
def HostAccess (s : State) (h : Fin 96) (pa : BitVec 52) : Prop :=
  s.hostRuns h.val = true ∧ (pa.toNat < regBase ∨ regBase + 0x4000000 ≤ pa.toNat)

end Sys2Proof.Machine

section

open Sys2Proof Sys2Proof.Machine

/-! ## The PCI Express function and the host cores -/

/-- R63, R309 to R313, R326: a write, a read or an AtomicOp in the data window acts on the bytes at the address that HUB_WIN_CTL
gives, a poisoned write poisons what it writes; a request that its memory makes wait stays, with the regions woken that
hold its lines, and behind a posted one that waits the
doorbells wait too; an access that the window does not map is discarded or aborted, counted and reported; a write of HUB_WIN_CTL. -/
def Obligations.HostWindowAccessesMemory : Prop :=
  (∀ w s r pa t, InWindow s w.offset w.bytes.length r pa → w.bytes.length ≤ 512 →
    s.writeBulk (windowOwner r.window) pa (w.bytes.map fun b => (b, w.ep)) = (t, .ok ()) →
    exec (.bar2Write w) s = .next (if w.ep then t.violateRow 3 false else t)) ∧
  (∀ w s r pa, InWindow s w.offset w.bytes.length r pa → w.bytes.length ≤ 512 → w.ep = false → inReserve r pa w.bytes.length = true →
    s.reserveSound (pa - reserveBase) w.bytes.length →
    let k := reserveKey (pa - reserveBase)
    exec (.bar2Write w) s = .next { s with mem := cellsWrite s.mem k w.bytes, poison := reservePoison s.poison k (cleanBytes w.bytes) }) ∧
  (∀ off len s r pa u bs, InWindow s off len r pa → s.readBulk (windowOwner r.window) pa len = (u, .ok bs) →
    ∃ t, exec (.bar2Read off len) s = .next t ∧ t = { u with host := t.host } ∧
      t.host.completions = (if u.host.epoch = s.host.epoch then u.host.completions ++ splitRead pa bs 9 else u.host.completions)) ∧
  (∀ off op size x y s r pa, InWindow s off size r pa → (size = 4 ∨ size = 8) → off % size = 0 → inReserve r pa size = true →
    s.reserveSound (pa - reserveBase) size →
    let k := reserveKey (pa - reserveBase); let old := cellsRead s.mem k size
    ∃ t, exec (.bar2Atomicop off op size x y) s = .next t ∧ t = { s with mem := t.mem, host := t.host } ∧
      t.host.completions = s.host.completions ++ [.data (leBytes size old) (s.poison.contains (k / 32))] ∧
      (op = 0 → t.mem = cellsWrite s.mem k (leBytes size ((old + fld x 0 (8 * size)) % 2 ^ (8 * size)))) ∧
      (op = 1 → t.mem = cellsWrite s.mem k (leBytes size (fld x 0 (8 * size)))) ∧
      (op = 2 → t.mem = cellsWrite s.mem k (leBytes size (if old = fld y 0 (8 * size) then fld x 0 (8 * size) else old)))) ∧
  (∀ off len s r pa u, InWindow s off len r pa → s.readBulk (windowOwner r.window) pa len = (u, .error .busy) →
    exec (.bar2Read off len) s = .next (Held (s.woken u) [.read r.window pa len s.host.epoch])) ∧
  (∀ w s r pa u, InWindow s w.offset w.bytes.length r pa → w.bytes.length ≤ 512 →
    s.writeBulk (windowOwner r.window) pa (w.bytes.map fun b => (b, w.ep)) = (u, .error .busy) →
    exec (.bar2Write w) s = .next (Held (s.woken u) [.write r.window pa w.bytes w.ep])) ∧
  (∀ w x s u, s.host.held = [x] → windowPosted x = true → (Held s []).windowPerform x = .error u → s.host.reachable = true → w.ep = false →
    w.bytes.length = 8 → w.offset % 4096 = 0 → w.offset + 8 ≤ 0x100000 →
    exec (.bar4Doorbell w) s = .next (Held (s.woken u) [x, .bell (w.offset / 4096) (BitVec.ofNat 64 (leNat w.bytes))])) ∧
  (∀ off len s, s.host.reachable = true → 0 < len → off + len ≤ 2 ^ 32 → off % 4096 + len ≤ 4096 → s.windowReq off len = none →
    ∃ t, exec (.bar2Read off len) s = .next t ∧ t.host.completions = s.host.completions ++ [.abort] ∧
      t.host.violations = s.host.violations + 1 ∧ t.host.aer = s.host.aer ||| aerBit 2 ∧ t.mem = s.mem) ∧
  (∀ w s, s.host.reachable = true → 0 < w.bytes.length → w.bytes.length ≤ 512 → w.offset + w.bytes.length ≤ 2 ^ 32 →
    w.offset % 4096 + w.bytes.length ≤ 4096 → s.windowReq w.offset w.bytes.length = none →
    ∃ t, exec (.bar2Write w) s = .next t ∧ t.host.completions = s.host.completions ∧
      t.host.violations = s.host.violations + 1 ∧ t.host.aer = s.host.aer ||| aerBit 2 ∧ t.mem = s.mem) ∧
  (∀ a (half : Fin 3) (v : BitVec 64) s, MayWrite s a (if half = 2 then 0x10014 else 0x10010) →
    ∃ t, exec (.hubWinCtl a half v) s = .next t ∧ t = { s with host := t.host, hub := { s.hub with lastAccess := 0 } } ∧
      t.host = { s.host with win := t.host.win } ∧
      t.host.win = (if half = 0 then v &&& 0x000FFFFF0000001F
        else if half = 1 then (s.host.win &&& 0x000FFFFF00000000) ||| (v &&& 0x1F)
        else (s.host.win &&& 0x1F) ||| ((v <<< 32) &&& 0x000FFFFF00000000)))

/-- R307, R314 to R317, R319 to R322, R326: doorbells, the control of a ring, the posting of records, messages and LINK_EPOCH
records, the delivery of posted writes, BAR0 reads and requests that violate the protocol. -/
def Obligations.HostRingsPostRecordsAndMessages : Prop :=
  (∀ w s (q : Nat), let v : BitVec 64 := BitVec.ofNat 64 (leNat w.bytes)
    s.host.reachable = true → s.host.held = [] → s.ready = true → w.ep = false → w.bytes.length = 8 → q < 256 → w.offset = 4096 * q →
    s.hostBound q = true →
    (v.toNat ≤ (s.queue q).doorbell.toNat → ∃ t, exec (.bar4Doorbell w) s = .next t ∧ t = { s with queues := t.queues } ∧
      (∀ x, x ≠ q → t.queue x = s.queue x) ∧ t.queue q = { s.queue q with emptyAt := none }) ∧
    ((s.queue q).doorbell.toNat < v.toNat → v.toNat - (s.queue q).read.toNat ≤ 2 ^ (s.queue q).ringLog2 →
      ∃ t, exec (.bar4Doorbell w) s = .next t ∧ t = { s with queues := t.queues } ∧ (∀ x, x ≠ q → t.queue x = s.queue x) ∧
      t.queue q = { s.queue q with doorbell := v, lastAccepted := v, emptyAt := none }) ∧
    ((s.queue q).doorbell.toNat < v.toNat → 2 ^ (s.queue q).ringLog2 < v.toNat - (s.queue q).read.toNat →
      ∃ t, exec (.bar4Doorbell w) s = .next t ∧ t.queue q = { s.queue q with error := true } ∧ ∀ x, x ≠ q → t.queue x = s.queue x)) ∧
  (∀ a (ring : Fin 33) (v : BitVec 32) s, MayWrite s a (if ring.val = 32 then 0x10108 else 0x11008 + 0x40 * ring.val) →
    6 ≤ fld v 1 5 → fld v 1 5 ≤ 16 → ∃ t k, exec (.hubHcrCtl a ring v) s = .next t ∧ t.ring ring.val = k ∧
      k.enable = v.getLsbD 0 ∧ k.log2.toNat = fld v 1 5 ∧ k.intEn = v.getLsbD 6 ∧ k.modUs.toNat = fld v 7 8 ∧
      k.write = (s.ring ring.val).write ∧ k.backlog = (if (s.ring ring.val).enable = true ∧ v.getLsbD 0 = false then [] else (s.ring ring.val).backlog) ∧
      t = { s with host := t.host, hub := { s.hub with lastAccess := 0 } } ∧ ∀ r, r ≠ ring.val → t.ring r = s.ring r) ∧
  (∀ (ring : Fin 33) s v vs, s.canPost ring.val = true → (s.ring ring.val).backlog = v :: vs →
    ∃ t data, exec (.recordPost ring) s = .next t ∧ HostOnly s t ∧ 
      (ring.val ≠ 32 ∨ (s.ring ring.val).lost = 0 → (t.ring ring.val).backlog = vs) ∧
      (ring.val = 32 ∧ (s.ring 32).lost ≠ 0 ∧ vs.length < 64 → (t.ring 32).lost = 0 ∧
        (t.ring 32).backlog = vs ++ [hostRecord 0x13 12 0 0 (s.ring 32).lost s.hub.time.toNat]) ∧
      (t.ring ring.val).write = (s.ring ring.val).write + 1 ∧ (∀ r, r ≠ ring.val → t.ring r = s.ring r) ∧
      t.host.posted = s.host.posted ++ [.record ring.val (s.ring ring.val).write ((s.ring ring.val).base +
        BitVec.ofNat 64 ((s.ring ring.val).write.toNat % 2 ^ (s.ring ring.val).log2.toNat * 32)) data]) ∧
  (∀ (vec : Fin 33) s, let r := vectorRing vec.val
    s.msiPending vec.val = true → s.host.posting = true → bit (s.host.msixWord vec.val 3) 0 = false → s.postsFirst = false →
    ∃ t, exec (.msixMessage vec) s = .next t ∧ HostOnly s t ∧ t.host.posted = s.host.posted ++
        [.msix vec.val (s.host.msixWord vec.val 1 ++ s.host.msixWord vec.val 0) (s.host.msixWord vec.val 2)] ∧
      t.ring r = { s.ring r with msiDue := false, msiAt := some s.ticks } ∧ ∀ x, x ≠ r → t.ring x = s.ring x) ∧
  (∀ s p ps, s.host.posted = p :: ps → ∃ t, exec .postedWriteDelivered s = .next t ∧ HostOnly s t ∧ t.host.posted = ps ∧
    t.host.delivered = s.host.delivered ++ [p] ∧
    (∀ r seq addr data, p = .record r seq addr data → (t.ring r).delivered = some seq)) ∧
  (∀ s, s.host.posting = true → ∃ t, exec .linkEpoch s = .next t ∧ HostOnly s t ∧ ∀ r, r < 33 →
    if (s.ring r).owes = true ∧ (s.ring r).enable = true ∧ (s.ring r).hasRoom = true then
      (t.ring r).owes = false ∧ (t.ring r).epochSeq = (s.ring r).write ∧ (t.ring r).write = (s.ring r).write + 1 ∧
      ∃ addr data, Posted.record r (s.ring r).write addr data ∈ t.host.posted ∧ byteFld data 10 1 = 2 ∧
        byteFld data 24 8 = s.host.upAt.toNat
    else t.ring r = s.ring r) ∧
  (∀ v s, let plain := v.row = 1 ∧ v.read = true ∧ (v.len = 4 ∨ v.len = 8) ∧ v.offset % v.len = 0
    s.host.linkUp = true → s.host.inReset = false → v.row ≠ 0 → ∃ t, exec (.hostProtocolViolation v) s = .next t ∧
    t.mem = s.mem ∧ t.queues = s.queues ∧ (¬ plain → t.host.aer = s.host.aer ||| aerBit v.row.val) ∧
    (plain → s.accessReaches .trayHost = true → s.mayReach .trayHost v.offset false = true → t = { s.noteRead v.offset v.len with
      host := { s.host with completions := s.host.completions ++ [.data (leBytes v.len (s.regRead v.offset v.len)) false] } }) ∧
    (plain → s.accessReaches .trayHost = true → s.mayReach .trayHost v.offset false = false → t = { s with host := { s.host with
      completions := s.host.completions ++ [.abort], aer := s.host.aer ||| 2 ^ 15, violations := s.host.violations + 1 } }) ∧
    (¬ plain → v.row.val ∈ [1, 2, 4, 5, 7] → t.host.violations = s.host.violations + 1 ∧
      t.host.completions = s.host.completions ++ (if v.read = true ∨ v.row = 7 then [.abort] else [])) ∧
    (v.row.val ∈ [3, 9] → t.host.violations = s.host.violations ∧ t.host.completions = s.host.completions) ∧
    (v.row = 6 → t.host.violations = s.host.violations ∧ t.host.completions = s.host.completions ++
      (if s.host.reachable then [.data (s.readDoorbells v.offset v.len) false] else [])) ∧
    (v.row = 10 → t.host.violations = s.host.violations + (if v.read then 0 else 1) ∧ t.host.completions = s.host.completions) ∧
    (v.row = 8 → t.host.violations = s.host.violations ∧ t.host.completions = s.host.completions ++ [.unsupported]))

/-- R308, R322 to R325, R332, R474, R476: the link goes down and up, configuration writes take effect, the four causes begin a reset of
the host function, and its end releases the host's contexts and makes context 0 again. -/
def Obligations.HostFunctionFollowsItsLinkAndResets : Prop :=
  (∀ s, s.host.linkUp = true → ∃ t, exec .dlDown s = .next t ∧ HostOnly s t ∧ t.host.linkUp = false ∧ t.host.epoch = s.host.epoch + 1 ∧
    t.host.posted = [] ∧ t.host.downAt = some s.ticks ∧ t.host.delivered = s.host.delivered ∧
    ∀ r, t.ring r = if (s.ring r).enable = true then { s.ring r with owes := true } else s.ring r) ∧
  (∀ s, s.host.linkUp = false → s.host.inReset = false → s.velvet.perstN = true →
    exec .dlUp s = .next { s with host := { s.host with linkUp := true, downAt := none, upAt := s.hub.time } }) ∧
  (∀ b m d s, s.host.linkUp = true → s.host.inReset = false →
    exec (.pcieConfigWrite b m d) s = .next { s with host := { s.host with bme := b, mse := m, d3hot := d } }) ∧
  (∀ s, s.host.resetting = false → s.host.linkUp = true → ∃ t, exec .functionLevelReset s = .next t ∧ ResetBegins s t 2) ∧
  (∀ s, s.host.resetting = false → s.host.linkUp = true → ∃ t, exec .hotReset s = .next t ∧ ResetBegins s t 3) ∧
  (∀ s at_, s.host.resetting = false → s.host.downAt = some at_ → at_ + 50000000 ≤ s.ticks →
    ∃ t, exec .hostLinkDownTimeout s = .next t ∧ ResetBegins s t 1 ∧ t.host.downAt = none) ∧
  (∀ s, Calm s 0 → kget false s.velvet.raw 0 = true → s.velvet.perstN = true → ∃ t, exec .perstNAssert s = .next t ∧
    t.velvet.perstN = false ∧ t.velvet.perstSince = some s.ticks ∧ (s.hubUp = true → s.host.resetting = false → ResetBegins s t 3) ∧
    (s.hubUp = false → t = { s with velvet := t.velvet })) ∧
  (∀ s, Calm s 0 → kget false s.velvet.raw 0 = false → s.velvet.perstN = false → ∃ t, exec .perstNDeassert s = .next t ∧
    t.velvet.perstN = true ∧ t.velvet.perstSince = none ∧ (s.hubUp = true → t.host = { s.host with inReset := s.host.resetting }) ∧
    t = { s with velvet := t.velvet, host := t.host }) ∧
  (∀ s, s.host.resetting = true → (∀ x ∈ s.queues, x.2.live = true → x.2.context ∈ s.hostContexts → x.2.run = none) →
    ∃ t, exec .hostResetComplete s = .next t ∧ t.host.resetting = false ∧ t.host.inReset = !s.velvet.perstN ∧
      t.host.lastReset = s.host.resetCause ∧ (∀ c ∈ s.hostContexts, c ≠ 0 → kwf s.contexts = true → (t.context c).live = false) ∧
      ((s.context 0).live = true → (t.context 0).live = true ∧ (t.context 0).key = (s.context 0).key ∧
        (t.queue 0).live = true ∧ (t.queue 0).run = none ∧ (t.queue 0).error = false))

/-- R35, R39, R57 to R60, R252: a host core's load, store, AMO, LR and SC on memory have the outcome of the line or of the home; AMO,
LR and SC are naturally aligned; SC without its reservation fails; a FENCE has nothing to wait for; WRS.NTO ends once no reservation
is held; an access at a virtual address takes its translation's fault, or is that of the physical parts it gives. -/
def Obligations.HostCoresAccessMemory : Prop :=
  ∀ (h : Fin 96) stream (pa : BitVec 52) (size : Fin 5) (x : BitVec 128) s,
    let n := 2 ^ size.val; let a := pa.toNat; let ps := linePieces a n (flag stream)
    (s.hostRuns h.val = true → ∃ t, exec (.hostCoreMemoryAccess h .fence stream ⟨pa, none⟩ size x) s = .next t ∧ t = { s with hub := t.hub } ∧
      t.hub.hostStatus = 0) ∧
    (s.hostRuns h.val = true → (s.cache (hostCache h.val)).reserved = none →
      ∃ t, exec (.hostCoreMemoryAccess h .wrsNto stream ⟨pa, none⟩ size x) s = .next t ∧ t = { s with hub := t.hub } ∧ t.hub.hostStatus = 0) ∧
    (∀ u v, HostAccess s h pa → s.hostRead h.val ps = (u, .ok (v, false)) →
      ∃ t, exec (.hostCoreMemoryAccess h .load stream ⟨pa, none⟩ size x) s = .next t ∧ t = { u with hub := t.hub } ∧ t.hub.hostStatus = 0 ∧
        t.hub.lastRead = BitVec.ofNat 128 v) ∧
    (∀ u, HostAccess s h pa → s.hostWrite h.val (x.toNat % 256 ^ n) ps = (u, .ok ()) →
      ∃ t, exec (.hostCoreMemoryAccess h .store stream ⟨pa, none⟩ size x) s = .next t ∧ t = { u with hub := t.hub } ∧ t.hub.hostStatus = 0) ∧
    (∀ op ∈ [HostOp.lr, .sc] ++ (List.range 9).map (fun k => HostOp.amo (Fin.ofNat 9 k)), HostAccess s h pa → ¬ ((n = 4 ∨ n = 8) ∧ a % n = 0) →
      ∃ t, exec (.hostCoreMemoryAccess h op stream ⟨pa, none⟩ size x) s = .next t ∧ t = { s with hub := t.hub } ∧ t.hub.hostStatus = 2) ∧
    (∀ k u d, HostAccess s h pa → (n = 4 ∨ n = 8) → a % n = 0 → s.getOwned (hostCache h.val) (a / 128) none = (u, .ok d) →
      (d.poisonedAt (a % 128) n).isSome = false →
      ∃ t, exec (.hostCoreMemoryAccess h (.amo k) false ⟨pa, none⟩ size x) s = .next t ∧ t.hub.hostStatus = 0 ∧
        t.hub.lastRead = BitVec.ofNat 128 (d.get (a % 128) n % 256 ^ n) ∧
        t = { u.putOwned (hostCache h.val) (a / 128) (lineOfBytes (a % 128) n (amoNew k.val n (d.get (a % 128) n % 256 ^ n) (x.toNat % 256 ^ n)))
          (maskOfBytes (a % 128) n) with hub := t.hub }) ∧
    (∀ u v, HostAccess s h pa → (n = 4 ∨ n = 8) → a % n = 0 → s.hostReadPiece h.val a n 0 = (u, .ok (v, false)) →
      ∃ t, exec (.hostCoreMemoryAccess h .lr stream ⟨pa, none⟩ size x) s = .next t ∧ t.hub.hostStatus = 0 ∧ t.hub.lastRead = BitVec.ofNat 128 v ∧
        (t.cache (hostCache h.val)).reserved = some (a / 128)) ∧
    (HostAccess s h pa → (n = 4 ∨ n = 8) → a % n = 0 → (s.cache (hostCache h.val)).reserved ≠ some (a / 128) →
      ∃ t, exec (.hostCoreMemoryAccess h .sc stream ⟨pa, none⟩ size x) s = .next t ∧ t = { s with hub := t.hub, caches := t.caches } ∧
        t.hub.hostStatus = 0 ∧ t.hub.lastRead = 1 ∧ (t.cache (hostCache h.val)).reserved = none) ∧
    (∀ u, HostAccess s h pa → (n = 4 ∨ n = 8) → a % n = 0 → (s.cache (hostCache h.val)).reserved = some (a / 128) →
      s.hostWritePiece h.val a n 0 (x.toNat % 256 ^ n) = (u, .ok ()) →
      ∃ t, exec (.hostCoreMemoryAccess h .sc stream ⟨pa, none⟩ size x) s = .next t ∧ t = { u with hub := t.hub, caches := t.caches } ∧
        t.hub.hostStatus = 0 ∧ t.hub.lastRead = 0 ∧ (t.cache (hostCache h.val)).reserved = none) ∧
    (∀ (w : HostVirt) op u, let va := w.va.toNat
      s.hostRuns h.val = true → op ≠ .fence → op ≠ .wrsNto → (hostOpAtomic op = true → (n = 4 ∨ n = 8) ∧ va % n = 0) →
      (∀ c, s.hostParts h.val w (hostOpAccess op) (linePieces va n 0) = (u, .error (.fault c)) →
        ∃ t, exec (.hostCoreMemoryAccess h op stream ⟨pa, some w⟩ size x) s = .next t ∧ t = { u with hub := t.hub } ∧ t.hub.hostStatus = c) ∧
      (∀ qs v u', s.hostParts h.val w (hostOpAccess op) (linePieces va n 0) = (u, .ok qs) → op = .load →
        ((qs.headD (0, 0, 0)).1 < regBase ∨ regBase + 0x4000000 ≤ (qs.headD (0, 0, 0)).1) → u.hostRead h.val qs = (u', .ok (v, false)) →
        ∃ t, exec (.hostCoreMemoryAccess h op stream ⟨pa, some w⟩ size x) s = .next t ∧ t = { u' with hub := t.hub } ∧ t.hub.hostStatus = 0 ∧
          t.hub.lastRead = BitVec.ofNat 128 v) ∧
      (∀ qs u', s.hostParts h.val w (hostOpAccess op) (linePieces va n 0) = (u, .ok qs) → op = .store →
        ((qs.headD (0, 0, 0)).1 < regBase ∨ regBase + 0x4000000 ≤ (qs.headD (0, 0, 0)).1) →
        u.hostWrite h.val (x.toNat % 256 ^ n) qs = (u', .ok ()) →
        ∃ t, exec (.hostCoreMemoryAccess h op stream ⟨pa, some w⟩ size x) s = .next t ∧ t = { u' with hub := t.hub } ∧ t.hub.hostStatus = 0))

end

namespace Sys2Proof.Machine

/-- t differs from s in one queue alone. -/
def QueueOnly (s t : State) (q : Nat) : Prop := t = { s with queues := t.queues } ∧ ∀ x, x ≠ q → t.queue x = s.queue x

/-- The command of queue q, which was r, has ended with a status and a detail (R331). -/
def EndsWith (t : State) (q : Nat) (r : Run) (status detail : Nat) : Prop :=
  ∃ r', t.run q = some r' ∧ r'.stage = .ending ∧ r'.status.toNat = status ∧ r'.detail.toNat = detail ∧ r'.index = r.index ∧ r'.packet = r.packet

/-- s with the command of queue q, whose limit counts from here on (R340), ended with OK and a result. -/
def State.ended (s : State) (q result : Nat) : State := (s.startClock q).finish q result

/-- s with the command of queue q running, its limit counting from here on (R340). -/
def State.begun (s : State) (q : Nat) : State := (s.startClock q).runOn q

/-- The parameters of a WAIT (Table 11.3). -/
def waitParams (r : Run) : List Param := [(0x10, 8, r.p 0x10 8 % 8 = 0), (0x18, 8, true), (0x20, 1, decide (r.p 0x20 1 < 4))]

/-- A critical command that authenticates (R347 to R350): its context has a key and is not locked out, the tag is the key's over the
message, and its counter exceeds the stored one. -/
def Authentic (s : State) (q : Nat) (r : Run) (payload : Option (List Byte)) : Prop :=
  let ctx := (s.queue q).context
  (s.context ctx).lockedAt = none ∧ (s.counterOf ctx).toNat < r.p 0x28 8 ∧
  ∃ k, (s.context ctx).key = some k ∧ (tagOf k (s.message ctx r.packet payload) "FT2-CMD").toNat = r.p 0x30 16

/-- s once the command of queue q has passed its checks: no failures in a row, the counter taken, and its limit counting (R340,
R349, R350, R352). -/
def State.authOk (s : State) (q : Nat) (r : Run) : State :=
  ((s.modContext (s.queue q).context fun k => { k with fails := 0 }).setCounter (s.queue q).context (BitVec.ofNat 64 (r.p 0x28 8))).startClock q

/-- The commands that carry no payload, with their opcodes. -/
def CriticalPlain (op : Nat) (c : Fin 256 → Instr) : Prop :=
  (op = 0x0800 ∧ c = .powerLimit) ∨ (op = 0x0802 ∧ c = .systemAddress) ∨ (op = 0x0803 ∧ c = .reset)

end Sys2Proof.Machine

section

open Sys2Proof Sys2Proof.Machine

/-! ## The command processor -/

/-- R65 to R70, R328 to R331, R340, R342, R345, R346, R350: doorbell writes through register space, the fetch of packets, NOP, WAIT,
COLLECTIVE and the reads of counts, the limit of a command, and its completion. -/
def Obligations.CommandsAreFetchedRunAndCompleted : Prop :=
  (∀ (h : Fin 96) (q : Fin 256) v s, let k := s.queue q.val
    k.live = true → k.doorbell.toNat < v.toNat → v.toNat - k.read.toNat ≤ 2 ^ k.ringLog2 →
    ∃ t, exec (.doorbellWrite (.hostCore h) q 0 8 v) s = .next t ∧ t.hub = { s.hub with lastAccess := 0 } ∧
      t.queue q.val = { k with doorbell := v, lastAccepted := v, emptyAt := none } ∧ ∀ x, x ≠ q.val → t.queue x = s.queue x) ∧
  (∀ (h : Fin 96) (q : Fin 256) off size v s, ¬ (off = 0 ∧ size = 8) → ∃ t, exec (.doorbellWrite (.hostCore h) q off size v) s = .next t ∧
    t.hub.lastAccess = 2 ∧ t.hub.crc.reject = s.hub.crc.reject + 1 ∧ (t.queue q.val).doorbell = (s.queue q.val).doorbell) ∧
  (∀ a (q : Fin 256) off size v s, (∀ h, a ≠ .hostCore h) → exec (.doorbellWrite a q off size v) s = .next { s with hub := { s.hub with lastAccess := 1 } }) ∧
  (∀ (q : Fin 256) s u op, let k := s.queue q.val; let pa := k.ringBase + k.read.toNat % 2 ^ k.ringLog2 * 64
    s.reads q.val = true → k.run = none → k.read.toNat < k.doorbell.toNat → k.emptyAt = none → s.cpRead k.context pa 2 = (u, .ok op) →
    (leNat op = 0 → ∃ t, exec (.commandFetch q) s = .next t ∧ QueueOnly u t q.val ∧ t.queue q.val = { u.queue q.val with emptyAt := some s.ticks }) ∧
    (leNat op ≠ 0 → ∀ w bs, let v : BitVec 512 := BitVec.ofNat 512 (leNat bs); u.cpRead k.context pa 64 = (w, .ok bs) →
      ∃ t r, exec (.commandFetch q) s = .next t ∧ t = { w with queues := t.queues, nextRead := w.nextRead + 1 } ∧
      (∀ x, x ≠ q.val → t.queue x = w.queue x) ∧ t.queue q.val = { w.queue q.val with run := some r } ∧
      r.index = k.read ∧ r.packet = v ∧ r.readAt = w.nextRead ∧ (fld v 0 16 ∈ opcodes → r.stage = .fetched ∧ r.status = 0) ∧
      (fld v 0 16 ∉ opcodes → r.stage = .ending ∧ r.status = 0x0003)) ∧
    (leNat op ≠ 0 → ∀ w e, e ≠ .busy → u.cpRead k.context pa 64 = (w, .error e) →
      ∃ t, exec (.commandFetch q) s = .next t ∧ (t.queue q.val).error = true ∧ (t.queue q.val).read = (w.queue q.val).read)) ∧
  (∀ (q : Fin 256) s u e, let k := s.queue q.val
    s.reads q.val = true → k.run = none → k.read.toNat < k.doorbell.toNat → k.emptyAt = none → e ≠ .busy →
    s.cpRead k.context (k.ringBase + k.read.toNat % 2 ^ k.ringLog2 * 64) 2 = (u, .error e) →
    ∃ t, exec (.commandFetch q) s = .next t ∧ (t.queue q.val).error = true ∧ (t.queue q.val).read = (u.queue q.val).read) ∧
  (∀ (q : Fin 256) s at_, (s.queue q.val).emptyAt = some at_ → at_ + 1000 ≤ s.ticks → ∃ t, exec (.emptySlotRetry q) s = .next t ∧
    QueueOnly s t q.val ∧ t.queue q.val = { s.queue q.val with emptyAt := none }) ∧
  (∀ (q : Fin 256) s r, s.fetched q.val 1 = some r →
    (∀ off, r.badField [] = some off → ∃ t, exec (.nopCommand q) s = .next t ∧ QueueOnly s t q.val ∧ EndsWith t q.val r 0x0004 (off % 2 ^ 32)) ∧
    (r.badField [] = none → exec (.nopCommand q) s = .next (s.ended q.val 0))) ∧
  (∀ (q : Fin 256) s r u bs, let v := leNat bs
    s.fetched q.val 4 = some r → r.badField (waitParams r) = none →
    (s.begun q.val).cpRead (s.queue q.val).context (r.p 0x10 8) 8 = (u, .ok bs) → ∃ t, exec (.wait q) s = .next t ∧
      t = u.modRun q.val (fun x => { x with polled := u.ticks, result := BitVec.ofNat 64 v
                                            stage := if waitHolds (r.p 0x20 1) v (r.p 0x18 8) then .ending else x.stage })) ∧
  (∀ (q : Fin 256) s r u bs, let v := leNat bs
    s.run q.val = some r → r.stage = .running → r.opcode = 4 → r.polled + 100 ≤ s.ticks →
    s.cpRead (s.queue q.val).context (r.p 0x10 8) 8 = (u, .ok bs) → ∃ t, exec (.waitPoll q) s = .next t ∧
      t = u.modRun q.val (fun x => { x with polled := u.ticks, result := BitVec.ofNat 64 v
                                            stage := if waitHolds (r.p 0x20 1) v (r.p 0x18 8) then .ending else x.stage })) ∧
  (∀ (q : Fin 256) s r u bs w ps, let ctx := (s.queue q.val).context; let v : BitVec 512 := BitVec.ofNat 512 (leNat bs)
    s.fetched q.val 5 = some r → ctx ≠ 0 → r.badField [(0x10, 8, true)] = none →
    (r.p 0x10 8 % 64 ≠ 0 → ∃ t, exec (.collective q) s = .next t ∧ QueueOnly s t q.val ∧ EndsWith t q.val r 0x0009 7) ∧
    (r.p 0x10 8 % 64 = 0 → (s.startClock q.val).cpRead ctx (r.p 0x10 8) 64 = (u, .ok bs) → collValid v = true →
      u.cpRead ctx (collDesc v).peerTable (4 * (collDesc v).q) = (w, .ok ps) →
      let peer := fun (i : Nat) => (BitVec.ofNat 32 (leNat ((ps.drop (4 * i)).take 4)) : BitVec 32)
      ((∀ i, i < (collDesc v).q → (peer i).toNat < 2 ^ 21) → ∃ t c, exec (.collective q) s = .next t ∧
        t = ({ w with colls := w.colls ++ [c] }.runOn q.val).startColl q.val ∧
        c.queue = q.val ∧ c.desc = v ∧ c.first = (w.context ctx).first.getD 0 ∧ c.running = false ∧
        ∀ i, i < (collDesc v).q → c.peers[i]? = some (peer i)) ∧
      (∀ i, i < (collDesc v).q → 2 ^ 21 ≤ (peer i).toNat → exec (.collective q) s = .next (w.reject q.val 0x0009 7)))) ∧
  (∀ (q : Fin 256) s r u, let ctx := (s.queue q.val).context; let c := s.context (r.p 0x10 1)
    s.fetched q.val 0x0104 = some r → (ctx = 0 ∨ ctx = r.p 0x10 1) →
    r.badField [(0x10, 1, decide (r.p 0x10 1 < 32)), (0x18, 8, r.p 0x18 8 % 16 = 0)] = none → c.live = true →
    (s.startClock q.val).cpWrite ctx (r.p 0x18 8) (leBytes 8 c.jobsDone.toNat ++ leBytes 8 c.jobsFailed.toNat) = (u, .ok ()) →
    exec (.countsRead q) s = .next (u.finish q.val 0)) ∧
  (∀ (q : Fin 256) s r, s.fetched q.val 0x0105 = some r → r.badField [] = none →
    exec (.counterRead q) s = .next (s.ended q.val (s.counterOf (s.queue q.val).context).toNat)) ∧
  (∀ (q : Fin 256) s r at_, let k := s.queue q.val
    s.run q.val = some r → r.start = some at_ → r.limited = true → at_ + k.limitMs * 100000 ≤ s.ticks →
    ∃ t r', exec (.commandLimitExpiry q) s = .next t ∧ t.run q.val = some r' ∧ r'.stage = .ending ∧ r'.status = 0x0002 ∧ r'.index = r.index) ∧
  (∀ (q : Fin 256) s r u, let k := s.queue q.val
    s.run q.val = some r → s.ready = true → s.boot.cpUpAt ≤ s.ticks → r.stage = .ending → s.runEnded q.val r = true → k.stopping = false →
    r.resetDies = [] → r.destroys = none → r.destroysQueue = none → r.resetScope = 0 → r.p 2 1 % 2 = 0 → kfind s.boot.updates q.val = none →
    s.cpWrites k.context [(k.statusBase + r.index.toNat % 2 ^ k.ringLog2 * 32, leBytes 32 (pack [(0, 2, r.status.toNat), (2, 2, r.opcode),
      (4, 4, r.detail.toNat), (8, 8, r.index.toNat), (16, 8, r.result.toNat), (24, 8, s.hub.time.toNat)])),
      (k.ringBase + r.index.toNat % 2 ^ k.ringLog2 * 64, leBytes 2 0), (k.readIndexAddr, leBytes 8 (r.index + 1).toNat)] = .ok (u, none) →
    (u.queue q.val).stopping = false →
    ∃ t, exec (.commandComplete q) s = .next t ∧ t.queue q.val = { u.queue q.val with read := r.index + 1, run := none } ∧
      (∀ x, x ≠ q.val → t.queue x = u.queue x) ∧ t.mem = u.mem ∧
      ((u.ring k.context).enable = true → ∃ rec, (t.ring k.context).backlog = (u.ring k.context).backlog ++ [rec]) ∧
      (t.context k.context).jobsDone = (if countsJob r.opcode = true ∧ r.status = 0 then satAdd (u.context k.context).jobsDone 1
        else (u.context k.context).jobsDone) ∧
      (t.context k.context).jobsFailed = (if countsJob r.opcode = true ∧ r.status ≠ 0 then satAdd (u.context k.context).jobsFailed 1
        else (u.context k.context).jobsFailed))

/-- R332 to R335, R355 to R359: contexts, queues and pools of the KV ledger are made and destroyed as their packets say, and a step of
the ledger applies its operations in the order of the four phases. -/
def Obligations.ContextsQueuesAndPoolsAreMadeAndDestroyed : Prop :=
  (∀ (q : Fin 256) s r, let c := r.p 0x10 1
    s.fetched q.val 0x0100 = some r → (s.queue q.val).context = 0 →
    r.badField [(0x10, 1, 1 ≤ c && c ≤ 31), (0x11, 1, true), (0x12, 1, decide (r.p 0x12 1 < 2)), (0x14, 2, r.p 0x15 1 = 0),
      (0x18, 4, 100 ≤ r.p 0x18 4 && r.p 0x18 4 ≤ 1000000)] = none → (s.context c).live = false → s.boot.debugScope ≠ 3 →
    1 ≤ (s.partition (r.p 0x11 1)).dies → ∃ t, exec (.contextCreate q) s = .next t ∧
      t.context c = { live := true, first := some (r.p 0x11 1), hostCores := decide (r.p 0x12 1 = 1), priv := BitVec.ofNat 16 (r.p 0x14 2)
                      sliceUs := r.p 0x18 4 } ∧ (t.context c).key = none ∧ (∀ x, x ≠ c → t.context x = s.context x) ∧
      t = { s.ended q.val 0 with contexts := t.contexts }) ∧
  (∀ (q : Fin 256) s r, let c := r.p 0x10 1
    s.fetched q.val 0x0101 = some r → (s.queue q.val).context = 0 → r.badField [(0x10, 1, 1 ≤ c && c ≤ 31)] = none →
    (s.context c).live = true → (s.context c).ending = none → ∃ t r', exec (.contextDestroy q) s = .next t ∧
      (t.context c).ending = some q.val ∧ t.run q.val = some r' ∧ r'.destroys = some c ∧ r'.stage = .running ∧
      ∀ x y, x ≠ q.val → s.run x = some y → (s.queue x).live = true → (s.queue x).context = c → y.stage ≠ .ending → y.stage ≠ .done →
        ∃ y', t.run x = some y' ∧ y'.stage = .ending ∧ y'.status = 0x000E) ∧
  (∀ (q : Fin 256) s r u bs, let ctx := (s.queue q.val).context; let n := r.p 0x11 1
    s.fetched q.val 0x0102 = some r → s.mayQueue ctx (r.p 0x10 1) = true →
    r.badField [(0x10, 1, decide (r.p 0x10 1 < 32)), (0x11, 1, true), (0x12, 1, 6 ≤ r.p 0x12 1 && r.p 0x12 1 ≤ 16), (0x13, 1, decide (r.p 0x13 1 < 2)),
      (0x14, 4, 1 ≤ r.p 0x14 4 && r.p 0x14 4 ≤ 3600000), (0x18, 8, r.p 0x18 8 % 4096 = 0 && r.p 0x18 8 < 2 ^ 52),
      (0x20, 8, r.p 0x20 8 % 4096 = 0 && r.p 0x20 8 < 2 ^ 52), (0x28, 8, r.p 0x28 8 % 8 = 0 && r.p 0x28 8 < 2 ^ 52),
      (0x30, 8, decide (r.p 0x30 8 / 2 ^ 60 = 10)), (0x38, 8, r.p 0x38 8 % 2 ^ 22 = 0)] = none →
    (s.context (r.p 0x10 1)).live = true → (s.context (r.p 0x10 1)).ending = none → (s.queue n).live = false →
    (s.startClock q.val).cpRead ctx (r.p 0x28 8) 8 = (u, .ok bs) → n ≠ q.val → ∃ t k, exec (.queueCreate q) s = .next t ∧ t.queue n = k ∧ k.live = true ∧
      k.context = r.p 0x10 1 ∧ k.ringBase = r.p 0x18 8 ∧ k.ringLog2 = r.p 0x12 1 ∧ k.statusBase = r.p 0x20 8 ∧ k.readIndexAddr = r.p 0x28 8 ∧
      k.atp.toNat = r.p 0x30 8 ∧ k.aperture = apertureOf (r.p 0x38 8) ∧ k.adHw = decide (r.p 0x13 1 = 1) ∧ k.limitMs = r.p 0x14 4 ∧ k.read = BitVec.ofNat 64 (leNat bs) ∧ k.doorbell = k.read ∧ k.run = none ∧
      k.error = false ∧ k.lastAccepted = (u.queue n).lastAccepted ∧ t = { u.finish q.val 0 with queues := t.queues } ∧
      ∀ x, x ≠ n → t.queue x = (u.finish q.val 0).queue x) ∧
  (∀ (q : Fin 256) s r, let n := r.p 0x10 1
    s.fetched q.val 0x0103 = some r → s.mayQueue (s.queue q.val).context (s.queue n).context = true → r.badField [(0x10, 1, true)] = none →
    (s.queue n).live = true → (s.queue n).stopping = false → ∃ t, exec (.queueDestroy q) s = .next t ∧ (t.queue n).stopping = true ∧
      (n = q.val → (t.run q.val).map (·.stage) = some .ending) ∧
      (n ≠ q.val → ∃ r', t.run q.val = some r' ∧ r'.stage = .running ∧ r'.destroysQueue = some n)) ∧
  (∀ (q : Fin 256) s r u, let ctx := (s.queue q.val).context; let e := kvEntryBytes (r.p 0x12 2)
    s.fetched q.val 0x0200 = some r → s.poolBusy q.val = false → s.mayPool ctx (r.p 0x10 1) = true →
    r.badField [(0x10, 1, decide (r.p 0x10 1 < 64)), (0x11, 1, 12 ≤ r.p 0x11 1 && r.p 0x11 1 ≤ 21), (0x12, 2, 1 ≤ r.p 0x12 2 && r.p 0x12 2 ≤ 4096),
      (0x14, 4, 1 ≤ r.p 0x14 4 && r.p 0x14 4 ≤ 65536), (0x18, 4, 1 ≤ r.p 0x18 4 && r.p 0x18 4 ≤ 2 ^ 24), (0x1C, 4, r.p 0x1C 4 = 0),
      (0x20, 8, r.p 0x20 8 % 2 ^ r.p 0x11 1 = 0 && s.kvRangeOk ctx r 0x20), (0x28, 8, r.p 0x28 8 % 64 = 0 && s.kvRangeOk ctx r 0x28),
      (0x30, 8, r.p 0x30 8 % 64 = 0 && s.kvRangeOk ctx r 0x30), (0x38, 8, r.p 0x38 8 = 0)] = none → kfind s.pools (r.p 0x10 1) = none →
    (s.startClock q.val).cpWriteEach ctx [(r.p 0x28 8, List.replicate (r.p 0x14 4 * e) 0), (r.p 0x30 8, List.replicate ((r.p 0x18 4 + 7) / 8) 0)] = (u, .ok ()) →
    ∃ t, exec (.kvPoolCreate q) s = .next t ∧ kget {} t.pools (r.p 0x10 1) =
      { owner := ctx, first := (s.context ctx).first.getD 0, blockLog2 := r.p 0x11 1, maxBlocks := r.p 0x12 2, maxSeqs := r.p 0x14 4
        blocks := r.p 0x18 4, blockBase := r.p 0x20 8, tableBase := r.p 0x28 8, bitmapBase := r.p 0x30 8 } ∧
      t = { u.finish q.val 0 with pools := t.pools }) ∧
  (∀ (q : Fin 256) s r, s.fetched q.val 0x0202 = some r → s.poolBusy q.val = false → s.mayPool (s.queue q.val).context (r.p 0x10 1) = true →
    r.badField [(0x10, 1, decide (r.p 0x10 1 < 64))] = none → (kfind s.pools (r.p 0x10 1)).isSome = true →
    exec (.kvPoolDestroy q) s = .next { s.ended q.val 0 with pools := kdel s.pools (r.p 0x10 1) }) ∧
  (∀ (q : Fin 256) s r u bs v got, let ctx := (s.queue q.val).context; let k := kget ({} : KvPool) s.pools (r.p 0x10 1); let n := r.p 0x14 4
    let base := r.p 0x18 8; let e := kvEntryBytes k.maxBlocks; let ops := (List.range n).map fun i => kvOp (bs.drop (16 * i))
    let named := (ops.filter fun o => o.seq < k.maxSeqs).map (·.seq)
    let seqs : KMap KvSeq := (named.zip (got.drop 1)).foldl (fun m x => kset m x.1 (kvSeq k.maxBlocks x.2)) []
    let w := KvWork.step { seqs := seqs, bitmap := leNat (got.headD []), nextPark := k.nextPark } k.blocks ((List.range n).zip ops)
    let free := (freeBlocks k.blocks w.bitmap).length
    s.fetched q.val 0x0201 = some r → s.poolBusy q.val = false → s.mayPool ctx (r.p 0x10 1) = true →
    r.badField [(0x10, 1, decide (r.p 0x10 1 < 64)), (0x14, 4, 1 ≤ n && n ≤ 65536), (0x18, 8, base % 16 = 0)] = none →
    (kfind s.pools (r.p 0x10 1)).isSome = true → (s.startClock q.val).cpRead ctx base (16 * n) = (u, .ok bs) →
    u.cpReadAll ctx ((k.bitmapBase, (k.blocks + 7) / 8) :: named.map fun x => (k.tableBase + x * e, 16 + 4 * k.maxBlocks)) = (v, .ok got) →
    (∀ (i : Nat) (o : KvOp), ops[i]? = some o → o.bad k ops (kget ⟨0, 0, []⟩ seqs o.seq) = false) →
    ∀ z, v.cpWriteEach ctx ((w.seqs.map fun x => (k.tableBase + x.1 * e, x.2.bytes k.maxBlocks)) ++ [(k.bitmapBase, leBytes ((k.blocks + 7) / 8) w.bitmap)] ++
      (List.range n).map fun i => (base + 16 * i + 1, leBytes 1 (kget 0 w.results i))) = (z, .ok ()) →
    ∃ t, exec (.kvStep q) s = .next t ∧ (w.noSpace = false → t = { z.finish q.val free with pools := t.pools }) ∧
      (kget ({} : KvPool) t.pools (r.p 0x10 1)).nextPark = w.nextPark ∧
      (w.noSpace = true → t = { (z.modRun q.val fun x => { x with result := BitVec.ofNat 64 free }).reject q.val 0x0010 w.results.length
        with pools := t.pools }))

/-- R336 to R339, R343, R344, R183 to R185: KERNEL and LAYER wait for their slice, read and check their code objects and tables, and
launch; a LAYER's kernels and step-table entries start in their order; a partition passes to the next context that is ready. -/
def Obligations.KernelsAndLayersLaunchInTheirSlice : Prop :=
  (∀ (q : Fin 256) s r op, (op = 2 ∨ op = 3) → s.fetched q.val op = some r → (s.queue q.val).context ≠ 0 →
    r.badField (if op = 2 then kernelParams (s.partition ((s.context (s.queue q.val).context).first.getD 0)).dies r else layerParams r) = none →
    exec (if op = 2 then .kernel q else .layer q) s = .next (s.modRun q.val fun x => { x with stage := .waitSlice })) ∧
  (∀ (q : Fin 256) s r f u w h, let rng := cellRange (r.p 0x28 2) (r.p 0x2A 2) (w.partition f).dies
    let l : Launch := { code := BitVec.ofNat 64 (r.p 0x10 8), header := h, args := BitVec.ofNat 64 (r.p 0x18 8), gridX := r.p 0x20 4
                        gridY := r.p 0x24 2, gridZ := r.p 0x26 2, cellFirst := rng.1, cellCount := rng.2 }
    s.sliceWaiter q.val 2 = some (r, f) → s.beginSliced q.val f r = some u → u.readHeader q.val f (r.p 0x10 8) = (w, .ok h) →
    (w.tooLarge f l = true → exec (.kernel q) s = .next (w.reject q.val 0x0007 0)) ∧
    (w.tooLarge f l = false →
      exec (.kernel q) s = .next ((w.runOn q.val).modRun q.val fun x => { x with launches := x.launches ++ [{ l with order := x.order }] }))) ∧
  (∀ (q : Fin 256) s r f u w d, s.sliceWaiter q.val 2 = some (r, f) → s.beginSliced q.val f r = some u →
    u.readHeader q.val f (r.p 0x10 8) = (w, .error (some d)) → exec (.kernel q) s = .next (w.reject q.val 0x0005 d)) ∧
  (∀ (q : Nat) (s : State) (r : Run) f (u : State) (y : Run), s.run q = some r → r.start = none → s.takeSlice f (s.queue q).context = some u → u.run q = some y →
    ∃ t, s.beginSliced q f r = some t ∧ t = { u with queues := t.queues, nextOrder := u.nextOrder + 1 } ∧
      t.run q = some { y with order := u.nextOrder, start := some (y.start.getD u.ticks) }) ∧
  (∀ (q : Fin 256) s r f u v bs w x ks, let ctx := (s.queue q.val).context; let dies := (s.partition f).dies; let n := r.p 0x18 2
    let es := (List.range n).map fun i => (BitVec.ofNat 256 (leNat ((bs.drop (32 * i)).take 32)) : BitVec 256)
    s.sliceWaiter q.val 3 = some (r, f) → s.beginSliced q.val f r = some u → u.cpRead ctx (r.p 0x10 8) (32 * n) = (v, .ok bs) →
    (r.p 0x20 8 = 0 → v.checkEntries q.val f dies false 0 es = (w, .ok (x :: ks)) →
      let l := layerLaunch 0 x (cellRange (entryFld x.1 0x18 2) (entryFld x.1 0x1A 2) dies) none
      (w.modRun q.val fun y => { y with kernels := x :: ks }).tooLarge f l = false → ∃ t, exec (.layer q) s = .next t ∧
        t = (((w.modRun q.val fun y => { y with kernels := x :: ks }).runOn q.val).addLaunch q.val l)) ∧
    (r.p 0x20 8 ≠ 0 → ∀ v1 hb v2 eb, let head : BitVec 128 := BitVec.ofNat 128 (leNat hb); let m := byteFld head 6 2
      v.cpRead ctx (r.p 0x20 8) 16 = (v1, .ok hb) → m ≤ 4096 → v1.cpRead ctx (r.p 0x20 8 + 16) (16 * m) = (v2, .ok eb) →
      v2.checkEntries q.val f dies true 0 es = (w, .ok (x :: ks)) → w.stepBad f dies (x :: ks) head (stepEntries eb m) = none →
      exec (.layer q) s = .next ((w.runOn q.val).modRun q.val fun y => { y with kernels := x :: ks, steps := stepEntries eb m }))) ∧
  (∀ (q : Fin 256) s r f x, let k := r.launches.length
    let l := layerLaunch k x (cellRange (entryFld x.1 0x18 2) (entryFld x.1 0x1A 2) (s.partition f).dies) none
    s.runningLayer q.val = some (r, f) → r.steps = [] → (∀ y ∈ r.launches, y.done = true) → s.power.coolStop = false → r.kernels[k]? = some x →
    s.tooLarge f l = false → exec (.layerKernelAdvance q) s = .next (s.addLaunch q.val l)) ∧
  (∀ (q : Fin 256) entry s r f e x, let l := layerLaunch (byteFld e 0 2) x (byteFld e 4 2, byteFld e 6 2) (some (entry, e))
    s.runningLayer q.val = some (r, f) → r.mayStart entry = true → s.power.coolStop = false → r.steps[entry]? = some e →
    r.kernels[byteFld e 0 2]? = some x → s.tooLarge f l = false → exec (.stepEntryStart q entry) s = .next (s.addLaunch q.val l)) ∧
  (∀ (f : Fin 12) s c, (s.partition f.val).current = some c → (s.partition f.val).sliceOver = false →
    (s.partition f.val).sliceAt + (s.context c).sliceUs * 100 ≤ s.ticks → ∃ t, exec (.sliceEnd f) s = .next t ∧ t = { s with partitions := t.partitions } ∧
      ((∃ x ∈ s.ctxAfter f.val c, x ≠ c ∧ s.ctxReady x = true) → t.partition f.val = { s.partition f.val with sliceOver := true }) ∧
      ((∀ x ∈ s.ctxAfter f.val c, x ≠ c → s.ctxReady x = false) → t.partition f.val = { s.partition f.val with sliceAt := s.ticks })) ∧
  (∀ (f : Fin 12) s c x pre post, (s.partition f.val).current = some c → (s.partition f.val).sliceOver = true → s.slicedRuns c = false →
    s.ctxAfter f.val c = pre ++ x :: post → x ≠ c → s.ctxReady x = true → (∀ y ∈ pre, y ≠ c → s.ctxReady y = false) →
    ∃ t, exec (.contextSwitch f) s = .next t ∧ t = { s with partitions := t.partitions } ∧
      t.partition f.val = { s.partition f.val with current := some x, sliceAt := s.ticks, sliceOver := false }) ∧
  (∀ (f : Fin 12) s x, (s.partition f.val).current = none → x ∈ s.ctxAfter f.val 31 → s.ctxReady x = true →
    (∀ y ∈ s.ctxAfter f.val 31, y ≠ x → s.ctxReady y = true → s.readySince x < s.readySince y) → ∃ t, exec (.contextSwitch f) s = .next t ∧ t = { s with partitions := t.partitions } ∧
      t.partition f.val = { s.partition f.val with current := some x, sliceAt := s.ticks, sliceOver := false })

/-- R347 to R354, R391, R392, R396, R400, R401, R411, R416, R417: a critical command is carried out only when its tag is its key's and its
counter is new, and then takes its effect; one with a wrong tag ends with AUTH_FAIL and a stale one with REPLAY. -/
def Obligations.CriticalCommandsAuthenticateAndTakeEffect : Prop :=
  (∀ (q : Fin 256) s r k op c, CriticalPlain op c → let ctx := (s.queue q.val).context
    s.fetched q.val op = some r → s.criticalBefore q.val r = false → (s.context ctx).lockedAt = none → (s.context ctx).key = some k →
    ((tagOf k (s.message ctx r.packet none) "FT2-CMD").toNat ≠ r.p 0x30 16 → ∃ t, exec (c q) s = .next t ∧ EndsWith t q.val r 0x000A 0 ∧
      ((s.context ctx).fails < 15 → (t.context ctx).fails = (s.context ctx).fails + 1) ∧
      (15 ≤ (s.context ctx).fails → (t.context ctx).fails = 0 ∧ (t.context ctx).lockedAt = some s.ticks) ∧ s.counterOf ctx = t.counterOf ctx) ∧
    ((tagOf k (s.message ctx r.packet none) "FT2-CMD").toNat = r.p 0x30 16 → r.p 0x28 8 ≤ (s.counterOf ctx).toNat →
      ∃ t, exec (c q) s = .next t ∧ EndsWith t q.val r 0x000B 0 ∧ (t.context ctx).fails = 0 ∧ s.counterOf ctx = t.counterOf ctx)) ∧
  (∀ (q : Fin 256) s r, let w := r.p 0x10 2
    s.fetched q.val 0x0800 = some r → s.criticalBefore q.val r = false → Authentic s q.val r none → s.hasPriv (s.queue q.val).context 1 = true →
    r.badField [(0x10, 2, 1500 ≤ w && w ≤ 3800)] = none → ∃ t, exec (.powerLimit q) s = .next t ∧
      t.velvet.sustained = w ∧ t.power.limitAt = (if s.velvet.sustained = w then s.power.limitAt else s.ticks) ∧ t.power.lastCode = 0x020A ∧ t.power.seq = s.power.seq + 1 ∧
      (t.run q.val).map (·.stage) = some (if s.power.brake = true ∨ s.power.coolStop = true then .ending else .running)) ∧
  (∀ (q : Fin 256) s r, let first := r.p 0x10 1; let n := r.p 0x11 1; let pid : BitVec 32 := BitVec.ofNat 32 (r.p 0x14 4)
    s.fetched q.val 0x0801 = some r → s.criticalBefore q.val r = false → r.p 0x13 1 = 0 → Authentic s q.val r none → (s.queue q.val).context = 0 →
    r.badField [(0x10, 1, true), (0x11, 1, true), (0x12, 1, decide (r.p 0x12 1 < 4)), (0x13, 1, true), (0x14, 4, true), (0x18, 8, true)] = none →
    s.boot.debugScope ≠ 2 →
    (r.p 0x12 1 % 2 = 1 → 0 < n → (s.partition first).dies = n →
      exec (.partitionSet q) s = .next (((s.authOk q.val r).setPid first pid).finish q.val 0)) ∧
    (r.p 0x12 1 % 2 = 0 → layoutOk first n = true → (∀ x ∈ s.contexts, x.2.live = true → x.2.first = none) →
      exec (.partitionSet q) s = .next (((s.authOk q.val r).layOut first n pid (decide (r.p 0x12 1 / 2 = 1)) []).finish q.val 0))) ∧
  (∀ (q : Fin 256) s r u bs es, let first := r.p 0x10 1; let n := r.p 0x11 1; let pid : BitVec 32 := BitVec.ofNat 32 (r.p 0x14 4)
    s.fetched q.val 0x0801 = some r → s.criticalBefore q.val r = false → r.p 0x13 1 ≠ 0 → s.cpRead 0 (r.p 0x18 8) (32 * r.p 0x13 1) = (u, .ok bs) → (u.queue q.val).context = 0 →
    (s.context 0).lockedAt = none → Authentic u q.val r (some bs) → (s.queue q.val).context = 0 → r.p 0x12 1 % 2 = 0 → layoutOk first n = true →
    r.badField [(0x10, 1, true), (0x11, 1, true), (0x12, 1, decide (r.p 0x12 1 < 4)), (0x13, 1, decide (r.p 0x13 1 ≤ 32)), (0x14, 4, true), (0x18, 8, true)] = none →
    s.boot.debugScope ≠ 2 → (∀ x ∈ s.contexts, x.2.live = true → x.2.first = none) →
    payloadSets bs (r.p 0x13 1) (maskOf 12 ((List.range n).map (first + ·))) = some es →
    exec (.partitionSet q) s = .next (((u.authOk q.val r).layOut first n pid (decide (r.p 0x12 1 / 2 = 1)) es).finish q.val 0)) ∧
  (∀ (q : Fin 256) s r, s.fetched q.val 0x0802 = some r → s.criticalBefore q.val r = false → Authentic s q.val r none → s.hasPriv (s.queue q.val).context 3 = true →
    r.badField [(0x10, 2, decide (r.p 0x10 2 < 1024)), (0x12, 1, decide (r.p 0x12 1 < 128))] = none →
    ∃ t, exec (.systemAddress q) s = .next t ∧ t.hub.pod.toNat = r.p 0x10 2 ∧ t.hub.module.toNat = r.p 0x12 1 ∧ t.hub.addressed = true ∧
      (t.run q.val).map (·.stage) = some .ending) ∧
  (∀ (q : Fin 256) s r, let scope := r.p 0x10 1
    s.fetched q.val 0x0803 = some r → s.criticalBefore q.val r = false → Authentic s q.val r none → (s.queue q.val).context = 0 →
    (scope = 4 ∨ scope = 5 → r.badField [(0x10, 1, true), (0x11, 1, decide (r.p 0x11 1 = 0))] = none →
      exec (.reset q) s = .next (((s.authOk q.val r).modRun q.val fun k => { k with resetScope := scope }).finish q.val 0)) ∧
    (scope = 2 → r.p 0x11 1 < 12 → r.badField [(0x10, 1, true), (0x11, 1, true)] = none → (s.tile (r.p 0x11 1)).resetStep = 0 →
      ((s.tile (r.p 0x11 1)).up = true ∨ (s.tile (r.p 0x11 1)).fenced = true) → ∃ t, exec (.reset q) s = .next t ∧
        (t.run q.val).map (·.resetDies) = some [r.p 0x11 1] ∧ (t.run q.val).map (·.stage) = some .running ∧
        (t.tile (r.p 0x11 1)).resetBy = some q.val ∧
        (t.tile (r.p 0x11 1)).resetStep = (if (s.tile (r.p 0x11 1)).fenced = true then 2 else 1)) ∧
    (scope = 3 → (s.partition (r.p 0x11 1)).dies ≠ 0 → r.badField [(0x10, 1, true), (0x11, 1, true)] = none →
      (∀ d ∈ s.partDies (r.p 0x11 1), (s.tile d).resetStep = 0 ∧ ((s.tile d).up = true ∨ (s.tile d).fenced = true)) →
      ∃ t, exec (.reset q) s = .next t ∧ (t.run q.val).map (·.resetDies) = some (s.partDies (r.p 0x11 1)) ∧
        (t.run q.val).map (·.stage) = some .running ∧ ∀ d ∈ s.partDies (r.p 0x11 1), (t.tile d).resetBy = some q.val)) ∧
  (∀ (q : Fin 256) s r u bs typ i, let ctx := (s.queue q.val).context
    s.fetched q.val 0x0804 = some r → s.criticalBefore q.val r = false → r.p 0x20 4 ≤ 2 ^ 25 → (s.context ctx).lockedAt = none → s.cpRead ctx (r.p 0x18 8) (r.p 0x20 4) = (u, .ok bs) →
    (u.queue q.val).context = ctx → Authentic u q.val r (some bs) → u.hasPriv ctx 5 = true → s.hasPriv ctx 5 = true →
    r.badField [(0x18, 8, true), (0x20, 4, true)] = none → s.boot.debugScope ≠ 3 →
    let v := (u.staged 0x0804 bs).authOk q.val r
    v.verifyImage bs = some (typ, i) → (typ = 2 → i.count.toNat = v.velvet.imageCount.toNat + 1) → v.flash.staging = bs ∧
    exec (.firmwareUpdate q) s = .next ((v.beginImage q.val typ i).runOn q.val)) ∧
  (∀ (q : Fin 256) s r u bs key, let ctx := (s.queue q.val).context; let t' := r.p 0x10 1
    s.fetched q.val 0x0805 = some r → s.criticalBefore q.val r = false → (s.context ctx).lockedAt = none → s.cpRead ctx (r.p 0x18 8) 32 = (u, .ok bs) →
    (u.queue q.val).context = ctx → (s.context ctx).key = some key → Authentic u q.val r (some bs) → ctx = 0 →
    r.badField [(0x10, 1, decide (t' < 32)), (0x18, 8, true)] = none → (s.context t').live = true → s.boot.debugScope ≠ 3 →
    (u.authOk q.val r).boot.config.serial = s.boot.config.serial → ((u.authOk q.val r).context ctx).key = some key →
    let new := unwrapKey s.boot.config.serial key t' (r.p 0x28 8) (digest bs)
    let v := (u.authOk q.val r).modContext t' fun c => { c with key := some new, counter := 0 }
    exec (.keyRotate q) s = .next ((if t' = 0 then v.modFlash fun f => f.writeKey 0 (nextRecord s.boot.config.serial 0 f.ctx0Key new)
      else v).finish q.val 0)) ∧
  (∀ (q : Fin 256) s r, s.fetched q.val 0x0806 = some r → s.criticalBefore q.val r = false → r.p 0x20 4 ≤ 4096 → r.p 0x10 1 = 0 → Authentic s q.val r none →
    s.hasPriv (s.queue q.val).context 7 = true → r.badField [(0x10, 1, true), (0x18, 8, true), (0x20, 4, true)] = none →
    ∃ t, exec (.debugUnlock q) s = .next t ∧ t.boot.debugScope = 0 ∧ t.boot.debugDies = 0 ∧ (t.run q.val).map (·.stage) = some .ending) ∧
  (∀ (q : Fin 256) s r u bs, let ctx := (s.queue q.val).context; let dies : BitVec 12 := BitVec.ofNat 12 (leNat ((bs.drop 6).take 2))
    s.fetched q.val 0x0806 = some r → s.criticalBefore q.val r = false → r.p 0x20 4 ≤ 4096 → r.p 0x10 1 ≠ 0 → r.p 0x10 1 < 4 → (s.context ctx).lockedAt = none →
    s.cpRead ctx (r.p 0x18 8) (r.p 0x20 4) = (u, .ok bs) → (u.queue q.val).context = ctx → Authentic u q.val r (some bs) →
    s.hasPriv ctx 7 = true → r.badField [(0x10, 1, true), (0x18, 8, true), (0x20, 4, true)] = none →
    (u.authOk q.val r).tokenOk bs (r.p 0x10 1) = true → (u.authOk q.val r).scopeOk (r.p 0x10 1) dies = true →
    exec (.debugUnlock q) s = .next (((u.authOk q.val r).unlock (r.p 0x10 1) dies (some (bs.take 0xF14))).finish q.val 0)) ∧
  (∀ (c : Fin 32) s at_, (s.context c.val).lockedAt = some at_ → at_ + 100000000 ≤ s.ticks → ∃ t, exec (.authLockoutEnd c) s = .next t ∧
    t = { s with contexts := t.contexts } ∧ t.context c.val = { s.context c.val with lockedAt := none } ∧ ∀ x, x ≠ c.val → t.context x = s.context x) ∧
  (∀ (q : Fin 256) s r typ i t, s.run q.val = some r → r.stage = .running → r.opcode = 0x0804 → r.status = 0 → r.resetDies = [] → s.ready = true → s.boot.cpUpAt ≤ s.ticks →
    kfind s.boot.updates q.val = some (typ, i) →
    ((s.storeImage typ i).modBoot fun b => { b with updates := kdel b.updates q.val }).complete q.val r = .ok t →
    exec (.commandComplete q) s = .next (t.afterComplete q.val r))

end

namespace Sys2Proof.Machine

/-- Power control runs: the hub is up and no trip is latched. -/
def PowerRuns (s : State) : Prop := s.hubUp = true ∧ s.power.tripped = false

/-- A package reset (R389 to R391, R402): boot starts again at step 2; the Velvet domain, module flash and the waiting commands stay, and
cores, memory and queues are as after reset. -/
def PackageReset (s t : State) : Prop :=
  t.boot.stage = 2 ∧ t.boot.watchdog = some s.ticks ∧ t.velvet = s.velvet ∧ t.cores = [] ∧ t.mem = [] ∧ t.queues = [] ∧ t.contexts = [] ∧
  t.tiles = [] ∧ t.hub.errs = {} ∧ t.pending = s.pending ∧ t.ticks = s.ticks

end Sys2Proof.Machine

section

open Sys2Proof Sys2Proof.Machine

/-! ## Power, thermal and clocking control -/

/-- R14, R363 to R366, R368, R369, R371 to R373, R466: telemetry is taken or replaced, the activity model gives each die's and region's
power and each die's energy, the 10 µs update sets a target between the floor power and 4,400 W, holds every die at step 8 while it
sheds, and shares each die's power equally among its awake regions, the fast path lowers and releases the steps, what a partition lends
its dies is no more than its others give, and none that is not saturated gains, and regulator phases are lost. -/
def Obligations.PowerFollowsItsMeasurements : Prop :=
  (∀ (r : Fin 74) f s, let mw := f.milliVolt * f.milliAmp / 1000
    s.hubUp = true → f.present = true → f.crcOk = true → 4 * mw ≤ 5 * s.rated r.val → (kget {} s.power.rails r.val).same < 49 →
    ∃ t, exec (.telemetryFrame r f) s = .next t ∧ t = { s with power := t.power } ∧ (kget {} t.power.rails r.val).milliWatt = mw ∧
      (kget {} t.power.rails r.val).replaced = false ∧ (kget {} t.power.rails r.val).temp = f.temp ∧
      (kget {} t.power.rails r.val).status = f.status ∧ ∀ x, x ≠ r.val → kget {} t.power.rails x = kget {} s.power.rails x) ∧
  (∀ (r : Fin 74) f s, s.hubUp = true → (f.present = false ∨ f.crcOk = false ∨ 5 * s.rated r.val < 4 * (f.milliVolt * f.milliAmp / 1000)) →
    ∃ t, exec (.telemetryFrame r f) s = .next t ∧ (kget {} t.power.rails r.val).milliWatt = s.railModel r.val * 13 / 10 ∧
      (kget {} t.power.rails r.val).replaced = true ∧ (kget {} t.power.rails r.val).raised = true ∧
      ((kget {} s.power.rails r.val).raised = false → t.power.seq = s.power.seq + 1 ∧ t.power.lastCode = 0x0202) ∧
      ((kget {} s.power.rails r.val).raised = true → t.power.seq = s.power.seq)) ∧
  (∀ acts s, s.hubUp = true → s.power.diverge = false → (∀ a ∈ acts, ∀ b ∈ acts, a.die = b.die → a = b) →
    ∃ t, exec (.activityModelUpdate acts) s = .next t ∧ t = { s with power := t.power } ∧
      t.power.hubEnergy = s.power.hubEnergy + 10 * Config.staticPower 73 0 0 ∧
      (∀ a ∈ acts, (t.pwr a.die.val).acts = Machine.Activity.counts a ∧ (t.pwr a.die.val).regionActs = Machine.Activity.regionCounts a) ∧
      (∀ d r, d < 12 → r < 4 → kget 0 (t.pwr d).regionModel r = t.regionModelled d r) ∧
      ∀ d, d < 12 → ((∀ a ∈ acts, a.die.val ≠ d) → (t.pwr d).acts = (s.pwr d).acts) ∧
        ∀ c, c < 3 → kget 0 (t.pwr d).model c = t.modelled (100 + 3 * d + c) d ∧
          kget 0 (t.pwr d).energy c = kget 0 (s.pwr d).energy c + 10 * t.modelled (100 + 3 * d + c) d) ∧
  (∀ s, PowerRuns s → ∃ t, exec .controlLoopUpdate s = .next t ∧ t = { s with power := t.power, queues := t.queues, hub := t.hub, host := t.host } ∧
    1400 ≤ t.power.target ∧ t.power.target ≤ 4400 ∧ t.power.floor = decide (t.power.target = 1400) ∧
    (s.power.brake = true → t.power.target = 1400) ∧ t.power.hist.tail = s.power.hist.take 99999 ∧
    ∀ d ∈ s.poweredDies, (s.power.brake = true → (t.pwr d).n ≤ 8) ∧ (0 < t.power.shed → (t.pwr d).shareN = 8) ∧
      ∀ r ∈ s.awakeRegions d, ∀ r' ∈ s.awakeRegions d, kget 0 (t.pwr d).regionShare r = kget 0 (t.pwr d).regionShare r') ∧
  (∀ w s, PowerRuns s → 4400 < w → ∃ t, exec (.fastPath w) s = .next t ∧ t.power.fastHeld = true ∧ t.power.lowRun = 0 ∧
    (s.power.fastHeld = false → t.power.lastCode = 0x0203 ∧ t.power.seq = s.power.seq + 1) ∧
    ∀ d ∈ s.poweredDies, (t.pwr d).fastCap = if 4600 < w then 8 else Nat.max 8 (Nat.min (s.pwr d).n (s.pwr d).fastCap - 8)) ∧
  (∀ w s, PowerRuns s → w ≤ 4000 → s.power.fastHeld = true → 24 ≤ s.power.lowRun → ∃ t, exec (.fastPath w) s = .next t ∧
    t = { s with power := t.power } ∧ t.power.fastHeld = false ∧ t.power.fastBurst = false ∧ t.power.shedAll = false ∧
    ∀ d ∈ kkeys s.power.dies, (t.pwr d).fastCap = 64) ∧
  (∀ w s, PowerRuns s → 4000 < w → w ≤ 4400 → exec (.fastPath w) s = .next { s with power := { s.power with lowRun := 0 } }) ∧
  (∀ s, PowerRuns s → ∃ t, exec .lendUpdate s = .next t ∧ t = { s with power := t.power } ∧
    (s.power.brake = true ∨ s.power.fastHeld = true → ∀ d ∈ s.poweredDies, (t.pwr d).loan = 0 ∧ (t.pwr d).cross = 0 ∧ (t.pwr d).regionLoan = []) ∧
    (s.power.lendAcross = false → ∀ d ∈ s.poweredDies, (t.pwr d).cross = 0) ∧
    (∀ f, (s.partPowered f).foldl (fun n d => n + (t.pwr d).loan) 0 ≤ 0) ∧
    ∀ d ∈ s.poweredDies, -(s.unused d : Int) ≤ (t.pwr d).loan ∧ (s.saturated d = false → (t.pwr d).loan ≤ 0 ∧
      ∀ r ∈ s.awakeRegions d, kget 0 (t.pwr d).regionLoan r ≤ 0)) ∧
  (∀ (r : Fin 74) w s, s.hubUp = true → r ≠ 0 → w < (kget {} s.power.rails r.val).phases.getD (railN r.val + 1) →
    (railN r.val ≤ w → ∃ t, exec (.regPhase r w) s = .next t ∧ (kget {} t.power.rails r.val).phases = some w) ∧
    (w < (railN r.val + 1) / 2 → ∀ d, railDie r.val = some d → (s.tile d).up = true → (s.tile d).fenced = false → (s.tile d).fence = none →
      ∃ t, exec (.regPhase r w) s = .next t ∧ (kget {} t.power.rails r.val).phases = some w ∧ (t.tile d).fence = some (5, s.floorCycles)) ∧
    (w < (railN r.val + 1) / 2 → railDie r.val = none → ∃ t, exec (.regPhase r w) s = .next t ∧ PackageReset s t))

/-- R361, R362, R375 to R385, R475: samples move dies, the coolant and the hub through their stages; a trip turns every rail but the
hub's off until it is cleared; the brake, the stop and standby limit the clocks until they end. -/
def Obligations.ThermalAndSidebandInputsAct : Prop :=
  (∀ (d : Fin 12) (k : Fin 16) temp s, PowerRuns s → (s.tile d.val).up = true → temp < 115 → ∃ t, exec (.dieTempSample (.die d k) temp) s = .next t ∧
    kget 0 (t.pwr d.val).sensors k.val = temp ∧ (∀ j, j ≠ k.val → kget 0 (t.pwr d.val).sensors j = kget 0 (s.pwr d.val).sensors j) ∧
    (t.pwr d.val).stage = dieStageAfter (s.pwr d.val).stage (t.pwr d.val).temp ∧ temp ≤ (t.pwr d.val).temp ∧
    (s.power.standby = false → (dieCap (t.pwr d.val).stage < 64 → (t.pwr d.val).n ≤ dieCap (t.pwr d.val).stage) ∧
      (t.pwr d.val).m ≤ hostCap (t.pwr d.val).stage) ∧ (s.power.standby = true → (t.pwr d.val).n = (s.pwr d.val).n) ∧
    (∀ e, e ≠ d.val → t.pwr e = s.pwr e) ∧ t.power.tripped = false ∧
    ((t.pwr d.val).stage = 4 → (s.pwr d.val).stage < 4 → t.power.lastCode = 0x0205)) ∧
  (∀ (d : Fin 12) (k : Fin 16) temp s, PowerRuns s → (s.tile d.val).up = true → 115 ≤ temp → ∃ t, exec (.dieTempSample (.die d k) temp) s = .next t ∧
    t.power.tripped = true ∧ t.velvet.thermTrip = true ∧ t.cores = [] ∧ t.tiles = [] ∧ t.mem = reserveCells s.mem ∧
    ∀ e, e ∈ kkeys t.power.dies → (t.pwr e).n = 0 ∧ (t.pwr e).m = 0) ∧
  (∀ (d : Fin 12) (k : Fin 4) temp s, PowerRuns s → (s.tile d.val).up = true → temp < 115 → ∃ t, exec (.dieTempSample (.tile d k) temp) s = .next t ∧
    kget 0 (t.pwr d.val).sensors (16 + k.val) = temp ∧ (t.pwr d.val).stage = dieStageAfter (s.pwr d.val).stage (t.pwr d.val).temp) ∧
  (∀ (k : Fin 4) temp s, s.hubUp = true → (temp < 115 → exec (.dieTempSample (.hub k) temp) s =
    .next { s with power := { s.power with hubTemps := kset s.power.hubTemps k.val temp } }) ∧
    (115 ≤ temp → s.power.tripped = false → ∃ t, exec (.dieTempSample (.hub k) temp) s = .next t ∧ t.power.tripped = true ∧ t.velvet.thermTrip = true)) ∧
  (∀ s at_, s.velvet.thermTrip = true → s.velvet.perstSince = some at_ → at_ + 10000000 ≤ s.ticks → s.velvet.valid = true →
    (∀ x ∈ s.power.hubTemps, x.2 < 85) → ∃ t, exec .thermTripClear s = .next t ∧ PackageReset { s with velvet := { s.velvet with thermTrip := false } } t) ∧
  (∀ inlet flow s, PowerRuns s → ∃ t, exec (.coolantSample inlet flow) s = .next t ∧ t.power.inlet = inlet ∧ t.power.flow = flow ∧
    t.power.limitAt = (if t.effectiveW = s.effectiveW then s.power.limitAt else s.ticks) ∧
    (inlet ≤ 390 → 47 ≤ flow → t.power.coolantStage = 0) ∧ (400 < inlet → 1 ≤ t.power.coolantStage) ∧
    (450 < inlet ∨ flow < 45 → 2 ≤ t.power.coolantStage ∧ ∀ d ∈ s.poweredDies, s.power.coolantStage < 2 → (t.pwr d).n ≤ 8) ∧
    (500 < inlet ∨ flow < 30 → ∀ at_, s.power.stage3Since = some at_ → at_ + 100000000 ≤ s.ticks →
      t.power.coolantStage = 3 ∧ (s.power.coolantStage ≠ 3 → t.power.coolStop = true)) ∧
    (t.power.coolantStage ≠ s.power.coolantStage → t.power.coolantStage ≠ 3 → t.power.lastCode = 0x0207)) ∧
  (∀ level s, Calm s 2 → kget false s.velvet.raw 2 ≠ level → s.velvet.brakeN ≠ level → ∃ t, exec (.brake level) s = .next t ∧
    t.velvet.brakeN = level ∧ (s.hubUp = true → t.power.brake = !level ∧ t.power.lastCode = 0x0204 ∧
      (level = false → ∀ d ∈ s.poweredDies, (t.pwr d).n ≤ 8))) ∧
  (∀ level s, Calm s 1 → kget false s.velvet.raw 1 ≠ level → s.velvet.coolOk ≠ level → ∃ t, exec (.coolStop level) s = .next t ∧
    t.velvet.coolOk = level ∧ t.velvet.coolOkSince = (if level then some s.ticks else none) ∧
    (level = false → 4 ≤ s.boot.stage → s.velvet.valid = true → s.power.coolStop = false → s.power.tripped = false →
      t.power.coolStop = true ∧ t.power.lastCode = 0x0208 ∧ t.hub.alert.getLsbD 0 = true ∧ ∀ d ∈ s.poweredDies, (t.pwr d).n = 0 ∧ (t.pwr d).m = 0) ∧
    (level = true → t = { s with velvet := t.velvet })) ∧
  (∀ s at_, s.power.coolStop = true → s.power.tripped = false → s.velvet.coolOkSince = some at_ → at_ + 10000000 ≤ s.ticks →
    (∀ d, d < 12 → (s.pwr d).stage ≤ 1 ∧ ∀ x ∈ (s.tile d).drams, x.2.stage.toNat ≤ 1) → s.power.coolantStage = 0 →
    let u := (s.modPower fun p => { p with coolStop := false }).resumeMemory
    ∃ t, exec .coolResume s = .next t ∧ t.power.coolStop = false ∧ t.power.lastCode = 0x0209 ∧ t.hub.alert.getLsbD 0 = false ∧
      (∀ d, (t.pwr d).m ≤ 4) ∧ ∀ q r, u.run q = some r → r.stage = .running ∨ r.limited = true → ∃ r', t.run q = some r' ∧ r'.stage = .ending ∧ r'.status = 0x0012) ∧
  (∀ a s, MayWrite s a 0x20000 → 50 ≤ s.power.ramp.toNat → s.power.ramp.toNat ≤ 2000 → s.power.standby = false →
    (s.standbyRefused = false → ∃ t, exec (.standby a) s = .next t ∧ t.power.standby = true ∧ t.hub.lastAccess = 0 ∧
      (∀ d, (t.die d).pll = false) ∧ (∀ d, (t.pwr d).n = 0 ∧ (t.pwr d).m = 0) ∧ t.mem = s.mem) ∧
    (s.standbyRefused = true → ∃ t, exec (.standby a) s = .next t ∧ t.power.standby = false ∧ t.hub.lastAccess = 2 ∧
      t.hub.crc.reject = s.hub.crc.reject + 1)) ∧
  (∀ a s, MayWrite s a 0x20000 → 50 ≤ s.power.ramp.toNat → s.power.ramp.toNat ≤ 2000 → s.power.standby = true →
    ∃ t, exec (.wake a) s = .next t ∧ t.power.standby = false ∧ ∀ d ∈ kkeys t.dies, (t.tile d).up = true → (t.die d).pll = true)

/-! ## Boot, the wardens and recovery -/

/-- R23, R389, R390, R398, R399, R402 to R405, R418, R471, R472, R485: input power starts and ends the module, each boot stage
completes into the next, a failed one stops boot with its error, and the watchdog starts it again. -/
def Obligations.BootProceedsStageByStage : Prop :=
  (∀ s, s.velvet.powered = false → exec .powerOn s = .next { s with velvet := { powered := true, perstSince := some s.ticks, inputSince := s.ticks } }) ∧
  (∀ s, s.velvet.powered = true → s.velvet.valid = false → s.velvet.inputSince + 1000000 ≤ s.ticks → s.velvet.thermTrip = false → s.velvet.hubFails < 3 →
    ∃ t, exec .inputPowerValid s = .next t ∧ t.boot.stage = (if s.velvet.brownOut then 2 else 1) ∧ t.velvet = { s.velvet with valid := true } ∧
      t.hub.alert.getLsbD 4 = s.hub.alert.getLsbD 4 ∧ t.flash = s.flash ∧ t.cores = [] ∧ t.mem = [] ∧ t.queues = [] ∧ t.pending = s.pending) ∧
  (∀ s, s.velvet.powered = true → s.velvet.valid = false → s.ticks < s.velvet.inputSince + 1000000 → exec .inputPowerValid s = .next s) ∧
  (∀ s, s.velvet.valid = true → ∃ t, exec .brownOut s = .next t ∧
    t.velvet = { s.velvet with valid := false, brownOut := true, inputSince := s.ticks } ∧
    t.boot.stage = 0 ∧ t.hubUp = false ∧ t.hub.alert.getLsbD 4 = true ∧ (s.velvet.powered = true → t.alertOut = true) ∧ t.thermTripOut = s.thermTripOut ∧
    t.flash = s.flash ∧ t.cores = [] ∧ t.mem = [] ∧ t.pending = s.pending) ∧
  (∀ s, ∃ t, exec .inputPowerAbsent s = .next t ∧ t.velvet = {} ∧ t.flash = s.flash ∧ t.boot.stage = 0 ∧ t.mem = [] ∧ t.cores = []) ∧
  (∀ s, s.boot.stage = 2 → s.velvet.valid = true → ∃ t, exec .hubPowerFail s = .next t ∧ t.velvet.hubFails = s.velvet.hubFails + 1 ∧
    (s.velvet.hubFails < 2 → t = { s with velvet := t.velvet }) ∧ (2 ≤ s.velvet.hubFails → t.boot.stage = 0 ∧ t.hub.alert.getLsbD 5 = true)) ∧
  (∀ r s, s.velvet.valid = true → s.velvet.thermTrip = true → exec (.bootStage r) s = .next s) ∧
  (∀ r s, s.velvet.valid = true → s.boot.error = 0 → s.power.tripped = false → s.velvet.thermTrip = false →
    (s.boot.stage = 1 → exec (.bootStage r) s = .next { s with boot := { s.boot with stage := 2 } }) ∧
    (s.boot.stage = 2 → ∃ t, exec (.bootStage r) s = .next t ∧ t.boot.stage = 3 ∧ t.velvet.epoch = s.velvet.epoch + 1 ∧ t.velvet.holder = 0 ∧
      t.velvet.renewed = s.ticks ∧ kget 0 t.boot.wardens 0 = (3 : BitVec 3) ∧ kget 0 t.boot.wardens 1 = (2 : BitVec 3) ∧
      t.hub.slotId = s.hub.strap ∧ t.power.brake = !s.velvet.brakeN ∧ t.host.inReset = !s.velvet.perstN) ∧
    (s.boot.stage = 3 → s.boot.hold = false → (r.flashOk = false → ∃ t, exec (.bootStage r) s = .next t ∧ t.boot.error = 5) ∧
      (r.flashOk = true → r.rootOk = false → ∃ t, exec (.bootStage r) s = .next t ∧ t.boot.error = 4)) ∧
    (s.boot.stage = 3 → s.boot.hold = false → r.flashOk = true → r.rootOk = true → s.velvet.restored = true → s.velvet.brownOut = false →
      (s.flash.readRecords r.badTags = none → ∃ t, exec (.bootStage r) s = .next t ∧ t.boot.error = 5) ∧
      ∀ f0, s.flash.readRecords r.badTags = some f0 →
      (f0.selectFw = none → ∃ t, exec (.bootStage r) s = .next t ∧ t.boot.error = 1) ∧
      ∀ k f, f0.selectFw = some (k, f) →
        (f.selectCfg s.velvet.imageCount.toNat = none → ∃ t, exec (.bootStage r) s = .next t ∧ t.boot.error = 2) ∧
        ∀ c, f.selectCfg s.velvet.imageCount.toNat = some c → ∃ t, exec (.bootStage r) s = .next t ∧ t.boot.fwSlot = k ∧ t.boot.cfgCopy = c ∧
          t.boot.config = (f.copy c).config ∧ t.boot.count = f0.bootCount ∧
          (s.coolHeld = true → t.boot.stage = 4) ∧ (s.coolHeld = false → t.boot.stage = 3 ∧ t.boot.hold = true ∧ t.boot.watchdog = none)) ∧
    (s.boot.stage = 3 → s.boot.hold = true → s.coolHeld = true → ∃ t, exec (.bootStage r) s = .next t ∧ t.boot.stage = 4 ∧
      t.boot.watchdog = some s.ticks) ∧
    (s.boot.stage = 4 → ∃ t, exec (.bootStage r) s = .next t ∧ t.boot.hubWord = r.hubCaps ∧ t.velvet.hubRev = some (BitVec.ofNat 4 (fld r.hubCaps 0 4)) ∧
      ∀ d x, d < 12 → r.dieCaps.find? (fun y => y.1 = d) = some x → t.regValue .hub (.dieCaps d) = (x.2 &&& 0x3FFFF).toNat) ∧
    (s.boot.stage = 4 → (s.boot.config.verOk r.hubCaps = false ∨ s.boot.config.flagsOk r.hubCaps = false) →
      ∃ t, exec (.bootStage r) s = .next t ∧ t.boot.error = 3) ∧
    (s.boot.stage = 4 → s.boot.config.verOk r.hubCaps = true → s.boot.config.flagsOk r.hubCaps = true →
      (∃ d, d < 12 ∧ ∃ x, r.dieCaps.find? (fun y => y.1 = d) = some x ∧ s.boot.config.admits r.hubCaps x.2 = true) →
      ∃ t, exec (.bootStage r) s = .next t ∧ t.boot.stage = 5 ∧ ∀ d, d < 12 → (t.boot.admitted.getLsbD d = true ↔
        ∃ x, r.dieCaps.find? (fun y => y.1 = d) = some x ∧ s.boot.config.admits r.hubCaps x.2 = true)) ∧
    (s.boot.stage = 5 → (∃ d, d < 12 ∧ s.boot.admitted.getLsbD d = true ∧ ∀ x ∈ r.failed, x.val ≠ d) → ∃ t, exec (.bootStage r) s = .next t ∧
      t.boot.stage = 6 ∧ ∀ d, d < 12 → s.boot.admitted.getLsbD d = true → (∀ x ∈ r.failed, x.val ≠ d) →
        (t.tile d).up = true ∧ (t.die d).pll = true ∧ t.boot.admitted.getLsbD d = true) ∧
    (s.boot.stage = 6 → ∃ t, exec (.bootStage r) s = .next t ∧ t.boot.stage = 7 ∧ t.mem = reserveCells s.mem ∧ t.poison = reserveSectors s.poison) ∧
    (s.boot.stage = 7 → ∃ t, exec (.bootStage r) s = .next t ∧ t.ready = true ∧ t.flash.bootCount = s.flash.bootCount + 1 ∧
      t.boot.count = s.flash.bootCount + 1 ∧ t.boot.watchdog = none ∧ t.hub.alert.getLsbD 4 = false ∧ (t.ring 32).enable = true ∧ (t.context 0).live = true ∧
      (t.context 0).key = some (unwrapRecord s.boot.config.serial 0 s.flash.ctx0Key) ∧ (t.queue 0).live = true)) ∧
  (∀ s at_, s.boot.watchdog = some at_ → at_ + 500000000 ≤ s.ticks → s.velvet.valid = true → s.power.tripped = false →
    s.velvet.thermTrip = false →
    ∃ t, exec .bootWatchdog s = .next t ∧ PackageReset s t ∧ t.flash = s.flash.logged (2, s.boot.stage)) ∧
  (∀ r s, s.velvet.valid = true → s.boot.error = 0 → s.power.tripped = false → s.velvet.thermTrip = false → s.boot.stage = 3 → s.boot.hold = false → r.flashOk = true →
    r.rootOk = true → (s.flash.readRecords r.badTags).isSome = true → s.velvet.brownOut = true → ∃ t, exec (.bootStage r) s = .next t ∧ t.velvet.brownOut = false ∧
      t.flash.log = (s.flash.logged (3, 0)).log)

/-- R16, R17, R390, R392, R406 to R408, R413, R450, R452, R453, R455 to R459: leases are renewed, claimed and lost; an attestation
takes its nonce and ends with its report; the command processor restarts while a warden that holds the lease watches it; dies are fenced,
reset and readmitted; a handling window that stays open, or whose warden faults (log 25), escalates. -/
def Obligations.WardensAndRecoveryFollowTheirEvents : Prop :=
  (∀ (w : Fin 2) e s, kget 0 s.boot.wardens w.val = (3 : BitVec 3) →
    (w.val = s.velvet.holder ∧ e = s.velvet.epoch → exec (.leaseRenew w e) s = .next { s with velvet := { s.velvet with renewed := s.ticks } }) ∧
    (¬ (w.val = s.velvet.holder ∧ e = s.velvet.epoch) → (w.val = s.velvet.holder → s.wardenWindows = []) →
      ∃ t, exec (.leaseRenew w e) s = .next t ∧ kget 0 t.boot.wardens w.val = (4 : BitVec 3) ∧
      kget 0 t.boot.fencedAt w.val = s.ticks ∧ kfind t.boot.held w.val = none ∧ t.velvet = s.velvet) ∧
    (w.val = s.velvet.holder → e ≠ s.velvet.epoch → ∀ x ∈ s.wardenWindows, s.hub.windows = [x] →
      (∀ d, unitDie x.source x.unit.toNat = some d → (s.tile d).fenced = false → (s.tile d).fence = none →
        ∃ t, exec (.leaseRenew w e) s = .next t ∧ (t.tile d).fence = some (3, s.floorCycles) ∧ t.hub.windows = [] ∧ t.velvet = s.velvet) ∧
      (unitDie x.source x.unit.toNat = none → x.escalations = 0 → kget 0 s.boot.wardens (1 - w.val) = (2 : BitVec 3) →
        ∃ t, exec (.leaseRenew w e) s = .next t ∧ t.velvet.holder = 1 - w.val ∧ t.velvet.epoch = s.velvet.epoch + 1 ∧
          kget 0 t.boot.wardens w.val = (4 : BitVec 3) ∧ ∃ y ∈ t.hub.windows, y.unit = x.unit ∧ y.escalations = 1 ∧ y.opened = s.ticks) ∧
      (unitDie x.source x.unit.toNat = none → 1 ≤ x.escalations → ∃ t, exec (.leaseRenew w e) s = .next t ∧ PackageReset s t))) ∧
  (∀ (w : Fin 2) (e : BitVec 32) s, kget 0 s.boot.wardens w.val = (2 : BitVec 3) → s.velvet.renewed + 1000000 ≤ s.ticks → s.velvet.epoch.toNat < e.toNat →
    (s.wardenRuns = true → ∀ x ∈ s.wardenWindows, unitDie x.source x.unit.toNat = none → x.escalations = 0) →
    ∃ t, exec (.leaseClaim w e) s = .next t ∧ t.velvet.epoch = e ∧ t.velvet.holder = w.val ∧ t.velvet.renewed = s.ticks ∧
      kget 0 t.boot.wardens w.val = (3 : BitVec 3) ∧
      (kget 0 s.boot.wardens (1 - w.val) = (3 : BitVec 3) → kget 0 t.boot.wardens (1 - w.val) = (4 : BitVec 3)) ∧
      (3 ≤ s.boot.stage → s.boot.stage < 15 → s.boot.error = 0 → t.boot.stage = 3 ∧ t.boot.hold = false ∧ t.boot.watchdog = some s.ticks) ∧
      (s.boot.error ≠ 0 → t.boot.stage = s.boot.stage ∧ t.boot.error = s.boot.error)) ∧
  (∀ s, 3 ≤ s.boot.stage → s.velvet.valid = true → s.velvet.renewed + 10000000 ≤ s.ticks → ∃ t, exec .leaseLost s = .next t ∧ PackageReset s t ∧
    t.flash = s.flash.logged (1, 0)) ∧
  (∀ a (v : BitVec 32) s, MayWrite s a 0x50120 → v.getLsbD 0 = true → s.boot.attBusy = none → ∃ t, exec (.go a v) s = .next t ∧
    t.boot = { s.boot with attBusy := some s.boot.nonce, attDone := false } ∧ t = { s with boot := t.boot, hub := { s.hub with lastAccess := 0 } }) ∧
  (∀ s n, s.boot.attBusy = some n → exec .attestationDone s =
    .next { s with boot := { s.boot with attBusy := none, attDone := true, attBuf := s.report n } }) ∧
  (∀ s, s.ready = true → s.wardenRuns = true → s.boot.cpUpAt ≤ s.ticks → s.boot.cpRestarts = [] → ∃ t, exec .cpHeartbeatMissed s = .next t ∧
    t.boot.cpUpAt = s.ticks + 2000000 ∧ t.boot.cpRestarts = [s.ticks] ∧
    ∀ q r, s.run q = some r → r.stage = .running ∨ r.stage = .waitSlice → ∃ r', t.run q = some r' ∧ r'.stage = .ending ∧ r'.status = 0x0013) ∧
  (∀ s, s.ready = true → s.wardenRuns = false → exec .cpHeartbeatMissed s = .next s) ∧
  (∀ s, s.ready = true → s.wardenRuns = true → s.boot.cpUpAt ≤ s.ticks → s.boot.cpRestarts ≠ [] → s.ticks < s.boot.cpUpAt + 1100000 →
    ∃ t, exec .cpHeartbeatMissed s = .next t ∧ PackageReset s t) ∧
  (∀ (d : Fin 12) s, (s.tile d.val).up = true → (s.tile d.val).fenced = false → (s.tile d.val).fence = none →
    ∃ t, exec (.heartbeatTimeout d) s = .next t ∧ t = { s with tiles := t.tiles } ∧ (t.tile d.val).fence = some (2, s.floorCycles) ∧
      (t.tile d.val).fenced = false ∧ ∀ e, e ≠ d.val → t.tile e = s.tile e) ∧
  (∀ (d : Fin 12) s, (s.die d.val).pll = true → ∃ t, exec (.diePllFailure d) s = .next t ∧ t = { s with dies := t.dies } ∧
    t.die d.val = { s.die d.val with pllFailed := true } ∧ ∀ e, e ≠ d.val → t.die e = s.die e) ∧
  (∀ (d : Fin 12) s cause at_, (s.tile d.val).fence = some (cause, at_) → at_ + 2000000 ≤ s.floorCycles → ∃ t, exec (.fenceTakesEffect d) s = .next t ∧
    (t.tile d.val).fenced = true ∧ (t.tile d.val).fence = none ∧ (∀ l, l / 8 = d.val → (t.link l).state = .off) ∧
    (t.tile d.val).remotes = [] ∧ (∀ x ∈ t.xbar, x.2.core / 128 ≠ d.val) ∧ ∀ c, c / 128 = d.val → (t.core c).retiring = none) ∧
  (∀ (d : Fin 12) caps ok bad slow s,
    ((s.tile d.val).resetStep = 2 → ∃ t, exec (.dieResetStep d caps ⟨ok, bad, slow⟩) s = .next t ∧ (t.tile d.val).resetStep = 3 ∧ (t.tile d.val).fenced = true ∧
      t.die d.val = {} ∧ (∀ c, c / 128 = d.val → t.core c = {}) ∧ (∀ c, c / 128 ≠ d.val → t.core c = s.core c) ∧
      (t.tile d.val).isets = (s.tile d.val).isets ∧ t.mem = s.mem) ∧
    ((s.tile d.val).resetStep = 3 → ∃ t, exec (.dieResetStep d caps ⟨ok, bad, slow⟩) s = .next t ∧ (t.tile d.val).resetStep = 4 ∧
      (∀ a, memKey d.val 0 ≤ a → a < memKey d.val 0 + 2 ^ 39 → cellGet t.mem a = 0) ∧
      (∀ a, a < memKey d.val 0 ∨ memKey d.val 0 + 2 ^ 39 ≤ a → cellGet t.mem a = cellGet s.mem a)) ∧
    ((s.tile d.val).resetStep = 4 → (ok = false ∨ s.boot.config.admits s.boot.hubWord caps = false) →
      ∃ t, exec (.dieResetStep d caps ⟨ok, bad, slow⟩) s = .next t ∧ (t.tile d.val).resetStep = 0 ∧ (t.tile d.val).fenced = true ∧ (t.tile d.val).resetBy = none ∧
        t.regValue .hub (.dieCaps d.val) = (caps &&& 0x3FFFF).toNat) ∧
    ((s.tile d.val).resetStep = 4 → ok = true → s.boot.config.admits s.boot.hubWord caps = true →
      ∃ t, exec (.dieResetStep d caps ⟨ok, bad, slow⟩) s = .next t ∧ (t.tile d.val).resetStep = 5 ∧ (t.tile d.val).up = true ∧ (t.die d.val).pll = true ∧
        (t.die d.val).timeLoaded = true ∧ (t.die d.val).time = s.hub.time ∧
        (∀ m ∈ bad, (t.tile d.val).ucieDisabled.getLsbD m.val = true) ∧ (2 ∈ slow → (t.tile d.val).ucieRate 2 = 16)) ∧
    ((s.tile d.val).resetStep = 5 → (∀ m ∈ s.takers d.val, s.takenBusy m d.val = false) →
      ∃ t, exec (.dieResetStep d caps ⟨ok, bad, slow⟩) s = .next t ∧ (t.tile d.val).resetStep = 0 ∧ (t.tile d.val).fenced = false ∧ (t.tile d.val).resetBy = none)) ∧
  (∀ (d : Fin 12) s w rest, let unit : BitVec 32 := BitVec.ofNat 32 (0x0B000000 + d.val)
    s.hub.windows = w :: rest → w.unit = unit → w.opened + 10000000 ≤ s.ticks → s.wardenRuns = false → (s.tile d.val).fenced = false →
    (s.tile d.val).fence = none → ∃ t, exec (.handlingWindowTimeout unit) s = .next t ∧ (t.tile d.val).fence = some (3, s.floorCycles) ∧
      ∀ x ∈ t.hub.windows, x.unit ≠ unit) ∧
  (∀ (r : Fin 74) s w rest, let unit : BitVec 32 := BitVec.ofNat 32 (0x0A000000 + r.val)
    s.hub.windows = w :: rest → w.unit = unit → w.opened + 10000000 ≤ s.ticks → s.wardenRuns = false →
    (w.escalations = 0 → s.velvet.holder < 2 → kget 0 s.boot.wardens (1 - s.velvet.holder) = (2 : BitVec 3) →
      ∃ t, exec (.handlingWindowTimeout unit) s = .next t ∧ t.velvet.holder = 1 - s.velvet.holder ∧ t.velvet.epoch = s.velvet.epoch + 1 ∧
        ∃ x ∈ t.hub.windows, x.unit = unit ∧ x.escalations = 1 ∧ x.opened = s.ticks) ∧
    (1 ≤ w.escalations → ∃ t, exec (.handlingWindowTimeout unit) s = .next t ∧ PackageReset s t))

end

namespace Sys2Proof.Machine

/-- A request of the management bus that needs no authentication: its opcode and its parameters (R481). -/
def plainRequest (op : Byte) (ps : List Byte) : List Byte := [op, BitVec.ofNat 8 ps.length, 0, 0] ++ ps

/-- A request that the board controller signs: opcode, parameters, counter and tag (R481). -/
def signedRequest (op : Byte) (ps : List Byte) (counter tag : Nat) : List Byte := plainRequest op ps ++ leBytes 8 counter ++ leBytes 16 tag

/-- The board controller's request authenticates: the key is installed, there is no lockout, the tag is the key's, and the counter
exceeds the stored one (R352, R415, R481). -/
def BoardSigned (s : State) (op : Byte) (ps : List Byte) (counter tag : Nat) : Prop :=
  s.mgmtUp = true ∧ s.boardLockedOut = false ∧ s.velvet.boardCounter.toNat < counter ∧ counter < 2 ^ 64 ∧ tag < 2 ^ 128 ∧
  ∃ k, s.boardKeyNow = some k ∧ (s.boardTag k (signedRequest op ps counter tag) ps.length).toNat = tag

/-- The reply with a status and data (R480, R481). -/
def replyOf (op : Byte) (status : Nat) (data : List Byte) : Option (List Byte) :=
  some ([op] ++ leBytes 1 status ++ leBytes 2 data.length ++ data)

/-- The registers whose RW fields take what is written, the write starting no conversion, write-back, training or invalidation (Tables 3.9, 7.9,
7.11 to 7.14, 7.20, 7.21, 9.20, 10.4, 10.6, 12.11, 14.6 and 15.5, and SEC_ATTEST_NONCE); O34, O36, O37 and O54 have the others. -/
def PlainReg : Reg → Bool
  | .crc k => decide (k ≤ 1)
  | .ring _ k => decide (k ≤ 2)
  | .iset _ k => decide (k ≤ 2)
  | .err k => decide (k = 1)
  | .winCtl | .msix _ | .pwrCtl | .invVa | .nonce _ | .classMask _ | .streamCtl | .hotBase | .hotCtl | .hotRead | .msgTable | .modRoute _
  | .podRoute _ | .coreTimeout _ => true
  | _ => false

/-- t is s after a register access with an answer, and registers of the hub window apart from those that v names. -/
def Answered (s t : State) (v : Nat) : Prop := t.hub.lastAccess = v ∧ t.mem = s.mem ∧ t.queues = s.queues ∧ t.pending = s.pending

end Sys2Proof.Machine

section

open Sys2Proof Sys2Proof.Machine

/-! ## Registers -/

/-- R419 to R425, R428, R429, R431, R433 to R436: a write of a register of those that PlainReg lists gives its RW
fields their values, and leaves one whose value is out of its range as it was; one to no register is counted;
one that the agent may not make, or that gets no answer, is a decode error; bit aliases write one bit, an SQ field takes the present
SEQ alone, and the configuration check commits, compares and reports. -/
def Obligations.RegistersFollowTheirWrites : Prop :=
  (∀ a (off : BitVec 26) wide (v : BitVec 64) w o r s, MayWrite s a off.toNat → windowAt off.toNat = some (w, o) → regAt w o = some r →
    PlainReg r = true → r.wide = wide → off.toNat % (if wide then 8 else 4) = 0 → (∀ f ∈ r.fields, f.code ≠ .rw → f.of v.toNat = 0) →
    let ok := fun (f : RegField) => f.ok (f.of v.toNat)
    let all := ∀ f ∈ r.fields, f.code = .rw → ok f = true
    ∃ t, exec (.registerWrite a off wide v) s = .next t ∧
      (∀ f ∈ r.fields, f.code = .rw → f.of (t.regValue w r) = if ok f then f.of v.toNat else f.of (s.regValue w r)) ∧
      (∀ f ∈ r.fields, f.conf = true → ok f = true → (t.crcOf w).dirty = true) ∧
      (all → (t.crcOf w).reject = (s.crcOf w).reject ∧ Answered s t 0) ∧
      (¬ all → (t.crcOf w).reject = (s.crcOf w).reject + 1 ∧ Answered s t 2)) ∧
  (∀ a (off : BitVec 26) (v : BitVec 64) i s, i < 4 → off.toNat = 0x50100 + 8 * i → MayWrite s a off.toNat →
    ∃ t, exec (.registerWrite a off true v) s = .next t ∧ t.boot = { s.boot with nonce := setFld s.boot.nonce (64 * i) 64 v.toNat } ∧
      t = { s with boot := t.boot, hub := { s.hub with lastAccess := 0 } }) ∧
  (∀ a (off : BitVec 26) (v : BitVec 64) (d : Fin 12) c s, c < 7 → off.toNat = tileOff d.val (0x4010 + 4 * c) → MayWrite s a off.toNat →
    ∃ t, exec (.registerWrite a off false v) s = .next t ∧ kget 0 (t.tile d.val).classMask c = v.truncate 16 ∧
      (t.tile d.val).crc.dirty = true ∧ (t.tile d.val).crc.pending = false ∧ (∀ e, e ≠ d.val → t.tile e = s.tile e) ∧ Answered s t 0) ∧
  (∀ a (off : BitVec 26) wide (v : BitVec 64) s r, MayWrite s a off.toNat → off.toNat < 0xF00000 → off.toNat % (if wide then 8 else 4) = 0 →
    regAt .hub off.toNat = some r → r.fields = [] → r.wideOnly = false → (wide = true → r.wide = true) →
    exec (.registerWrite a off wide v) s = .next { s with hub := { s.hub with lastAccess := 0 } }) ∧
  (∀ a (off : BitVec 26) (v : BitVec 64) s, MayWrite s a off.toNat → off.toNat < 0xF00000 → off.toNat % 4 = 0 → wordReg .hub off.toNat = none →
    ∃ t, exec (.registerWrite a off false v) s = .next t ∧ t.hub.crc.reject = s.hub.crc.reject + 1 ∧
      Answered s t 2 ∧ t = { s with hub := t.hub }) ∧
  (∀ a (off : BitVec 26) wide (v : BitVec 64) s, s.accessReaches a = true → off.toNat % (if wide then 8 else 4) = 0 →
    s.mayReach a off.toNat true = false → (regionOf off.toNat = .none ∨ ∃ o, regionOf off.toNat = .hub o) →
    exec (.registerWrite a off wide v) s = .next { s with hub := { s.hub with lastAccess := 1 } }) ∧
  (∀ a (d : Fin 12) s, s.accessReaches a = true →
    exec (.registerAccessTimeout a (.tile d)) s = .next { s with hub := { s.hub with lastAccess := 1 } } ∧
    exec (.registerAccessTimeout a (.die d)) s = .next { s with hub := { s.hub with lastAccess := 1 } }) ∧
  (∀ a (v : BitVec 64) s, MayWrite s a 0x3400000 → ∃ t, exec (.bitAliasWrite a 0x400000 4 v) s = .next t ∧
    t.power = { s.power with lendAcross := v.getLsbD 0 } ∧ t.hub.crc.dirty = true ∧ Answered s t 0) ∧
  (∀ a off size (v : BitVec 64) s, s.accessReaches a = true → s.mayReach a (0x3000000 + off.toNat) true = true → ¬ (size = 4 ∧ off.toNat % 4 = 0) →
    ∃ t, exec (.bitAliasWrite a off size v) s = .next t ∧ t.hub.crc.reject = s.hub.crc.reject + 1 ∧ Answered s t 2 ∧ t.power = s.power) ∧
  (∀ a (v : BitVec 16) s, MayWrite s a 0x20020 → ∃ t, exec (.sqAcknowledge a 0x20020 v) s = .next t ∧
    t.power = { s.power with acked := if v = s.power.seq then v else s.power.acked } ∧ Answered s t 0 ∧
    t.hub.alert.getLsbD 1 = (s.hub.alert.getLsbD 1 && decide (t.power.seq ≠ t.power.acked))) ∧
  (∀ a (v : BitVec 16) s, MayWrite s a 0x200 → ∃ t, exec (.sqAcknowledge a 0x200 v) s = .next t ∧
    t.hub.sideAcked = (if v = s.hub.sideSeq then v else s.hub.sideAcked) ∧ Answered s t 0) ∧
  (∀ a (v : BitVec 16) s, MayWrite s a 0x30018 → ∃ t, exec (.sqAcknowledge a 0x30018 v) s = .next t ∧
    t.hub.errs = { s.hub.errs with acked := if v = s.hub.errs.seq then v else s.hub.errs.acked } ∧ Answered s t 0) ∧
  (∀ a w s, MayWrite s a (w.base + 0xF00) → (s.crcOf w).action.toNat ≤ 3 → ∃ t, exec (.commit a w) s = .next t ∧
    t.crcOf w = { s.crcOf w with pending := true, commitAt := s.ticks } ∧ Answered s t 0) ∧
  (∀ a w (v : BitVec 32) s, MayWrite s a (w.base + 0xF08) → ∃ t, exec (.ref a w v) s = .next t ∧
    t.crcOf w = { s.crcOf w with ref := v, dirty := false, pending := false } ∧ Answered s t 0) ∧
  (∀ w s, let v : BitVec 32 := BitVec.ofNat 32 (s.confCrc w); let c := s.crcOf w
    (match w with | .hub => s.hubUp | .tile t => (s.tile t.val).up | .die d => (s.tile d.val).up) = true →
    (c.pending = true → c.arm = none → c.commitAt < s.ticks - s.hub.time.toNat % 100000 → ∃ t, exec (.crcSweep w) s = .next t ∧
      t.crcOf w = { c with value := v, ref := v, dirty := false, pending := false }) ∧
    (c.pending = false → c.dirty = false → c.check = true → c.ref = v → ∃ t, exec (.crcSweep w) s = .next t ∧
      t.crcOf w = { c with value := v, mismatch := false }) ∧
    (c.pending = false → c.dirty = false → c.check = true → c.ref ≠ v → c.mismatch = false → c.action = 0 → ∃ t, exec (.crcSweep w) s = .next t ∧
      t.crcOf w = { c with value := v, mismatch := true, seq := c.seq + 1 } ∧ t.mem = s.mem) ∧
    (c.pending = false → c.check = false ∨ c.dirty = true → ∃ t, exec (.crcSweep w) s = .next t ∧ t.crcOf w = { c with value := v }))

/-! ## The management bus, JTAG and the sideband inputs -/

/-- R351, R409, R411, R415, R475 to R477, R479 to R482: requests of the board controller are answered, those that change the module once
they authenticate; the reply is read back; JTAG reaches what the unlock in force allows; inputs that change too often are held low. -/
def Obligations.ManagementRequestsAreAnswered : Prop :=
  (∀ (off n : Nat) s, s.mgmtUp = true → off < 2 ^ 32 → off % 4 = 0 → 1 ≤ n → n ≤ 8 → (∀ i, i < n → off + 4 * i < 0xF00000 ∧ s.mayReach .trayHost (off + 4 * i) false = true) →
    ∃ t, exec (.regRead (plainRequest 0x01 (leBytes 4 off ++ leBytes 1 n))) s = .next t ∧ t = { s with hub := t.hub } ∧
      t.hub = { s.hub with reply := replyOf 0x01 0 ((List.range n).flatMap fun i => leBytes 4 (s.regRead (off + 4 * i) 4)) }) ∧
  (∀ (off v : Nat) s, s.mgmtUp = true → off % 4 = 0 → off < 0x24 → v < 2 ^ 32 → ∃ t, exec (.attestWrite (plainRequest 0x02 (leBytes 4 off ++ leBytes 4 v))) s = .next t ∧
    t.hub.reply = replyOf 0x02 0 [] ∧ t = { s.write4 .hub (0x50100 + off) v with hub := t.hub }) ∧
  (∀ s, s.mgmtUp = true → exec (.boardCounterRead (plainRequest 0x03 [])) s =
    .next { s with hub := { s.hub with reply := replyOf 0x03 0 (leBytes 8 s.velvet.boardCounter.toNat) } }) ∧
  (∀ (op : Byte) c n req s, (op = 0x01 ∧ c = .regRead req ∧ n = 5) ∨ (op = 0x02 ∧ c = .attestWrite req ∧ n = 8) ∨
      (op = 0x03 ∧ c = .boardCounterRead req ∧ n = 0) → s.mgmtUp = true → req.head? = some op →
    req.length ≠ 4 + n ∨ req[1]? ≠ some (BitVec.ofNat 8 n) ∨ req[2]? ≠ some 0 ∨ req[3]? ≠ some 0 →
    exec c s = .next { s with hub := { s.hub with reply := replyOf op 3 [] } }) ∧
  (∀ (w : Fin 2) counter tag s, BoardSigned s 0x10 (leBytes 1 w.val) counter tag → ∃ t, exec (.wardenSelect (signedRequest 0x10 (leBytes 1 w.val) counter tag)) s = .next t ∧
    t.velvet.epoch = s.velvet.epoch + 1 ∧ t.velvet.holder = w.val ∧ t.velvet.boardCounter.toNat = counter ∧ t.boot.boardFails = 0 ∧
    t.hub.reply = replyOf 0x10 0 []) ∧
  (∀ counter tag s, BoardSigned s 0x11 [] counter tag → ∃ t, exec (.packageReset (signedRequest 0x11 [] counter tag)) s = .next t ∧
    t.hub.resetAt = some s.ticks ∧ t.hub.reply = replyOf 0x11 0 [] ∧ t.boot.stage = s.boot.stage ∧ t.velvet.boardCounter.toNat = counter) ∧
  (∀ wrapped counter tag s key, wrapped.length = 32 → s.boardKeyNow = some key → BoardSigned s 0x12 wrapped counter tag →
    ∃ t, exec (.boardKeyRotate (signedRequest 0x12 wrapped counter tag)) s = .next t ∧
      t.boot.boardKey = some (unwrapKey s.boardSerial key 0xFF counter (digest wrapped)) ∧
      t.flash.boardKey.1 = s.flash.boardKey.1 + 1 ∧ t.hub.reply = replyOf 0x12 0 [] ∧ t.velvet.boardCounter.toNat = counter) ∧
  (∀ counter tag s, s.mgmtUp = true → s.boardKeyNow = none → exec (.packageReset (signedRequest 0x11 [] counter tag)) s =
    .next { s with hub := { s.hub with reply := replyOf 0x11 4 [] } }) ∧
  (∀ req s, s.mgmtUp = false → exec (.packageReset req) s = .next s ∧ exec (.regRead req) s = .next s ∧ exec .i3cReplyRead s = .next s) ∧
  (∀ counter tag s key, s.mgmtUp = true → s.boardLockedOut = false → s.boardKeyNow = some key → tag < 2 ^ 128 →
    (s.boardTag key (signedRequest 0x11 [] counter tag) 0).toNat ≠ tag → s.boot.boardFails < 15 →
    ∃ t, exec (.packageReset (signedRequest 0x11 [] counter tag)) s = .next t ∧ t.hub.reply = replyOf 0x11 1 [] ∧
      t.boot = { s.boot with boardFails := s.boot.boardFails + 1 } ∧ t.hub.resetAt = s.hub.resetAt ∧ t.velvet = s.velvet) ∧
  (∀ s, s.mgmtUp = true → (s.hub.resetAt = none → exec .i3cReplyRead s = .next { s with i3cOut := s.hub.reply.getD [0, 4, 0, 0] }) ∧
    (s.hub.resetAt ≠ none → ∃ t, exec .i3cReplyRead s = .next t ∧ PackageReset s t ∧ t.i3cOut = s.hub.reply.getD [0, 4, 0, 0])) ∧
  (∀ s, s.hubUp = true → ∃ t, exec (.jtagAccess .idcode) s = .next t ∧ t = { s with hub := t.hub } ∧ t.hub = { s.hub with jtag := some (BitVec.ofNat 64 s.idcode) } ∧
    fldN s.idcode 0 1 = 1 ∧ fldN s.idcode 12 16 = 0xF002 ∧ s.idcode < 2 ^ 32 ∧ ∀ v, s.velvet.hubRev = some v → fldN s.idcode 28 4 = v.toNat) ∧
  (∀ (c : Fin 1536) s, s.hubUp = true → s.boot.debugScope = 3 →
    exec (.jtagAccess (.halt c)) s = .next { s.tckRuns with boot := { s.boot with halted := numIns s.boot.halted c.val } } ∧
    exec (.jtagAccess (.resume c)) s = .next { s.tckRuns with boot := { s.boot with halted := numDel s.boot.halted c.val } } ∧
    ∀ v, exec (.jtagAccess (.readLocal c v)) s = .next { s with hub := { s.hub with
      jtag := some (BitVec.ofNat 64 (cellGet (s.core c.val).lmem v.val).toNat) } }) ∧
  (∀ (h : Fin 96) s, s.hubUp = true → s.boot.debugScope = 3 →
    exec (.jtagAccess (.haltHost h)) s = .next { s.tckRuns with boot := { s.boot with haltedHosts := numIns s.boot.haltedHosts h.val } } ∧
    exec (.jtagAccess (.resumeHost h)) s = .next { s.tckRuns with boot := { s.boot with haltedHosts := numDel s.boot.haltedHosts h.val } }) ∧
  (∀ op s, s.hubUp = true → s.boot.debugScope = 0 → (∃ c g l r v a b p f o h, op ∈ [JtagOp.bypass, .halt c, .resume c, .readCore g l r, .writeCore g l r v, .readMem a, .writeMem a b,
      .readPred g l p, .writePred g l p f, .readLocal c o, .writeLocal c o b, .haltHost h, .resumeHost h]) →
    exec (.jtagAccess op) s = .next s.tckRuns ∧ s.tckRuns.hub.jtag = some (s.hub.jtag.getD 0)) ∧
  (∀ (g : GroupAt) (l : Fin 32) (r : Fin 256) (v : BitVec 32) s, s.hubUp = true → s.boot.debugScope = 3 → (kfind (s.core g.core.val).blocks g.block.val).isSome = true →
    ∃ t, exec (.jtagAccess (.writeCore g l r v)) s = .next t ∧ (t.groupAt g).reg l.val r.val = v ∧ t = { s.tckRuns with cores := t.cores }) ∧
  (∀ v s, s.hub.strap ≠ v → (∀ a, s.velvet.strapAt = some a → a + 100000 ≤ s.ticks) → ∃ t, exec (.slotIdChange v) s = .next t ∧
    t.hub.strap = v ∧ t.velvet.strapAt = some s.ticks ∧ t.hub.slotId = s.hub.slotId ∧
    (s.hubUp = true → 3 ≤ s.boot.stage → t.hub.sideSeq = s.hub.sideSeq + 1)) ∧
  (∀ v s a, s.velvet.strapAt = some a → s.ticks < a + 100000 → exec (.slotIdChange v) s = .next s) ∧
  (∀ (sig : Fin 3) s, s.velvet.powered = true → s.velvet.chatter.getLsbD sig.val = false → s.filtering sig.val = false → sigLimit sig.val ≤ (s.recent sig.val).length →
    ∃ t, exec (.sidebandChatter sig) s = .next t ∧ t.velvet.chatter.getLsbD sig.val = true ∧ t.acted sig.val = false ∧
      (s.hubUp = true → t.hub.sideSeq = s.hub.sideSeq + 1)) ∧
  (∀ (sig : Fin 3) s, s.velvet.chatter.getLsbD sig.val = true → s.recent sig.val = [] → ∃ t, exec (.chatterEnd sig) s = .next t ∧
    t.velvet.chatter.getLsbD sig.val = false ∧ t.acted sig.val = kget false s.velvet.raw sig.val)

/-! ## The machine as a whole -/

/-- R237, R361, R389, R390, R437, R441 and the reset values of the register tables: what the machine holds before input power comes: no
command waits, boot has not begun, and the registers listed here have their reset values; every error ring, directory, cache, block and
interleave set is empty, every link off, no queue or context exists, and memory reads zero (log 3). -/
def Obligations.ResetLeavesTheStatedValues : Prop :=
  let s := State.reset
  s.pending = [] ∧ s.ready = false ∧ s.boot.stage = 0 ∧ s.velvet.sustained = 3800 ∧ s.velvet.powered = false ∧ s.velvet.valid = false ∧
  s.power.ramp = 250 ∧ s.power.lendAcross = false ∧ s.host.inReset = true ∧ s.host.win = 0 ∧ s.host.epoch = 0 ∧
  (∀ w, s.crcOf w = {}) ∧ (∀ r, r < 13 → s.errs r = {} ∧ (s.errs r).write = 0 ∧ (s.errs r).read = 0) ∧
  (∀ t, (s.tile t).up = false ∧ (s.tile t).dir = [] ∧ (s.tile t).llmEnable = false ∧ (s.tile t).threshold = 64 ∧ (s.tile t).gapExp = 12 ∧
    (s.tile t).hot.sizeLog2 = 8 ∧ (s.tile t).hot.rate = 10 ∧ (∀ n, (s.tile t).iset n = {})) ∧
  (∀ c, (s.core c).blocks = [] ∧ (s.core c).barrierExp = 26 ∧ (s.core c).remoteExp = 16 ∧ (s.core c).position = 0xFF) ∧
  (∀ l, (s.link l).state = .off ∧ (s.link l).enable = false) ∧ (∀ n, (s.cache n).lines = []) ∧ (∀ q, (s.queue q).live = false) ∧
  (∀ c, (s.context c).live = false) ∧ (∀ a, cellGet s.mem a = 0) ∧ MemoryOk s

/-- R446, with Tables 15.1 and 15.5: a record of CLASS 0, 1 or 2 is written only while WRITE - READ is less than N - 4 (N slots: 64 of a
die's ring, 256 of the package's), and one of CLASS 3 and above while it is less than N; it takes the slot of index WRITE modulo N with that
index as its SEQ, WRITE rises by one, and every other slot and ring stays. A die record whose ring is closed to it goes to the package ring,
when that accepts its class, with SPILLED set; a record that neither accepts is lost: OVERFLOW of the ring where it arose rises by one, and
that ring's EVENT advances. Of the handling windows (the model's list of the fence actions still to take, log 25): a record of CLASS 2 or 3, a
BLOCK_FAULT apart, opens the window of its unit, or, in one that is open, calls for the unit's fence action; another record opens none. -/
def Obligations.RecordsEnterTheirRingAndOpenWindows : Prop :=
  ∀ (s : State) (r : Nat) (c : Rec), r < 13 →
    let slots := fun x => if x = 12 then 256 else 64
    let used := fun x => (s.errs x).write.toNat - min (s.errs x).read.toNat (s.errs x).write.toNat
    let room := fun x => c.cls ≤ 2 ∧ used x < slots x - 4 ∨ 3 ≤ c.cls ∧ used x < slots x
    let enters := fun (t : State) x spilled => (t.errs x).write = (s.errs x).write + 1 ∧
      (∃ v, kfind (t.errs x).recs ((s.errs x).write.toNat % slots x) = some v ∧ fld v 0 64 = (s.errs x).write.toNat ∧
        fld v 128 8 = c.typ % 256 ∧ (c.flags < 4 → bit v 154 = spilled)) ∧
      (∀ i, i ≠ (s.errs x).write.toNat % slots x → kfind (t.errs x).recs i = kfind (s.errs x).recs i) ∧
      (t.errs x).seq = (if 2 ≤ c.cls then (s.errs x).seq + 1 else (s.errs x).seq) ∧ (t.errs x).overflow = (s.errs x).overflow ∧
      (∀ y, y < 13 → y ≠ x → t.errs y = s.errs y)
    (room r → enters (s.recordAt r c).1 r false) ∧
    (¬ room r → r ≠ 12 → room 12 → enters (s.recordAt r c).1 12 true) ∧
    (¬ room r → ¬ room 12 → ∀ t, t = (s.recordAt r c).1 →
      (t.errs r).overflow = (s.errs r).overflow + 1 ∧ (t.errs r).write = (s.errs r).write ∧ (t.errs r).seq = (s.errs r).seq + 1 ∧
      (t.errs r).recs = (s.errs r).recs ∧ (∀ y, y < 13 → y ≠ r → t.errs y = s.errs y)) ∧
    ((c.cls = 2 ∨ c.cls = 3) → c.typ ≠ 0x01 → c.unit < 2 ^ 32 →
      (s.windowOf c.unit c.source = none → ∃ w, (s.record r c).hub.windows = s.hub.windows ++ [w] ∧ w.unit.toNat = c.unit ∧ w.opened = s.ticks ∧
        w.escalations = 0 ∧ (s.record r c).hub.actions = s.hub.actions) ∧
      (∀ w, s.windowOf c.unit c.source = some w → (s.record r c).hub.windows = s.hub.windows ∧
        (s.record r c).hub.actions = s.hub.actions ++ [(c.source, c.unit)])) ∧
    (c.cls ≠ 2 ∧ c.cls ≠ 3 ∨ c.typ = 0x01 → (s.record r c).hub.windows = s.hub.windows)

/-- Log 1: every step takes exactly the command at the front of the queue, and puts none into it: commands are carried out first in,
first out, each once. -/
def Obligations.StepsTakeTheFrontCommand : Prop := ∀ s t, step s = .next t → t.pending = s.pending.tail

/-- Log 3: the package's memory and every core's local memory keep their canonical form at every step: addresses strictly rise, and no byte
equal to what an unlisted one reads as is listed. -/
def Obligations.StepsKeepMemoryCanonical : Prop := ∀ s t, MemoryOk s → step s = .next t → MemoryOk t

end
end

