-- ==== Sys2Proof/Laws/Crc.lean ====
section
/-! SUPPORT. The bounds of the CRC-32C of a list of bytes. -/

namespace Sys2Proof.Machine

/-- R182, R265: one bit, one byte and the whole of a CRC-32C stay within 32 bits. -/
theorem crcBit_lt {c : Nat} (h : c < 2 ^ 32) : crcBit c < 2 ^ 32 := by
  unfold crcBit
  split
  · exact Nat.xor_lt_two_pow (by omega) (by decide)
  · omega

theorem crcByte_lt {c : Nat} (b : Byte) (h : c < 2 ^ 32) : crcByte c b < 2 ^ 32 :=
  List.foldlRecOn (motive := (· < 2 ^ 32)) (List.range 8) _ (Nat.xor_lt_two_pow h (Nat.lt_of_lt_of_le b.isLt (by decide))) fun _ hc _ _ => crcBit_lt hc

theorem crc32c_lt (l : List Byte) : crc32c l < 2 ^ 32 :=
  Nat.xor_lt_two_pow (List.foldlRecOn (motive := (· < 2 ^ 32)) l _ (by decide) fun _ hc b _ => crcByte_lt b hc) (by decide)

end Sys2Proof.Machine
end

