-- ==== Sys2Proof/Laws/KMap.lean ====
section
/-! SUPPORT. What reading a table after writing it gives. -/

namespace Sys2Proof.Machine

theorem kget_kset_same {α : Type} (d : α) (m : KMap α) (k : Nat) (v : α) : kget d (kset m k v) k = v := by
  induction m with
  | nil => simp [kset, kget]
  | cons p m ih =>
    obtain ⟨j, w⟩ := p
    simp only [kset]
    split
    · simp [kget]
    · split
      · simp [kget]
      · rename_i h1 h2
        simp [kget, h2, ih]

theorem kget_kset_ne {α : Type} (d : α) (m : KMap α) (k k' : Nat) (v : α) (h : k' ≠ k) :
    kget d (kset m k v) k' = kget d m k' := by
  induction m with
  | nil => simp [kset, kget, h]
  | cons p m ih =>
    obtain ⟨j, w⟩ := p
    simp only [kset]
    split
    · simp [kget, h]
    · split
      · rename_i h1 h2
        subst h2
        simp [kget, h]
      · by_cases hj : k' = j
        · simp [kget, hj]
        · simp [kget, hj, ih]

@[simp] theorem kget_nil {α : Type} (d : α) (k : Nat) : kget d ([] : KMap α) k = d := rfl

theorem kget_kmod_same {α : Type} (d : α) (m : KMap α) (k : Nat) (f : α → α) :
    kget d (kmod d m k f) k = f (kget d m k) := kget_kset_same d m k _

theorem kget_kmod_ne {α : Type} (d : α) (m : KMap α) (k k' : Nat) (f : α → α) (h : k' ≠ k) :
    kget d (kmod d m k f) k' = kget d m k' := kget_kset_ne d m k k' _ h

/-- Writing a key above b keeps every key above b. -/
theorem kabove_kset {α : Type} (b : Nat) (m : KMap α) (k : Nat) (v : α) (hb : b < k) (h : kabove b m = true) :
    kabove b (kset m k v) = true := by
  induction m generalizing b with
  | nil => simp [kset, kabove, hb]
  | cons p m ih =>
    obtain ⟨j, w⟩ := p
    simp only [kabove, Bool.and_eq_true, decide_eq_true_eq] at h
    simp only [kset]
    split
    · simp_all [kabove]
    · split
      · simp_all [kabove]
      · simp only [kabove, Bool.and_eq_true, decide_eq_true_eq]
        exact ⟨h.1, ih j (by omega) h.2⟩

/-- Writing keeps the canonical form. -/
theorem kwf_kset {α : Type} (m : KMap α) (k : Nat) (v : α) (h : kwf m = true) : kwf (kset m k v) = true := by
  cases m with
  | nil => simp [kset, kwf, kabove]
  | cons p m =>
    obtain ⟨j, w⟩ := p
    simp only [kwf] at h
    simp only [kset]
    split
    · simp_all [kwf, kabove]
    · split
      · rename_i h1 h2
        subst h2
        simpa [kwf] using h
      · simp only [kwf]
        exact kabove_kset j m k v (by omega) h

theorem kabove_mono {α : Type} (b c : Nat) (m : KMap α) (hbc : b ≤ c) (h : kabove c m = true) : kabove b m = true := by
  cases m with
  | nil => rfl
  | cons p m =>
    obtain ⟨j, w⟩ := p
    simp only [kabove, Bool.and_eq_true, decide_eq_true_eq] at h ⊢
    exact ⟨by omega, h.2⟩

theorem kabove_kdel {α : Type} (b : Nat) (m : KMap α) (k : Nat) (h : kabove b m = true) : kabove b (kdel m k) = true := by
  induction m generalizing b with
  | nil => rfl
  | cons p m ih =>
    obtain ⟨j, w⟩ := p
    simp only [kabove, Bool.and_eq_true, decide_eq_true_eq] at h
    simp only [kdel]
    split
    · exact kabove_mono b j m (by omega) h.2
    · simp only [kabove, Bool.and_eq_true, decide_eq_true_eq]
      exact ⟨h.1, ih j h.2⟩

/-- Deleting keeps the canonical form. -/
theorem kwf_kdel {α : Type} (m : KMap α) (k : Nat) (h : kwf m = true) : kwf (kdel m k) = true := by
  cases m with
  | nil => rfl
  | cons p m =>
    obtain ⟨j, w⟩ := p
    simp only [kwf] at h
    simp only [kdel]
    split
    · cases m with
      | nil => rfl
      | cons q m =>
        simp only [kabove, Bool.and_eq_true] at h
        simpa [kwf] using h.2
    · simpa [kwf] using kabove_kdel j m k h

theorem kget_kdel_ne {α : Type} (d : α) (m : KMap α) (k k' : Nat) (h : k' ≠ k) :
    kget d (kdel m k) k' = kget d m k' := by
  induction m with
  | nil => rfl
  | cons p m ih =>
    obtain ⟨j, w⟩ := p
    simp only [kdel]
    split
    · rename_i hk
      subst hk
      simp [kget, h]
    · by_cases hj : k' = j
      · simp [kget, hj]
      · simp [kget, hj, ih]

theorem kget_of_kabove {α : Type} (d : α) (m : KMap α) (k : Nat) (h : kabove k m = true) : kget d m k = d := by
  induction m generalizing k with
  | nil => rfl
  | cons p m ih =>
    obtain ⟨j, w⟩ := p
    simp only [kabove, Bool.and_eq_true, decide_eq_true_eq] at h
    have hne : k ≠ j := by omega
    simp only [kget, hne, if_false]
    exact ih k (kabove_mono k j m (by omega) h.2)

theorem kget_kdel_same {α : Type} (d : α) (m : KMap α) (k : Nat) (h : kwf m = true) : kget d (kdel m k) k = d := by
  induction m with
  | nil => rfl
  | cons p m ih =>
    obtain ⟨j, w⟩ := p
    simp only [kwf] at h
    simp only [kdel]
    split
    · rename_i hk
      subst hk
      exact kget_of_kabove d m k h
    · rename_i hk
      simp only [kget, hk, if_false]
      refine ih ?_
      cases m with
      | nil => rfl
      | cons q m =>
        simp only [kabove, Bool.and_eq_true] at h
        simpa [kwf] using h.2

end Sys2Proof.Machine
end

