-- ==== Sys2Proof/Laws/State.lean ====
section
/-! SUPPORT. One lemma per field of State and per update of one unit: the update leaves every other field; and what reading a unit
after its update, or after the update of another, gives. -/

namespace Sys2Proof.Machine

@[simp] theorem State.modCore_pending (s : State) (c : Nat) (f : Core → Core) : (s.modCore c f).pending = s.pending := rfl
@[simp] theorem State.modCore_ticks (s : State) (c : Nat) (f : Core → Core) : (s.modCore c f).ticks = s.ticks := rfl
@[simp] theorem State.modCore_floor4 (s : State) (c : Nat) (f : Core → Core) : (s.modCore c f).floor4 = s.floor4 := rfl
@[simp] theorem State.modCore_draws (s : State) (c : Nat) (f : Core → Core) : (s.modCore c f).draws = s.draws := rfl
@[simp] theorem State.modCore_i3cOut (s : State) (c : Nat) (f : Core → Core) : (s.modCore c f).i3cOut = s.i3cOut := rfl
@[simp] theorem State.modCore_teams (s : State) (c : Nat) (f : Core → Core) : (s.modCore c f).teams = s.teams := rfl
@[simp] theorem State.modCore_nextTeam (s : State) (c : Nat) (f : Core → Core) : (s.modCore c f).nextTeam = s.nextTeam := rfl
@[simp] theorem State.modCore_xbar (s : State) (c : Nat) (f : Core → Core) : (s.modCore c f).xbar = s.xbar := rfl
@[simp] theorem State.modCore_nextXbar (s : State) (c : Nat) (f : Core → Core) : (s.modCore c f).nextXbar = s.nextXbar := rfl
@[simp] theorem State.modCore_upsets (s : State) (c : Nat) (f : Core → Core) : (s.modCore c f).upsets = s.upsets := rfl
@[simp] theorem State.modCore_caches (s : State) (c : Nat) (f : Core → Core) : (s.modCore c f).caches = s.caches := rfl
@[simp] theorem State.modCore_tiles (s : State) (c : Nat) (f : Core → Core) : (s.modCore c f).tiles = s.tiles := rfl
@[simp] theorem State.modCore_dies (s : State) (c : Nat) (f : Core → Core) : (s.modCore c f).dies = s.dies := rfl
@[simp] theorem State.modCore_floor (s : State) (c : Nat) (f : Core → Core) : (s.modCore c f).floor = s.floor := rfl
@[simp] theorem State.modCore_outstanding (s : State) (c : Nat) (f : Core → Core) : (s.modCore c f).outstanding = s.outstanding := rfl
@[simp] theorem State.modCore_mem (s : State) (c : Nat) (f : Core → Core) : (s.modCore c f).mem = s.mem := rfl
@[simp] theorem State.modCore_poison (s : State) (c : Nat) (f : Core → Core) : (s.modCore c f).poison = s.poison := rfl
@[simp] theorem State.modCore_dramErrs (s : State) (c : Nat) (f : Core → Core) : (s.modCore c f).dramErrs = s.dramErrs := rfl
@[simp] theorem State.modCore_links (s : State) (c : Nat) (f : Core → Core) : (s.modCore c f).links = s.links := rfl
@[simp] theorem State.modCore_peerSlow (s : State) (c : Nat) (f : Core → Core) : (s.modCore c f).peerSlow = s.peerSlow := rfl
@[simp] theorem State.modCore_localFrames (s : State) (c : Nat) (f : Core → Core) : (s.modCore c f).localFrames = s.localFrames := rfl
@[simp] theorem State.modCore_colls (s : State) (c : Nat) (f : Core → Core) : (s.modCore c f).colls = s.colls := rfl
@[simp] theorem State.modCore_contexts (s : State) (c : Nat) (f : Core → Core) : (s.modCore c f).contexts = s.contexts := rfl
@[simp] theorem State.modCore_queues (s : State) (c : Nat) (f : Core → Core) : (s.modCore c f).queues = s.queues := rfl
@[simp] theorem State.modCore_partitions (s : State) (c : Nat) (f : Core → Core) : (s.modCore c f).partitions = s.partitions := rfl
@[simp] theorem State.modCore_pools (s : State) (c : Nat) (f : Core → Core) : (s.modCore c f).pools = s.pools := rfl
@[simp] theorem State.modCore_nextOrder (s : State) (c : Nat) (f : Core → Core) : (s.modCore c f).nextOrder = s.nextOrder := rfl
@[simp] theorem State.modCore_nextRead (s : State) (c : Nat) (f : Core → Core) : (s.modCore c f).nextRead = s.nextRead := rfl
@[simp] theorem State.modCore_host (s : State) (c : Nat) (f : Core → Core) : (s.modCore c f).host = s.host := rfl
@[simp] theorem State.modCore_power (s : State) (c : Nat) (f : Core → Core) : (s.modCore c f).power = s.power := rfl
@[simp] theorem State.modCore_velvet (s : State) (c : Nat) (f : Core → Core) : (s.modCore c f).velvet = s.velvet := rfl
@[simp] theorem State.modCore_flash (s : State) (c : Nat) (f : Core → Core) : (s.modCore c f).flash = s.flash := rfl
@[simp] theorem State.modCore_boot (s : State) (c : Nat) (f : Core → Core) : (s.modCore c f).boot = s.boot := rfl
@[simp] theorem State.modCore_hub (s : State) (c : Nat) (f : Core → Core) : (s.modCore c f).hub = s.hub := rfl

@[simp] theorem State.modTile_pending (s : State) (t : Nat) (f : Tile → Tile) : (s.modTile t f).pending = s.pending := rfl
@[simp] theorem State.modTile_ticks (s : State) (t : Nat) (f : Tile → Tile) : (s.modTile t f).ticks = s.ticks := rfl
@[simp] theorem State.modTile_floor4 (s : State) (t : Nat) (f : Tile → Tile) : (s.modTile t f).floor4 = s.floor4 := rfl
@[simp] theorem State.modTile_draws (s : State) (t : Nat) (f : Tile → Tile) : (s.modTile t f).draws = s.draws := rfl
@[simp] theorem State.modTile_i3cOut (s : State) (t : Nat) (f : Tile → Tile) : (s.modTile t f).i3cOut = s.i3cOut := rfl
@[simp] theorem State.modTile_cores (s : State) (t : Nat) (f : Tile → Tile) : (s.modTile t f).cores = s.cores := rfl
@[simp] theorem State.modTile_teams (s : State) (t : Nat) (f : Tile → Tile) : (s.modTile t f).teams = s.teams := rfl
@[simp] theorem State.modTile_nextTeam (s : State) (t : Nat) (f : Tile → Tile) : (s.modTile t f).nextTeam = s.nextTeam := rfl
@[simp] theorem State.modTile_xbar (s : State) (t : Nat) (f : Tile → Tile) : (s.modTile t f).xbar = s.xbar := rfl
@[simp] theorem State.modTile_nextXbar (s : State) (t : Nat) (f : Tile → Tile) : (s.modTile t f).nextXbar = s.nextXbar := rfl
@[simp] theorem State.modTile_upsets (s : State) (t : Nat) (f : Tile → Tile) : (s.modTile t f).upsets = s.upsets := rfl
@[simp] theorem State.modTile_caches (s : State) (t : Nat) (f : Tile → Tile) : (s.modTile t f).caches = s.caches := rfl
@[simp] theorem State.modTile_dies (s : State) (t : Nat) (f : Tile → Tile) : (s.modTile t f).dies = s.dies := rfl
@[simp] theorem State.modTile_floor (s : State) (t : Nat) (f : Tile → Tile) : (s.modTile t f).floor = s.floor := rfl
@[simp] theorem State.modTile_outstanding (s : State) (t : Nat) (f : Tile → Tile) : (s.modTile t f).outstanding = s.outstanding := rfl
@[simp] theorem State.modTile_mem (s : State) (t : Nat) (f : Tile → Tile) : (s.modTile t f).mem = s.mem := rfl
@[simp] theorem State.modTile_poison (s : State) (t : Nat) (f : Tile → Tile) : (s.modTile t f).poison = s.poison := rfl
@[simp] theorem State.modTile_dramErrs (s : State) (t : Nat) (f : Tile → Tile) : (s.modTile t f).dramErrs = s.dramErrs := rfl
@[simp] theorem State.modTile_links (s : State) (t : Nat) (f : Tile → Tile) : (s.modTile t f).links = s.links := rfl
@[simp] theorem State.modTile_peerSlow (s : State) (t : Nat) (f : Tile → Tile) : (s.modTile t f).peerSlow = s.peerSlow := rfl
@[simp] theorem State.modTile_localFrames (s : State) (t : Nat) (f : Tile → Tile) : (s.modTile t f).localFrames = s.localFrames := rfl
@[simp] theorem State.modTile_colls (s : State) (t : Nat) (f : Tile → Tile) : (s.modTile t f).colls = s.colls := rfl
@[simp] theorem State.modTile_contexts (s : State) (t : Nat) (f : Tile → Tile) : (s.modTile t f).contexts = s.contexts := rfl
@[simp] theorem State.modTile_queues (s : State) (t : Nat) (f : Tile → Tile) : (s.modTile t f).queues = s.queues := rfl
@[simp] theorem State.modTile_partitions (s : State) (t : Nat) (f : Tile → Tile) : (s.modTile t f).partitions = s.partitions := rfl
@[simp] theorem State.modTile_pools (s : State) (t : Nat) (f : Tile → Tile) : (s.modTile t f).pools = s.pools := rfl
@[simp] theorem State.modTile_nextOrder (s : State) (t : Nat) (f : Tile → Tile) : (s.modTile t f).nextOrder = s.nextOrder := rfl
@[simp] theorem State.modTile_nextRead (s : State) (t : Nat) (f : Tile → Tile) : (s.modTile t f).nextRead = s.nextRead := rfl
@[simp] theorem State.modTile_host (s : State) (t : Nat) (f : Tile → Tile) : (s.modTile t f).host = s.host := rfl
@[simp] theorem State.modTile_power (s : State) (t : Nat) (f : Tile → Tile) : (s.modTile t f).power = s.power := rfl
@[simp] theorem State.modTile_velvet (s : State) (t : Nat) (f : Tile → Tile) : (s.modTile t f).velvet = s.velvet := rfl
@[simp] theorem State.modTile_flash (s : State) (t : Nat) (f : Tile → Tile) : (s.modTile t f).flash = s.flash := rfl
@[simp] theorem State.modTile_boot (s : State) (t : Nat) (f : Tile → Tile) : (s.modTile t f).boot = s.boot := rfl
@[simp] theorem State.modTile_hub (s : State) (t : Nat) (f : Tile → Tile) : (s.modTile t f).hub = s.hub := rfl

@[simp] theorem State.modDie_pending (s : State) (d : Nat) (f : Die → Die) : (s.modDie d f).pending = s.pending := rfl
@[simp] theorem State.modDie_ticks (s : State) (d : Nat) (f : Die → Die) : (s.modDie d f).ticks = s.ticks := rfl
@[simp] theorem State.modDie_floor4 (s : State) (d : Nat) (f : Die → Die) : (s.modDie d f).floor4 = s.floor4 := rfl
@[simp] theorem State.modDie_draws (s : State) (d : Nat) (f : Die → Die) : (s.modDie d f).draws = s.draws := rfl
@[simp] theorem State.modDie_i3cOut (s : State) (d : Nat) (f : Die → Die) : (s.modDie d f).i3cOut = s.i3cOut := rfl
@[simp] theorem State.modDie_cores (s : State) (d : Nat) (f : Die → Die) : (s.modDie d f).cores = s.cores := rfl
@[simp] theorem State.modDie_teams (s : State) (d : Nat) (f : Die → Die) : (s.modDie d f).teams = s.teams := rfl
@[simp] theorem State.modDie_nextTeam (s : State) (d : Nat) (f : Die → Die) : (s.modDie d f).nextTeam = s.nextTeam := rfl
@[simp] theorem State.modDie_xbar (s : State) (d : Nat) (f : Die → Die) : (s.modDie d f).xbar = s.xbar := rfl
@[simp] theorem State.modDie_nextXbar (s : State) (d : Nat) (f : Die → Die) : (s.modDie d f).nextXbar = s.nextXbar := rfl
@[simp] theorem State.modDie_upsets (s : State) (d : Nat) (f : Die → Die) : (s.modDie d f).upsets = s.upsets := rfl
@[simp] theorem State.modDie_caches (s : State) (d : Nat) (f : Die → Die) : (s.modDie d f).caches = s.caches := rfl
@[simp] theorem State.modDie_tiles (s : State) (d : Nat) (f : Die → Die) : (s.modDie d f).tiles = s.tiles := rfl
@[simp] theorem State.modDie_floor (s : State) (d : Nat) (f : Die → Die) : (s.modDie d f).floor = s.floor := rfl
@[simp] theorem State.modDie_outstanding (s : State) (d : Nat) (f : Die → Die) : (s.modDie d f).outstanding = s.outstanding := rfl
@[simp] theorem State.modDie_mem (s : State) (d : Nat) (f : Die → Die) : (s.modDie d f).mem = s.mem := rfl
@[simp] theorem State.modDie_poison (s : State) (d : Nat) (f : Die → Die) : (s.modDie d f).poison = s.poison := rfl
@[simp] theorem State.modDie_dramErrs (s : State) (d : Nat) (f : Die → Die) : (s.modDie d f).dramErrs = s.dramErrs := rfl
@[simp] theorem State.modDie_links (s : State) (d : Nat) (f : Die → Die) : (s.modDie d f).links = s.links := rfl
@[simp] theorem State.modDie_peerSlow (s : State) (d : Nat) (f : Die → Die) : (s.modDie d f).peerSlow = s.peerSlow := rfl
@[simp] theorem State.modDie_localFrames (s : State) (d : Nat) (f : Die → Die) : (s.modDie d f).localFrames = s.localFrames := rfl
@[simp] theorem State.modDie_colls (s : State) (d : Nat) (f : Die → Die) : (s.modDie d f).colls = s.colls := rfl
@[simp] theorem State.modDie_contexts (s : State) (d : Nat) (f : Die → Die) : (s.modDie d f).contexts = s.contexts := rfl
@[simp] theorem State.modDie_queues (s : State) (d : Nat) (f : Die → Die) : (s.modDie d f).queues = s.queues := rfl
@[simp] theorem State.modDie_partitions (s : State) (d : Nat) (f : Die → Die) : (s.modDie d f).partitions = s.partitions := rfl
@[simp] theorem State.modDie_pools (s : State) (d : Nat) (f : Die → Die) : (s.modDie d f).pools = s.pools := rfl
@[simp] theorem State.modDie_nextOrder (s : State) (d : Nat) (f : Die → Die) : (s.modDie d f).nextOrder = s.nextOrder := rfl
@[simp] theorem State.modDie_nextRead (s : State) (d : Nat) (f : Die → Die) : (s.modDie d f).nextRead = s.nextRead := rfl
@[simp] theorem State.modDie_host (s : State) (d : Nat) (f : Die → Die) : (s.modDie d f).host = s.host := rfl
@[simp] theorem State.modDie_power (s : State) (d : Nat) (f : Die → Die) : (s.modDie d f).power = s.power := rfl
@[simp] theorem State.modDie_velvet (s : State) (d : Nat) (f : Die → Die) : (s.modDie d f).velvet = s.velvet := rfl
@[simp] theorem State.modDie_flash (s : State) (d : Nat) (f : Die → Die) : (s.modDie d f).flash = s.flash := rfl
@[simp] theorem State.modDie_boot (s : State) (d : Nat) (f : Die → Die) : (s.modDie d f).boot = s.boot := rfl
@[simp] theorem State.modDie_hub (s : State) (d : Nat) (f : Die → Die) : (s.modDie d f).hub = s.hub := rfl

@[simp] theorem State.modLink_pending (s : State) (l : Nat) (f : Link → Link) : (s.modLink l f).pending = s.pending := rfl
@[simp] theorem State.modLink_ticks (s : State) (l : Nat) (f : Link → Link) : (s.modLink l f).ticks = s.ticks := rfl
@[simp] theorem State.modLink_floor4 (s : State) (l : Nat) (f : Link → Link) : (s.modLink l f).floor4 = s.floor4 := rfl
@[simp] theorem State.modLink_draws (s : State) (l : Nat) (f : Link → Link) : (s.modLink l f).draws = s.draws := rfl
@[simp] theorem State.modLink_i3cOut (s : State) (l : Nat) (f : Link → Link) : (s.modLink l f).i3cOut = s.i3cOut := rfl
@[simp] theorem State.modLink_cores (s : State) (l : Nat) (f : Link → Link) : (s.modLink l f).cores = s.cores := rfl
@[simp] theorem State.modLink_teams (s : State) (l : Nat) (f : Link → Link) : (s.modLink l f).teams = s.teams := rfl
@[simp] theorem State.modLink_nextTeam (s : State) (l : Nat) (f : Link → Link) : (s.modLink l f).nextTeam = s.nextTeam := rfl
@[simp] theorem State.modLink_xbar (s : State) (l : Nat) (f : Link → Link) : (s.modLink l f).xbar = s.xbar := rfl
@[simp] theorem State.modLink_nextXbar (s : State) (l : Nat) (f : Link → Link) : (s.modLink l f).nextXbar = s.nextXbar := rfl
@[simp] theorem State.modLink_upsets (s : State) (l : Nat) (f : Link → Link) : (s.modLink l f).upsets = s.upsets := rfl
@[simp] theorem State.modLink_caches (s : State) (l : Nat) (f : Link → Link) : (s.modLink l f).caches = s.caches := rfl
@[simp] theorem State.modLink_tiles (s : State) (l : Nat) (f : Link → Link) : (s.modLink l f).tiles = s.tiles := rfl
@[simp] theorem State.modLink_dies (s : State) (l : Nat) (f : Link → Link) : (s.modLink l f).dies = s.dies := rfl
@[simp] theorem State.modLink_floor (s : State) (l : Nat) (f : Link → Link) : (s.modLink l f).floor = s.floor := rfl
@[simp] theorem State.modLink_outstanding (s : State) (l : Nat) (f : Link → Link) : (s.modLink l f).outstanding = s.outstanding := rfl
@[simp] theorem State.modLink_mem (s : State) (l : Nat) (f : Link → Link) : (s.modLink l f).mem = s.mem := rfl
@[simp] theorem State.modLink_poison (s : State) (l : Nat) (f : Link → Link) : (s.modLink l f).poison = s.poison := rfl
@[simp] theorem State.modLink_dramErrs (s : State) (l : Nat) (f : Link → Link) : (s.modLink l f).dramErrs = s.dramErrs := rfl
@[simp] theorem State.modLink_peerSlow (s : State) (l : Nat) (f : Link → Link) : (s.modLink l f).peerSlow = s.peerSlow := rfl
@[simp] theorem State.modLink_localFrames (s : State) (l : Nat) (f : Link → Link) : (s.modLink l f).localFrames = s.localFrames := rfl
@[simp] theorem State.modLink_colls (s : State) (l : Nat) (f : Link → Link) : (s.modLink l f).colls = s.colls := rfl
@[simp] theorem State.modLink_contexts (s : State) (l : Nat) (f : Link → Link) : (s.modLink l f).contexts = s.contexts := rfl
@[simp] theorem State.modLink_queues (s : State) (l : Nat) (f : Link → Link) : (s.modLink l f).queues = s.queues := rfl
@[simp] theorem State.modLink_partitions (s : State) (l : Nat) (f : Link → Link) : (s.modLink l f).partitions = s.partitions := rfl
@[simp] theorem State.modLink_pools (s : State) (l : Nat) (f : Link → Link) : (s.modLink l f).pools = s.pools := rfl
@[simp] theorem State.modLink_nextOrder (s : State) (l : Nat) (f : Link → Link) : (s.modLink l f).nextOrder = s.nextOrder := rfl
@[simp] theorem State.modLink_nextRead (s : State) (l : Nat) (f : Link → Link) : (s.modLink l f).nextRead = s.nextRead := rfl
@[simp] theorem State.modLink_host (s : State) (l : Nat) (f : Link → Link) : (s.modLink l f).host = s.host := rfl
@[simp] theorem State.modLink_power (s : State) (l : Nat) (f : Link → Link) : (s.modLink l f).power = s.power := rfl
@[simp] theorem State.modLink_velvet (s : State) (l : Nat) (f : Link → Link) : (s.modLink l f).velvet = s.velvet := rfl
@[simp] theorem State.modLink_flash (s : State) (l : Nat) (f : Link → Link) : (s.modLink l f).flash = s.flash := rfl
@[simp] theorem State.modLink_boot (s : State) (l : Nat) (f : Link → Link) : (s.modLink l f).boot = s.boot := rfl
@[simp] theorem State.modLink_hub (s : State) (l : Nat) (f : Link → Link) : (s.modLink l f).hub = s.hub := rfl

@[simp] theorem State.modQueue_pending (s : State) (q : Nat) (f : Queue → Queue) : (s.modQueue q f).pending = s.pending := rfl
@[simp] theorem State.modQueue_ticks (s : State) (q : Nat) (f : Queue → Queue) : (s.modQueue q f).ticks = s.ticks := rfl
@[simp] theorem State.modQueue_floor4 (s : State) (q : Nat) (f : Queue → Queue) : (s.modQueue q f).floor4 = s.floor4 := rfl
@[simp] theorem State.modQueue_draws (s : State) (q : Nat) (f : Queue → Queue) : (s.modQueue q f).draws = s.draws := rfl
@[simp] theorem State.modQueue_i3cOut (s : State) (q : Nat) (f : Queue → Queue) : (s.modQueue q f).i3cOut = s.i3cOut := rfl
@[simp] theorem State.modQueue_cores (s : State) (q : Nat) (f : Queue → Queue) : (s.modQueue q f).cores = s.cores := rfl
@[simp] theorem State.modQueue_teams (s : State) (q : Nat) (f : Queue → Queue) : (s.modQueue q f).teams = s.teams := rfl
@[simp] theorem State.modQueue_nextTeam (s : State) (q : Nat) (f : Queue → Queue) : (s.modQueue q f).nextTeam = s.nextTeam := rfl
@[simp] theorem State.modQueue_xbar (s : State) (q : Nat) (f : Queue → Queue) : (s.modQueue q f).xbar = s.xbar := rfl
@[simp] theorem State.modQueue_nextXbar (s : State) (q : Nat) (f : Queue → Queue) : (s.modQueue q f).nextXbar = s.nextXbar := rfl
@[simp] theorem State.modQueue_upsets (s : State) (q : Nat) (f : Queue → Queue) : (s.modQueue q f).upsets = s.upsets := rfl
@[simp] theorem State.modQueue_caches (s : State) (q : Nat) (f : Queue → Queue) : (s.modQueue q f).caches = s.caches := rfl
@[simp] theorem State.modQueue_tiles (s : State) (q : Nat) (f : Queue → Queue) : (s.modQueue q f).tiles = s.tiles := rfl
@[simp] theorem State.modQueue_dies (s : State) (q : Nat) (f : Queue → Queue) : (s.modQueue q f).dies = s.dies := rfl
@[simp] theorem State.modQueue_floor (s : State) (q : Nat) (f : Queue → Queue) : (s.modQueue q f).floor = s.floor := rfl
@[simp] theorem State.modQueue_outstanding (s : State) (q : Nat) (f : Queue → Queue) : (s.modQueue q f).outstanding = s.outstanding := rfl
@[simp] theorem State.modQueue_mem (s : State) (q : Nat) (f : Queue → Queue) : (s.modQueue q f).mem = s.mem := rfl
@[simp] theorem State.modQueue_poison (s : State) (q : Nat) (f : Queue → Queue) : (s.modQueue q f).poison = s.poison := rfl
@[simp] theorem State.modQueue_dramErrs (s : State) (q : Nat) (f : Queue → Queue) : (s.modQueue q f).dramErrs = s.dramErrs := rfl
@[simp] theorem State.modQueue_links (s : State) (q : Nat) (f : Queue → Queue) : (s.modQueue q f).links = s.links := rfl
@[simp] theorem State.modQueue_peerSlow (s : State) (q : Nat) (f : Queue → Queue) : (s.modQueue q f).peerSlow = s.peerSlow := rfl
@[simp] theorem State.modQueue_localFrames (s : State) (q : Nat) (f : Queue → Queue) : (s.modQueue q f).localFrames = s.localFrames := rfl
@[simp] theorem State.modQueue_colls (s : State) (q : Nat) (f : Queue → Queue) : (s.modQueue q f).colls = s.colls := rfl
@[simp] theorem State.modQueue_contexts (s : State) (q : Nat) (f : Queue → Queue) : (s.modQueue q f).contexts = s.contexts := rfl
@[simp] theorem State.modQueue_partitions (s : State) (q : Nat) (f : Queue → Queue) : (s.modQueue q f).partitions = s.partitions := rfl
@[simp] theorem State.modQueue_pools (s : State) (q : Nat) (f : Queue → Queue) : (s.modQueue q f).pools = s.pools := rfl
@[simp] theorem State.modQueue_nextOrder (s : State) (q : Nat) (f : Queue → Queue) : (s.modQueue q f).nextOrder = s.nextOrder := rfl
@[simp] theorem State.modQueue_nextRead (s : State) (q : Nat) (f : Queue → Queue) : (s.modQueue q f).nextRead = s.nextRead := rfl
@[simp] theorem State.modQueue_host (s : State) (q : Nat) (f : Queue → Queue) : (s.modQueue q f).host = s.host := rfl
@[simp] theorem State.modQueue_power (s : State) (q : Nat) (f : Queue → Queue) : (s.modQueue q f).power = s.power := rfl
@[simp] theorem State.modQueue_velvet (s : State) (q : Nat) (f : Queue → Queue) : (s.modQueue q f).velvet = s.velvet := rfl
@[simp] theorem State.modQueue_flash (s : State) (q : Nat) (f : Queue → Queue) : (s.modQueue q f).flash = s.flash := rfl
@[simp] theorem State.modQueue_boot (s : State) (q : Nat) (f : Queue → Queue) : (s.modQueue q f).boot = s.boot := rfl
@[simp] theorem State.modQueue_hub (s : State) (q : Nat) (f : Queue → Queue) : (s.modQueue q f).hub = s.hub := rfl

@[simp] theorem State.modContext_pending (s : State) (c : Nat) (f : Context → Context) : (s.modContext c f).pending = s.pending := rfl
@[simp] theorem State.modContext_ticks (s : State) (c : Nat) (f : Context → Context) : (s.modContext c f).ticks = s.ticks := rfl
@[simp] theorem State.modContext_floor4 (s : State) (c : Nat) (f : Context → Context) : (s.modContext c f).floor4 = s.floor4 := rfl
@[simp] theorem State.modContext_draws (s : State) (c : Nat) (f : Context → Context) : (s.modContext c f).draws = s.draws := rfl
@[simp] theorem State.modContext_i3cOut (s : State) (c : Nat) (f : Context → Context) : (s.modContext c f).i3cOut = s.i3cOut := rfl
@[simp] theorem State.modContext_cores (s : State) (c : Nat) (f : Context → Context) : (s.modContext c f).cores = s.cores := rfl
@[simp] theorem State.modContext_teams (s : State) (c : Nat) (f : Context → Context) : (s.modContext c f).teams = s.teams := rfl
@[simp] theorem State.modContext_nextTeam (s : State) (c : Nat) (f : Context → Context) : (s.modContext c f).nextTeam = s.nextTeam := rfl
@[simp] theorem State.modContext_xbar (s : State) (c : Nat) (f : Context → Context) : (s.modContext c f).xbar = s.xbar := rfl
@[simp] theorem State.modContext_nextXbar (s : State) (c : Nat) (f : Context → Context) : (s.modContext c f).nextXbar = s.nextXbar := rfl
@[simp] theorem State.modContext_upsets (s : State) (c : Nat) (f : Context → Context) : (s.modContext c f).upsets = s.upsets := rfl
@[simp] theorem State.modContext_caches (s : State) (c : Nat) (f : Context → Context) : (s.modContext c f).caches = s.caches := rfl
@[simp] theorem State.modContext_tiles (s : State) (c : Nat) (f : Context → Context) : (s.modContext c f).tiles = s.tiles := rfl
@[simp] theorem State.modContext_dies (s : State) (c : Nat) (f : Context → Context) : (s.modContext c f).dies = s.dies := rfl
@[simp] theorem State.modContext_floor (s : State) (c : Nat) (f : Context → Context) : (s.modContext c f).floor = s.floor := rfl
@[simp] theorem State.modContext_outstanding (s : State) (c : Nat) (f : Context → Context) : (s.modContext c f).outstanding = s.outstanding := rfl
@[simp] theorem State.modContext_mem (s : State) (c : Nat) (f : Context → Context) : (s.modContext c f).mem = s.mem := rfl
@[simp] theorem State.modContext_poison (s : State) (c : Nat) (f : Context → Context) : (s.modContext c f).poison = s.poison := rfl
@[simp] theorem State.modContext_dramErrs (s : State) (c : Nat) (f : Context → Context) : (s.modContext c f).dramErrs = s.dramErrs := rfl
@[simp] theorem State.modContext_links (s : State) (c : Nat) (f : Context → Context) : (s.modContext c f).links = s.links := rfl
@[simp] theorem State.modContext_peerSlow (s : State) (c : Nat) (f : Context → Context) : (s.modContext c f).peerSlow = s.peerSlow := rfl
@[simp] theorem State.modContext_localFrames (s : State) (c : Nat) (f : Context → Context) : (s.modContext c f).localFrames = s.localFrames := rfl
@[simp] theorem State.modContext_colls (s : State) (c : Nat) (f : Context → Context) : (s.modContext c f).colls = s.colls := rfl
@[simp] theorem State.modContext_queues (s : State) (c : Nat) (f : Context → Context) : (s.modContext c f).queues = s.queues := rfl
@[simp] theorem State.modContext_partitions (s : State) (c : Nat) (f : Context → Context) : (s.modContext c f).partitions = s.partitions := rfl
@[simp] theorem State.modContext_pools (s : State) (c : Nat) (f : Context → Context) : (s.modContext c f).pools = s.pools := rfl
@[simp] theorem State.modContext_nextOrder (s : State) (c : Nat) (f : Context → Context) : (s.modContext c f).nextOrder = s.nextOrder := rfl
@[simp] theorem State.modContext_nextRead (s : State) (c : Nat) (f : Context → Context) : (s.modContext c f).nextRead = s.nextRead := rfl
@[simp] theorem State.modContext_host (s : State) (c : Nat) (f : Context → Context) : (s.modContext c f).host = s.host := rfl
@[simp] theorem State.modContext_power (s : State) (c : Nat) (f : Context → Context) : (s.modContext c f).power = s.power := rfl
@[simp] theorem State.modContext_velvet (s : State) (c : Nat) (f : Context → Context) : (s.modContext c f).velvet = s.velvet := rfl
@[simp] theorem State.modContext_flash (s : State) (c : Nat) (f : Context → Context) : (s.modContext c f).flash = s.flash := rfl
@[simp] theorem State.modContext_boot (s : State) (c : Nat) (f : Context → Context) : (s.modContext c f).boot = s.boot := rfl
@[simp] theorem State.modContext_hub (s : State) (c : Nat) (f : Context → Context) : (s.modContext c f).hub = s.hub := rfl

@[simp] theorem State.modPartition_pending (s : State) (p : Nat) (f : Partition → Partition) : (s.modPartition p f).pending = s.pending := rfl
@[simp] theorem State.modPartition_ticks (s : State) (p : Nat) (f : Partition → Partition) : (s.modPartition p f).ticks = s.ticks := rfl
@[simp] theorem State.modPartition_floor4 (s : State) (p : Nat) (f : Partition → Partition) : (s.modPartition p f).floor4 = s.floor4 := rfl
@[simp] theorem State.modPartition_draws (s : State) (p : Nat) (f : Partition → Partition) : (s.modPartition p f).draws = s.draws := rfl
@[simp] theorem State.modPartition_i3cOut (s : State) (p : Nat) (f : Partition → Partition) : (s.modPartition p f).i3cOut = s.i3cOut := rfl
@[simp] theorem State.modPartition_cores (s : State) (p : Nat) (f : Partition → Partition) : (s.modPartition p f).cores = s.cores := rfl
@[simp] theorem State.modPartition_teams (s : State) (p : Nat) (f : Partition → Partition) : (s.modPartition p f).teams = s.teams := rfl
@[simp] theorem State.modPartition_nextTeam (s : State) (p : Nat) (f : Partition → Partition) : (s.modPartition p f).nextTeam = s.nextTeam := rfl
@[simp] theorem State.modPartition_xbar (s : State) (p : Nat) (f : Partition → Partition) : (s.modPartition p f).xbar = s.xbar := rfl
@[simp] theorem State.modPartition_nextXbar (s : State) (p : Nat) (f : Partition → Partition) : (s.modPartition p f).nextXbar = s.nextXbar := rfl
@[simp] theorem State.modPartition_upsets (s : State) (p : Nat) (f : Partition → Partition) : (s.modPartition p f).upsets = s.upsets := rfl
@[simp] theorem State.modPartition_caches (s : State) (p : Nat) (f : Partition → Partition) : (s.modPartition p f).caches = s.caches := rfl
@[simp] theorem State.modPartition_tiles (s : State) (p : Nat) (f : Partition → Partition) : (s.modPartition p f).tiles = s.tiles := rfl
@[simp] theorem State.modPartition_dies (s : State) (p : Nat) (f : Partition → Partition) : (s.modPartition p f).dies = s.dies := rfl
@[simp] theorem State.modPartition_floor (s : State) (p : Nat) (f : Partition → Partition) : (s.modPartition p f).floor = s.floor := rfl
@[simp] theorem State.modPartition_outstanding (s : State) (p : Nat) (f : Partition → Partition) : (s.modPartition p f).outstanding = s.outstanding := rfl
@[simp] theorem State.modPartition_mem (s : State) (p : Nat) (f : Partition → Partition) : (s.modPartition p f).mem = s.mem := rfl
@[simp] theorem State.modPartition_poison (s : State) (p : Nat) (f : Partition → Partition) : (s.modPartition p f).poison = s.poison := rfl
@[simp] theorem State.modPartition_dramErrs (s : State) (p : Nat) (f : Partition → Partition) : (s.modPartition p f).dramErrs = s.dramErrs := rfl
@[simp] theorem State.modPartition_links (s : State) (p : Nat) (f : Partition → Partition) : (s.modPartition p f).links = s.links := rfl
@[simp] theorem State.modPartition_peerSlow (s : State) (p : Nat) (f : Partition → Partition) : (s.modPartition p f).peerSlow = s.peerSlow := rfl
@[simp] theorem State.modPartition_localFrames (s : State) (p : Nat) (f : Partition → Partition) : (s.modPartition p f).localFrames = s.localFrames := rfl
@[simp] theorem State.modPartition_colls (s : State) (p : Nat) (f : Partition → Partition) : (s.modPartition p f).colls = s.colls := rfl
@[simp] theorem State.modPartition_contexts (s : State) (p : Nat) (f : Partition → Partition) : (s.modPartition p f).contexts = s.contexts := rfl
@[simp] theorem State.modPartition_queues (s : State) (p : Nat) (f : Partition → Partition) : (s.modPartition p f).queues = s.queues := rfl
@[simp] theorem State.modPartition_pools (s : State) (p : Nat) (f : Partition → Partition) : (s.modPartition p f).pools = s.pools := rfl
@[simp] theorem State.modPartition_nextOrder (s : State) (p : Nat) (f : Partition → Partition) : (s.modPartition p f).nextOrder = s.nextOrder := rfl
@[simp] theorem State.modPartition_nextRead (s : State) (p : Nat) (f : Partition → Partition) : (s.modPartition p f).nextRead = s.nextRead := rfl
@[simp] theorem State.modPartition_host (s : State) (p : Nat) (f : Partition → Partition) : (s.modPartition p f).host = s.host := rfl
@[simp] theorem State.modPartition_power (s : State) (p : Nat) (f : Partition → Partition) : (s.modPartition p f).power = s.power := rfl
@[simp] theorem State.modPartition_velvet (s : State) (p : Nat) (f : Partition → Partition) : (s.modPartition p f).velvet = s.velvet := rfl
@[simp] theorem State.modPartition_flash (s : State) (p : Nat) (f : Partition → Partition) : (s.modPartition p f).flash = s.flash := rfl
@[simp] theorem State.modPartition_boot (s : State) (p : Nat) (f : Partition → Partition) : (s.modPartition p f).boot = s.boot := rfl
@[simp] theorem State.modPartition_hub (s : State) (p : Nat) (f : Partition → Partition) : (s.modPartition p f).hub = s.hub := rfl

@[simp] theorem State.modCache_pending (s : State) (n : Nat) (f : Cache → Cache) : (s.modCache n f).pending = s.pending := rfl
@[simp] theorem State.modCache_ticks (s : State) (n : Nat) (f : Cache → Cache) : (s.modCache n f).ticks = s.ticks := rfl
@[simp] theorem State.modCache_floor4 (s : State) (n : Nat) (f : Cache → Cache) : (s.modCache n f).floor4 = s.floor4 := rfl
@[simp] theorem State.modCache_draws (s : State) (n : Nat) (f : Cache → Cache) : (s.modCache n f).draws = s.draws := rfl
@[simp] theorem State.modCache_i3cOut (s : State) (n : Nat) (f : Cache → Cache) : (s.modCache n f).i3cOut = s.i3cOut := rfl
@[simp] theorem State.modCache_cores (s : State) (n : Nat) (f : Cache → Cache) : (s.modCache n f).cores = s.cores := rfl
@[simp] theorem State.modCache_teams (s : State) (n : Nat) (f : Cache → Cache) : (s.modCache n f).teams = s.teams := rfl
@[simp] theorem State.modCache_nextTeam (s : State) (n : Nat) (f : Cache → Cache) : (s.modCache n f).nextTeam = s.nextTeam := rfl
@[simp] theorem State.modCache_xbar (s : State) (n : Nat) (f : Cache → Cache) : (s.modCache n f).xbar = s.xbar := rfl
@[simp] theorem State.modCache_nextXbar (s : State) (n : Nat) (f : Cache → Cache) : (s.modCache n f).nextXbar = s.nextXbar := rfl
@[simp] theorem State.modCache_upsets (s : State) (n : Nat) (f : Cache → Cache) : (s.modCache n f).upsets = s.upsets := rfl
@[simp] theorem State.modCache_tiles (s : State) (n : Nat) (f : Cache → Cache) : (s.modCache n f).tiles = s.tiles := rfl
@[simp] theorem State.modCache_dies (s : State) (n : Nat) (f : Cache → Cache) : (s.modCache n f).dies = s.dies := rfl
@[simp] theorem State.modCache_floor (s : State) (n : Nat) (f : Cache → Cache) : (s.modCache n f).floor = s.floor := rfl
@[simp] theorem State.modCache_outstanding (s : State) (n : Nat) (f : Cache → Cache) : (s.modCache n f).outstanding = s.outstanding := rfl
@[simp] theorem State.modCache_mem (s : State) (n : Nat) (f : Cache → Cache) : (s.modCache n f).mem = s.mem := rfl
@[simp] theorem State.modCache_poison (s : State) (n : Nat) (f : Cache → Cache) : (s.modCache n f).poison = s.poison := rfl
@[simp] theorem State.modCache_dramErrs (s : State) (n : Nat) (f : Cache → Cache) : (s.modCache n f).dramErrs = s.dramErrs := rfl
@[simp] theorem State.modCache_links (s : State) (n : Nat) (f : Cache → Cache) : (s.modCache n f).links = s.links := rfl
@[simp] theorem State.modCache_peerSlow (s : State) (n : Nat) (f : Cache → Cache) : (s.modCache n f).peerSlow = s.peerSlow := rfl
@[simp] theorem State.modCache_localFrames (s : State) (n : Nat) (f : Cache → Cache) : (s.modCache n f).localFrames = s.localFrames := rfl
@[simp] theorem State.modCache_colls (s : State) (n : Nat) (f : Cache → Cache) : (s.modCache n f).colls = s.colls := rfl
@[simp] theorem State.modCache_contexts (s : State) (n : Nat) (f : Cache → Cache) : (s.modCache n f).contexts = s.contexts := rfl
@[simp] theorem State.modCache_queues (s : State) (n : Nat) (f : Cache → Cache) : (s.modCache n f).queues = s.queues := rfl
@[simp] theorem State.modCache_partitions (s : State) (n : Nat) (f : Cache → Cache) : (s.modCache n f).partitions = s.partitions := rfl
@[simp] theorem State.modCache_pools (s : State) (n : Nat) (f : Cache → Cache) : (s.modCache n f).pools = s.pools := rfl
@[simp] theorem State.modCache_nextOrder (s : State) (n : Nat) (f : Cache → Cache) : (s.modCache n f).nextOrder = s.nextOrder := rfl
@[simp] theorem State.modCache_nextRead (s : State) (n : Nat) (f : Cache → Cache) : (s.modCache n f).nextRead = s.nextRead := rfl
@[simp] theorem State.modCache_host (s : State) (n : Nat) (f : Cache → Cache) : (s.modCache n f).host = s.host := rfl
@[simp] theorem State.modCache_power (s : State) (n : Nat) (f : Cache → Cache) : (s.modCache n f).power = s.power := rfl
@[simp] theorem State.modCache_velvet (s : State) (n : Nat) (f : Cache → Cache) : (s.modCache n f).velvet = s.velvet := rfl
@[simp] theorem State.modCache_flash (s : State) (n : Nat) (f : Cache → Cache) : (s.modCache n f).flash = s.flash := rfl
@[simp] theorem State.modCache_boot (s : State) (n : Nat) (f : Cache → Cache) : (s.modCache n f).boot = s.boot := rfl
@[simp] theorem State.modCache_hub (s : State) (n : Nat) (f : Cache → Cache) : (s.modCache n f).hub = s.hub := rfl

@[simp] theorem State.modPower_pending (s : State) (f : Power → Power) : (s.modPower f).pending = s.pending := rfl
@[simp] theorem State.modPower_ticks (s : State) (f : Power → Power) : (s.modPower f).ticks = s.ticks := rfl
@[simp] theorem State.modPower_floor4 (s : State) (f : Power → Power) : (s.modPower f).floor4 = s.floor4 := rfl
@[simp] theorem State.modPower_draws (s : State) (f : Power → Power) : (s.modPower f).draws = s.draws := rfl
@[simp] theorem State.modPower_i3cOut (s : State) (f : Power → Power) : (s.modPower f).i3cOut = s.i3cOut := rfl
@[simp] theorem State.modPower_cores (s : State) (f : Power → Power) : (s.modPower f).cores = s.cores := rfl
@[simp] theorem State.modPower_teams (s : State) (f : Power → Power) : (s.modPower f).teams = s.teams := rfl
@[simp] theorem State.modPower_nextTeam (s : State) (f : Power → Power) : (s.modPower f).nextTeam = s.nextTeam := rfl
@[simp] theorem State.modPower_xbar (s : State) (f : Power → Power) : (s.modPower f).xbar = s.xbar := rfl
@[simp] theorem State.modPower_nextXbar (s : State) (f : Power → Power) : (s.modPower f).nextXbar = s.nextXbar := rfl
@[simp] theorem State.modPower_upsets (s : State) (f : Power → Power) : (s.modPower f).upsets = s.upsets := rfl
@[simp] theorem State.modPower_caches (s : State) (f : Power → Power) : (s.modPower f).caches = s.caches := rfl
@[simp] theorem State.modPower_tiles (s : State) (f : Power → Power) : (s.modPower f).tiles = s.tiles := rfl
@[simp] theorem State.modPower_dies (s : State) (f : Power → Power) : (s.modPower f).dies = s.dies := rfl
@[simp] theorem State.modPower_floor (s : State) (f : Power → Power) : (s.modPower f).floor = s.floor := rfl
@[simp] theorem State.modPower_outstanding (s : State) (f : Power → Power) : (s.modPower f).outstanding = s.outstanding := rfl
@[simp] theorem State.modPower_mem (s : State) (f : Power → Power) : (s.modPower f).mem = s.mem := rfl
@[simp] theorem State.modPower_poison (s : State) (f : Power → Power) : (s.modPower f).poison = s.poison := rfl
@[simp] theorem State.modPower_dramErrs (s : State) (f : Power → Power) : (s.modPower f).dramErrs = s.dramErrs := rfl
@[simp] theorem State.modPower_links (s : State) (f : Power → Power) : (s.modPower f).links = s.links := rfl
@[simp] theorem State.modPower_peerSlow (s : State) (f : Power → Power) : (s.modPower f).peerSlow = s.peerSlow := rfl
@[simp] theorem State.modPower_localFrames (s : State) (f : Power → Power) : (s.modPower f).localFrames = s.localFrames := rfl
@[simp] theorem State.modPower_colls (s : State) (f : Power → Power) : (s.modPower f).colls = s.colls := rfl
@[simp] theorem State.modPower_contexts (s : State) (f : Power → Power) : (s.modPower f).contexts = s.contexts := rfl
@[simp] theorem State.modPower_queues (s : State) (f : Power → Power) : (s.modPower f).queues = s.queues := rfl
@[simp] theorem State.modPower_partitions (s : State) (f : Power → Power) : (s.modPower f).partitions = s.partitions := rfl
@[simp] theorem State.modPower_pools (s : State) (f : Power → Power) : (s.modPower f).pools = s.pools := rfl
@[simp] theorem State.modPower_nextOrder (s : State) (f : Power → Power) : (s.modPower f).nextOrder = s.nextOrder := rfl
@[simp] theorem State.modPower_nextRead (s : State) (f : Power → Power) : (s.modPower f).nextRead = s.nextRead := rfl
@[simp] theorem State.modPower_host (s : State) (f : Power → Power) : (s.modPower f).host = s.host := rfl
@[simp] theorem State.modPower_velvet (s : State) (f : Power → Power) : (s.modPower f).velvet = s.velvet := rfl
@[simp] theorem State.modPower_flash (s : State) (f : Power → Power) : (s.modPower f).flash = s.flash := rfl
@[simp] theorem State.modPower_boot (s : State) (f : Power → Power) : (s.modPower f).boot = s.boot := rfl
@[simp] theorem State.modPower_hub (s : State) (f : Power → Power) : (s.modPower f).hub = s.hub := rfl

@[simp] theorem State.modPwr_pending (s : State) (d : Nat) (f : PwrDie → PwrDie) : (s.modPwr d f).pending = s.pending := rfl
@[simp] theorem State.modPwr_ticks (s : State) (d : Nat) (f : PwrDie → PwrDie) : (s.modPwr d f).ticks = s.ticks := rfl
@[simp] theorem State.modPwr_floor4 (s : State) (d : Nat) (f : PwrDie → PwrDie) : (s.modPwr d f).floor4 = s.floor4 := rfl
@[simp] theorem State.modPwr_draws (s : State) (d : Nat) (f : PwrDie → PwrDie) : (s.modPwr d f).draws = s.draws := rfl
@[simp] theorem State.modPwr_i3cOut (s : State) (d : Nat) (f : PwrDie → PwrDie) : (s.modPwr d f).i3cOut = s.i3cOut := rfl
@[simp] theorem State.modPwr_cores (s : State) (d : Nat) (f : PwrDie → PwrDie) : (s.modPwr d f).cores = s.cores := rfl
@[simp] theorem State.modPwr_teams (s : State) (d : Nat) (f : PwrDie → PwrDie) : (s.modPwr d f).teams = s.teams := rfl
@[simp] theorem State.modPwr_nextTeam (s : State) (d : Nat) (f : PwrDie → PwrDie) : (s.modPwr d f).nextTeam = s.nextTeam := rfl
@[simp] theorem State.modPwr_xbar (s : State) (d : Nat) (f : PwrDie → PwrDie) : (s.modPwr d f).xbar = s.xbar := rfl
@[simp] theorem State.modPwr_nextXbar (s : State) (d : Nat) (f : PwrDie → PwrDie) : (s.modPwr d f).nextXbar = s.nextXbar := rfl
@[simp] theorem State.modPwr_upsets (s : State) (d : Nat) (f : PwrDie → PwrDie) : (s.modPwr d f).upsets = s.upsets := rfl
@[simp] theorem State.modPwr_caches (s : State) (d : Nat) (f : PwrDie → PwrDie) : (s.modPwr d f).caches = s.caches := rfl
@[simp] theorem State.modPwr_tiles (s : State) (d : Nat) (f : PwrDie → PwrDie) : (s.modPwr d f).tiles = s.tiles := rfl
@[simp] theorem State.modPwr_dies (s : State) (d : Nat) (f : PwrDie → PwrDie) : (s.modPwr d f).dies = s.dies := rfl
@[simp] theorem State.modPwr_floor (s : State) (d : Nat) (f : PwrDie → PwrDie) : (s.modPwr d f).floor = s.floor := rfl
@[simp] theorem State.modPwr_outstanding (s : State) (d : Nat) (f : PwrDie → PwrDie) : (s.modPwr d f).outstanding = s.outstanding := rfl
@[simp] theorem State.modPwr_mem (s : State) (d : Nat) (f : PwrDie → PwrDie) : (s.modPwr d f).mem = s.mem := rfl
@[simp] theorem State.modPwr_poison (s : State) (d : Nat) (f : PwrDie → PwrDie) : (s.modPwr d f).poison = s.poison := rfl
@[simp] theorem State.modPwr_dramErrs (s : State) (d : Nat) (f : PwrDie → PwrDie) : (s.modPwr d f).dramErrs = s.dramErrs := rfl
@[simp] theorem State.modPwr_links (s : State) (d : Nat) (f : PwrDie → PwrDie) : (s.modPwr d f).links = s.links := rfl
@[simp] theorem State.modPwr_peerSlow (s : State) (d : Nat) (f : PwrDie → PwrDie) : (s.modPwr d f).peerSlow = s.peerSlow := rfl
@[simp] theorem State.modPwr_localFrames (s : State) (d : Nat) (f : PwrDie → PwrDie) : (s.modPwr d f).localFrames = s.localFrames := rfl
@[simp] theorem State.modPwr_colls (s : State) (d : Nat) (f : PwrDie → PwrDie) : (s.modPwr d f).colls = s.colls := rfl
@[simp] theorem State.modPwr_contexts (s : State) (d : Nat) (f : PwrDie → PwrDie) : (s.modPwr d f).contexts = s.contexts := rfl
@[simp] theorem State.modPwr_queues (s : State) (d : Nat) (f : PwrDie → PwrDie) : (s.modPwr d f).queues = s.queues := rfl
@[simp] theorem State.modPwr_partitions (s : State) (d : Nat) (f : PwrDie → PwrDie) : (s.modPwr d f).partitions = s.partitions := rfl
@[simp] theorem State.modPwr_pools (s : State) (d : Nat) (f : PwrDie → PwrDie) : (s.modPwr d f).pools = s.pools := rfl
@[simp] theorem State.modPwr_nextOrder (s : State) (d : Nat) (f : PwrDie → PwrDie) : (s.modPwr d f).nextOrder = s.nextOrder := rfl
@[simp] theorem State.modPwr_nextRead (s : State) (d : Nat) (f : PwrDie → PwrDie) : (s.modPwr d f).nextRead = s.nextRead := rfl
@[simp] theorem State.modPwr_host (s : State) (d : Nat) (f : PwrDie → PwrDie) : (s.modPwr d f).host = s.host := rfl
@[simp] theorem State.modPwr_velvet (s : State) (d : Nat) (f : PwrDie → PwrDie) : (s.modPwr d f).velvet = s.velvet := rfl
@[simp] theorem State.modPwr_flash (s : State) (d : Nat) (f : PwrDie → PwrDie) : (s.modPwr d f).flash = s.flash := rfl
@[simp] theorem State.modPwr_boot (s : State) (d : Nat) (f : PwrDie → PwrDie) : (s.modPwr d f).boot = s.boot := rfl
@[simp] theorem State.modPwr_hub (s : State) (d : Nat) (f : PwrDie → PwrDie) : (s.modPwr d f).hub = s.hub := rfl

@[simp] theorem State.modHost_pending (s : State) (f : HostFn → HostFn) : (s.modHost f).pending = s.pending := rfl
@[simp] theorem State.modHost_ticks (s : State) (f : HostFn → HostFn) : (s.modHost f).ticks = s.ticks := rfl
@[simp] theorem State.modHost_floor4 (s : State) (f : HostFn → HostFn) : (s.modHost f).floor4 = s.floor4 := rfl
@[simp] theorem State.modHost_draws (s : State) (f : HostFn → HostFn) : (s.modHost f).draws = s.draws := rfl
@[simp] theorem State.modHost_i3cOut (s : State) (f : HostFn → HostFn) : (s.modHost f).i3cOut = s.i3cOut := rfl
@[simp] theorem State.modHost_cores (s : State) (f : HostFn → HostFn) : (s.modHost f).cores = s.cores := rfl
@[simp] theorem State.modHost_teams (s : State) (f : HostFn → HostFn) : (s.modHost f).teams = s.teams := rfl
@[simp] theorem State.modHost_nextTeam (s : State) (f : HostFn → HostFn) : (s.modHost f).nextTeam = s.nextTeam := rfl
@[simp] theorem State.modHost_xbar (s : State) (f : HostFn → HostFn) : (s.modHost f).xbar = s.xbar := rfl
@[simp] theorem State.modHost_nextXbar (s : State) (f : HostFn → HostFn) : (s.modHost f).nextXbar = s.nextXbar := rfl
@[simp] theorem State.modHost_upsets (s : State) (f : HostFn → HostFn) : (s.modHost f).upsets = s.upsets := rfl
@[simp] theorem State.modHost_caches (s : State) (f : HostFn → HostFn) : (s.modHost f).caches = s.caches := rfl
@[simp] theorem State.modHost_tiles (s : State) (f : HostFn → HostFn) : (s.modHost f).tiles = s.tiles := rfl
@[simp] theorem State.modHost_dies (s : State) (f : HostFn → HostFn) : (s.modHost f).dies = s.dies := rfl
@[simp] theorem State.modHost_floor (s : State) (f : HostFn → HostFn) : (s.modHost f).floor = s.floor := rfl
@[simp] theorem State.modHost_outstanding (s : State) (f : HostFn → HostFn) : (s.modHost f).outstanding = s.outstanding := rfl
@[simp] theorem State.modHost_mem (s : State) (f : HostFn → HostFn) : (s.modHost f).mem = s.mem := rfl
@[simp] theorem State.modHost_poison (s : State) (f : HostFn → HostFn) : (s.modHost f).poison = s.poison := rfl
@[simp] theorem State.modHost_dramErrs (s : State) (f : HostFn → HostFn) : (s.modHost f).dramErrs = s.dramErrs := rfl
@[simp] theorem State.modHost_links (s : State) (f : HostFn → HostFn) : (s.modHost f).links = s.links := rfl
@[simp] theorem State.modHost_peerSlow (s : State) (f : HostFn → HostFn) : (s.modHost f).peerSlow = s.peerSlow := rfl
@[simp] theorem State.modHost_localFrames (s : State) (f : HostFn → HostFn) : (s.modHost f).localFrames = s.localFrames := rfl
@[simp] theorem State.modHost_colls (s : State) (f : HostFn → HostFn) : (s.modHost f).colls = s.colls := rfl
@[simp] theorem State.modHost_contexts (s : State) (f : HostFn → HostFn) : (s.modHost f).contexts = s.contexts := rfl
@[simp] theorem State.modHost_queues (s : State) (f : HostFn → HostFn) : (s.modHost f).queues = s.queues := rfl
@[simp] theorem State.modHost_partitions (s : State) (f : HostFn → HostFn) : (s.modHost f).partitions = s.partitions := rfl
@[simp] theorem State.modHost_pools (s : State) (f : HostFn → HostFn) : (s.modHost f).pools = s.pools := rfl
@[simp] theorem State.modHost_nextOrder (s : State) (f : HostFn → HostFn) : (s.modHost f).nextOrder = s.nextOrder := rfl
@[simp] theorem State.modHost_nextRead (s : State) (f : HostFn → HostFn) : (s.modHost f).nextRead = s.nextRead := rfl
@[simp] theorem State.modHost_power (s : State) (f : HostFn → HostFn) : (s.modHost f).power = s.power := rfl
@[simp] theorem State.modHost_velvet (s : State) (f : HostFn → HostFn) : (s.modHost f).velvet = s.velvet := rfl
@[simp] theorem State.modHost_flash (s : State) (f : HostFn → HostFn) : (s.modHost f).flash = s.flash := rfl
@[simp] theorem State.modHost_boot (s : State) (f : HostFn → HostFn) : (s.modHost f).boot = s.boot := rfl
@[simp] theorem State.modHost_hub (s : State) (f : HostFn → HostFn) : (s.modHost f).hub = s.hub := rfl

@[simp] theorem State.modRing_pending (s : State) (r : Nat) (f : HostRing → HostRing) : (s.modRing r f).pending = s.pending := rfl
@[simp] theorem State.modRing_ticks (s : State) (r : Nat) (f : HostRing → HostRing) : (s.modRing r f).ticks = s.ticks := rfl
@[simp] theorem State.modRing_floor4 (s : State) (r : Nat) (f : HostRing → HostRing) : (s.modRing r f).floor4 = s.floor4 := rfl
@[simp] theorem State.modRing_draws (s : State) (r : Nat) (f : HostRing → HostRing) : (s.modRing r f).draws = s.draws := rfl
@[simp] theorem State.modRing_i3cOut (s : State) (r : Nat) (f : HostRing → HostRing) : (s.modRing r f).i3cOut = s.i3cOut := rfl
@[simp] theorem State.modRing_cores (s : State) (r : Nat) (f : HostRing → HostRing) : (s.modRing r f).cores = s.cores := rfl
@[simp] theorem State.modRing_teams (s : State) (r : Nat) (f : HostRing → HostRing) : (s.modRing r f).teams = s.teams := rfl
@[simp] theorem State.modRing_nextTeam (s : State) (r : Nat) (f : HostRing → HostRing) : (s.modRing r f).nextTeam = s.nextTeam := rfl
@[simp] theorem State.modRing_xbar (s : State) (r : Nat) (f : HostRing → HostRing) : (s.modRing r f).xbar = s.xbar := rfl
@[simp] theorem State.modRing_nextXbar (s : State) (r : Nat) (f : HostRing → HostRing) : (s.modRing r f).nextXbar = s.nextXbar := rfl
@[simp] theorem State.modRing_upsets (s : State) (r : Nat) (f : HostRing → HostRing) : (s.modRing r f).upsets = s.upsets := rfl
@[simp] theorem State.modRing_caches (s : State) (r : Nat) (f : HostRing → HostRing) : (s.modRing r f).caches = s.caches := rfl
@[simp] theorem State.modRing_tiles (s : State) (r : Nat) (f : HostRing → HostRing) : (s.modRing r f).tiles = s.tiles := rfl
@[simp] theorem State.modRing_dies (s : State) (r : Nat) (f : HostRing → HostRing) : (s.modRing r f).dies = s.dies := rfl
@[simp] theorem State.modRing_floor (s : State) (r : Nat) (f : HostRing → HostRing) : (s.modRing r f).floor = s.floor := rfl
@[simp] theorem State.modRing_outstanding (s : State) (r : Nat) (f : HostRing → HostRing) : (s.modRing r f).outstanding = s.outstanding := rfl
@[simp] theorem State.modRing_mem (s : State) (r : Nat) (f : HostRing → HostRing) : (s.modRing r f).mem = s.mem := rfl
@[simp] theorem State.modRing_poison (s : State) (r : Nat) (f : HostRing → HostRing) : (s.modRing r f).poison = s.poison := rfl
@[simp] theorem State.modRing_dramErrs (s : State) (r : Nat) (f : HostRing → HostRing) : (s.modRing r f).dramErrs = s.dramErrs := rfl
@[simp] theorem State.modRing_links (s : State) (r : Nat) (f : HostRing → HostRing) : (s.modRing r f).links = s.links := rfl
@[simp] theorem State.modRing_peerSlow (s : State) (r : Nat) (f : HostRing → HostRing) : (s.modRing r f).peerSlow = s.peerSlow := rfl
@[simp] theorem State.modRing_localFrames (s : State) (r : Nat) (f : HostRing → HostRing) : (s.modRing r f).localFrames = s.localFrames := rfl
@[simp] theorem State.modRing_colls (s : State) (r : Nat) (f : HostRing → HostRing) : (s.modRing r f).colls = s.colls := rfl
@[simp] theorem State.modRing_contexts (s : State) (r : Nat) (f : HostRing → HostRing) : (s.modRing r f).contexts = s.contexts := rfl
@[simp] theorem State.modRing_queues (s : State) (r : Nat) (f : HostRing → HostRing) : (s.modRing r f).queues = s.queues := rfl
@[simp] theorem State.modRing_partitions (s : State) (r : Nat) (f : HostRing → HostRing) : (s.modRing r f).partitions = s.partitions := rfl
@[simp] theorem State.modRing_pools (s : State) (r : Nat) (f : HostRing → HostRing) : (s.modRing r f).pools = s.pools := rfl
@[simp] theorem State.modRing_nextOrder (s : State) (r : Nat) (f : HostRing → HostRing) : (s.modRing r f).nextOrder = s.nextOrder := rfl
@[simp] theorem State.modRing_nextRead (s : State) (r : Nat) (f : HostRing → HostRing) : (s.modRing r f).nextRead = s.nextRead := rfl
@[simp] theorem State.modRing_power (s : State) (r : Nat) (f : HostRing → HostRing) : (s.modRing r f).power = s.power := rfl
@[simp] theorem State.modRing_velvet (s : State) (r : Nat) (f : HostRing → HostRing) : (s.modRing r f).velvet = s.velvet := rfl
@[simp] theorem State.modRing_flash (s : State) (r : Nat) (f : HostRing → HostRing) : (s.modRing r f).flash = s.flash := rfl
@[simp] theorem State.modRing_boot (s : State) (r : Nat) (f : HostRing → HostRing) : (s.modRing r f).boot = s.boot := rfl
@[simp] theorem State.modRing_hub (s : State) (r : Nat) (f : HostRing → HostRing) : (s.modRing r f).hub = s.hub := rfl

@[simp] theorem State.modHub_pending (s : State) (f : Hub → Hub) : (s.modHub f).pending = s.pending := rfl
@[simp] theorem State.modHub_ticks (s : State) (f : Hub → Hub) : (s.modHub f).ticks = s.ticks := rfl
@[simp] theorem State.modHub_floor4 (s : State) (f : Hub → Hub) : (s.modHub f).floor4 = s.floor4 := rfl
@[simp] theorem State.modHub_draws (s : State) (f : Hub → Hub) : (s.modHub f).draws = s.draws := rfl
@[simp] theorem State.modHub_i3cOut (s : State) (f : Hub → Hub) : (s.modHub f).i3cOut = s.i3cOut := rfl
@[simp] theorem State.modHub_cores (s : State) (f : Hub → Hub) : (s.modHub f).cores = s.cores := rfl
@[simp] theorem State.modHub_teams (s : State) (f : Hub → Hub) : (s.modHub f).teams = s.teams := rfl
@[simp] theorem State.modHub_nextTeam (s : State) (f : Hub → Hub) : (s.modHub f).nextTeam = s.nextTeam := rfl
@[simp] theorem State.modHub_xbar (s : State) (f : Hub → Hub) : (s.modHub f).xbar = s.xbar := rfl
@[simp] theorem State.modHub_nextXbar (s : State) (f : Hub → Hub) : (s.modHub f).nextXbar = s.nextXbar := rfl
@[simp] theorem State.modHub_upsets (s : State) (f : Hub → Hub) : (s.modHub f).upsets = s.upsets := rfl
@[simp] theorem State.modHub_caches (s : State) (f : Hub → Hub) : (s.modHub f).caches = s.caches := rfl
@[simp] theorem State.modHub_tiles (s : State) (f : Hub → Hub) : (s.modHub f).tiles = s.tiles := rfl
@[simp] theorem State.modHub_dies (s : State) (f : Hub → Hub) : (s.modHub f).dies = s.dies := rfl
@[simp] theorem State.modHub_floor (s : State) (f : Hub → Hub) : (s.modHub f).floor = s.floor := rfl
@[simp] theorem State.modHub_outstanding (s : State) (f : Hub → Hub) : (s.modHub f).outstanding = s.outstanding := rfl
@[simp] theorem State.modHub_mem (s : State) (f : Hub → Hub) : (s.modHub f).mem = s.mem := rfl
@[simp] theorem State.modHub_poison (s : State) (f : Hub → Hub) : (s.modHub f).poison = s.poison := rfl
@[simp] theorem State.modHub_dramErrs (s : State) (f : Hub → Hub) : (s.modHub f).dramErrs = s.dramErrs := rfl
@[simp] theorem State.modHub_links (s : State) (f : Hub → Hub) : (s.modHub f).links = s.links := rfl
@[simp] theorem State.modHub_peerSlow (s : State) (f : Hub → Hub) : (s.modHub f).peerSlow = s.peerSlow := rfl
@[simp] theorem State.modHub_localFrames (s : State) (f : Hub → Hub) : (s.modHub f).localFrames = s.localFrames := rfl
@[simp] theorem State.modHub_colls (s : State) (f : Hub → Hub) : (s.modHub f).colls = s.colls := rfl
@[simp] theorem State.modHub_contexts (s : State) (f : Hub → Hub) : (s.modHub f).contexts = s.contexts := rfl
@[simp] theorem State.modHub_queues (s : State) (f : Hub → Hub) : (s.modHub f).queues = s.queues := rfl
@[simp] theorem State.modHub_partitions (s : State) (f : Hub → Hub) : (s.modHub f).partitions = s.partitions := rfl
@[simp] theorem State.modHub_pools (s : State) (f : Hub → Hub) : (s.modHub f).pools = s.pools := rfl
@[simp] theorem State.modHub_nextOrder (s : State) (f : Hub → Hub) : (s.modHub f).nextOrder = s.nextOrder := rfl
@[simp] theorem State.modHub_nextRead (s : State) (f : Hub → Hub) : (s.modHub f).nextRead = s.nextRead := rfl
@[simp] theorem State.modHub_host (s : State) (f : Hub → Hub) : (s.modHub f).host = s.host := rfl
@[simp] theorem State.modHub_power (s : State) (f : Hub → Hub) : (s.modHub f).power = s.power := rfl
@[simp] theorem State.modHub_velvet (s : State) (f : Hub → Hub) : (s.modHub f).velvet = s.velvet := rfl
@[simp] theorem State.modHub_flash (s : State) (f : Hub → Hub) : (s.modHub f).flash = s.flash := rfl
@[simp] theorem State.modHub_boot (s : State) (f : Hub → Hub) : (s.modHub f).boot = s.boot := rfl

@[simp] theorem State.modBoot_pending (s : State) (f : Boot → Boot) : (s.modBoot f).pending = s.pending := rfl
@[simp] theorem State.modBoot_ticks (s : State) (f : Boot → Boot) : (s.modBoot f).ticks = s.ticks := rfl
@[simp] theorem State.modBoot_floor4 (s : State) (f : Boot → Boot) : (s.modBoot f).floor4 = s.floor4 := rfl
@[simp] theorem State.modBoot_draws (s : State) (f : Boot → Boot) : (s.modBoot f).draws = s.draws := rfl
@[simp] theorem State.modBoot_i3cOut (s : State) (f : Boot → Boot) : (s.modBoot f).i3cOut = s.i3cOut := rfl
@[simp] theorem State.modBoot_cores (s : State) (f : Boot → Boot) : (s.modBoot f).cores = s.cores := rfl
@[simp] theorem State.modBoot_teams (s : State) (f : Boot → Boot) : (s.modBoot f).teams = s.teams := rfl
@[simp] theorem State.modBoot_nextTeam (s : State) (f : Boot → Boot) : (s.modBoot f).nextTeam = s.nextTeam := rfl
@[simp] theorem State.modBoot_xbar (s : State) (f : Boot → Boot) : (s.modBoot f).xbar = s.xbar := rfl
@[simp] theorem State.modBoot_nextXbar (s : State) (f : Boot → Boot) : (s.modBoot f).nextXbar = s.nextXbar := rfl
@[simp] theorem State.modBoot_upsets (s : State) (f : Boot → Boot) : (s.modBoot f).upsets = s.upsets := rfl
@[simp] theorem State.modBoot_caches (s : State) (f : Boot → Boot) : (s.modBoot f).caches = s.caches := rfl
@[simp] theorem State.modBoot_tiles (s : State) (f : Boot → Boot) : (s.modBoot f).tiles = s.tiles := rfl
@[simp] theorem State.modBoot_dies (s : State) (f : Boot → Boot) : (s.modBoot f).dies = s.dies := rfl
@[simp] theorem State.modBoot_floor (s : State) (f : Boot → Boot) : (s.modBoot f).floor = s.floor := rfl
@[simp] theorem State.modBoot_outstanding (s : State) (f : Boot → Boot) : (s.modBoot f).outstanding = s.outstanding := rfl
@[simp] theorem State.modBoot_mem (s : State) (f : Boot → Boot) : (s.modBoot f).mem = s.mem := rfl
@[simp] theorem State.modBoot_poison (s : State) (f : Boot → Boot) : (s.modBoot f).poison = s.poison := rfl
@[simp] theorem State.modBoot_dramErrs (s : State) (f : Boot → Boot) : (s.modBoot f).dramErrs = s.dramErrs := rfl
@[simp] theorem State.modBoot_links (s : State) (f : Boot → Boot) : (s.modBoot f).links = s.links := rfl
@[simp] theorem State.modBoot_peerSlow (s : State) (f : Boot → Boot) : (s.modBoot f).peerSlow = s.peerSlow := rfl
@[simp] theorem State.modBoot_localFrames (s : State) (f : Boot → Boot) : (s.modBoot f).localFrames = s.localFrames := rfl
@[simp] theorem State.modBoot_colls (s : State) (f : Boot → Boot) : (s.modBoot f).colls = s.colls := rfl
@[simp] theorem State.modBoot_contexts (s : State) (f : Boot → Boot) : (s.modBoot f).contexts = s.contexts := rfl
@[simp] theorem State.modBoot_queues (s : State) (f : Boot → Boot) : (s.modBoot f).queues = s.queues := rfl
@[simp] theorem State.modBoot_partitions (s : State) (f : Boot → Boot) : (s.modBoot f).partitions = s.partitions := rfl
@[simp] theorem State.modBoot_pools (s : State) (f : Boot → Boot) : (s.modBoot f).pools = s.pools := rfl
@[simp] theorem State.modBoot_nextOrder (s : State) (f : Boot → Boot) : (s.modBoot f).nextOrder = s.nextOrder := rfl
@[simp] theorem State.modBoot_nextRead (s : State) (f : Boot → Boot) : (s.modBoot f).nextRead = s.nextRead := rfl
@[simp] theorem State.modBoot_host (s : State) (f : Boot → Boot) : (s.modBoot f).host = s.host := rfl
@[simp] theorem State.modBoot_power (s : State) (f : Boot → Boot) : (s.modBoot f).power = s.power := rfl
@[simp] theorem State.modBoot_velvet (s : State) (f : Boot → Boot) : (s.modBoot f).velvet = s.velvet := rfl
@[simp] theorem State.modBoot_flash (s : State) (f : Boot → Boot) : (s.modBoot f).flash = s.flash := rfl
@[simp] theorem State.modBoot_hub (s : State) (f : Boot → Boot) : (s.modBoot f).hub = s.hub := rfl

@[simp] theorem State.modVelvet_pending (s : State) (f : Velvet → Velvet) : (s.modVelvet f).pending = s.pending := rfl
@[simp] theorem State.modVelvet_ticks (s : State) (f : Velvet → Velvet) : (s.modVelvet f).ticks = s.ticks := rfl
@[simp] theorem State.modVelvet_floor4 (s : State) (f : Velvet → Velvet) : (s.modVelvet f).floor4 = s.floor4 := rfl
@[simp] theorem State.modVelvet_draws (s : State) (f : Velvet → Velvet) : (s.modVelvet f).draws = s.draws := rfl
@[simp] theorem State.modVelvet_i3cOut (s : State) (f : Velvet → Velvet) : (s.modVelvet f).i3cOut = s.i3cOut := rfl
@[simp] theorem State.modVelvet_cores (s : State) (f : Velvet → Velvet) : (s.modVelvet f).cores = s.cores := rfl
@[simp] theorem State.modVelvet_teams (s : State) (f : Velvet → Velvet) : (s.modVelvet f).teams = s.teams := rfl
@[simp] theorem State.modVelvet_nextTeam (s : State) (f : Velvet → Velvet) : (s.modVelvet f).nextTeam = s.nextTeam := rfl
@[simp] theorem State.modVelvet_xbar (s : State) (f : Velvet → Velvet) : (s.modVelvet f).xbar = s.xbar := rfl
@[simp] theorem State.modVelvet_nextXbar (s : State) (f : Velvet → Velvet) : (s.modVelvet f).nextXbar = s.nextXbar := rfl
@[simp] theorem State.modVelvet_upsets (s : State) (f : Velvet → Velvet) : (s.modVelvet f).upsets = s.upsets := rfl
@[simp] theorem State.modVelvet_caches (s : State) (f : Velvet → Velvet) : (s.modVelvet f).caches = s.caches := rfl
@[simp] theorem State.modVelvet_tiles (s : State) (f : Velvet → Velvet) : (s.modVelvet f).tiles = s.tiles := rfl
@[simp] theorem State.modVelvet_dies (s : State) (f : Velvet → Velvet) : (s.modVelvet f).dies = s.dies := rfl
@[simp] theorem State.modVelvet_floor (s : State) (f : Velvet → Velvet) : (s.modVelvet f).floor = s.floor := rfl
@[simp] theorem State.modVelvet_outstanding (s : State) (f : Velvet → Velvet) : (s.modVelvet f).outstanding = s.outstanding := rfl
@[simp] theorem State.modVelvet_mem (s : State) (f : Velvet → Velvet) : (s.modVelvet f).mem = s.mem := rfl
@[simp] theorem State.modVelvet_poison (s : State) (f : Velvet → Velvet) : (s.modVelvet f).poison = s.poison := rfl
@[simp] theorem State.modVelvet_dramErrs (s : State) (f : Velvet → Velvet) : (s.modVelvet f).dramErrs = s.dramErrs := rfl
@[simp] theorem State.modVelvet_links (s : State) (f : Velvet → Velvet) : (s.modVelvet f).links = s.links := rfl
@[simp] theorem State.modVelvet_peerSlow (s : State) (f : Velvet → Velvet) : (s.modVelvet f).peerSlow = s.peerSlow := rfl
@[simp] theorem State.modVelvet_localFrames (s : State) (f : Velvet → Velvet) : (s.modVelvet f).localFrames = s.localFrames := rfl
@[simp] theorem State.modVelvet_colls (s : State) (f : Velvet → Velvet) : (s.modVelvet f).colls = s.colls := rfl
@[simp] theorem State.modVelvet_contexts (s : State) (f : Velvet → Velvet) : (s.modVelvet f).contexts = s.contexts := rfl
@[simp] theorem State.modVelvet_queues (s : State) (f : Velvet → Velvet) : (s.modVelvet f).queues = s.queues := rfl
@[simp] theorem State.modVelvet_partitions (s : State) (f : Velvet → Velvet) : (s.modVelvet f).partitions = s.partitions := rfl
@[simp] theorem State.modVelvet_pools (s : State) (f : Velvet → Velvet) : (s.modVelvet f).pools = s.pools := rfl
@[simp] theorem State.modVelvet_nextOrder (s : State) (f : Velvet → Velvet) : (s.modVelvet f).nextOrder = s.nextOrder := rfl
@[simp] theorem State.modVelvet_nextRead (s : State) (f : Velvet → Velvet) : (s.modVelvet f).nextRead = s.nextRead := rfl
@[simp] theorem State.modVelvet_host (s : State) (f : Velvet → Velvet) : (s.modVelvet f).host = s.host := rfl
@[simp] theorem State.modVelvet_power (s : State) (f : Velvet → Velvet) : (s.modVelvet f).power = s.power := rfl
@[simp] theorem State.modVelvet_flash (s : State) (f : Velvet → Velvet) : (s.modVelvet f).flash = s.flash := rfl
@[simp] theorem State.modVelvet_boot (s : State) (f : Velvet → Velvet) : (s.modVelvet f).boot = s.boot := rfl
@[simp] theorem State.modVelvet_hub (s : State) (f : Velvet → Velvet) : (s.modVelvet f).hub = s.hub := rfl

@[simp] theorem State.modFlash_pending (s : State) (f : Flash → Flash) : (s.modFlash f).pending = s.pending := rfl
@[simp] theorem State.modFlash_ticks (s : State) (f : Flash → Flash) : (s.modFlash f).ticks = s.ticks := rfl
@[simp] theorem State.modFlash_floor4 (s : State) (f : Flash → Flash) : (s.modFlash f).floor4 = s.floor4 := rfl
@[simp] theorem State.modFlash_draws (s : State) (f : Flash → Flash) : (s.modFlash f).draws = s.draws := rfl
@[simp] theorem State.modFlash_i3cOut (s : State) (f : Flash → Flash) : (s.modFlash f).i3cOut = s.i3cOut := rfl
@[simp] theorem State.modFlash_cores (s : State) (f : Flash → Flash) : (s.modFlash f).cores = s.cores := rfl
@[simp] theorem State.modFlash_teams (s : State) (f : Flash → Flash) : (s.modFlash f).teams = s.teams := rfl
@[simp] theorem State.modFlash_nextTeam (s : State) (f : Flash → Flash) : (s.modFlash f).nextTeam = s.nextTeam := rfl
@[simp] theorem State.modFlash_xbar (s : State) (f : Flash → Flash) : (s.modFlash f).xbar = s.xbar := rfl
@[simp] theorem State.modFlash_nextXbar (s : State) (f : Flash → Flash) : (s.modFlash f).nextXbar = s.nextXbar := rfl
@[simp] theorem State.modFlash_upsets (s : State) (f : Flash → Flash) : (s.modFlash f).upsets = s.upsets := rfl
@[simp] theorem State.modFlash_caches (s : State) (f : Flash → Flash) : (s.modFlash f).caches = s.caches := rfl
@[simp] theorem State.modFlash_tiles (s : State) (f : Flash → Flash) : (s.modFlash f).tiles = s.tiles := rfl
@[simp] theorem State.modFlash_dies (s : State) (f : Flash → Flash) : (s.modFlash f).dies = s.dies := rfl
@[simp] theorem State.modFlash_floor (s : State) (f : Flash → Flash) : (s.modFlash f).floor = s.floor := rfl
@[simp] theorem State.modFlash_outstanding (s : State) (f : Flash → Flash) : (s.modFlash f).outstanding = s.outstanding := rfl
@[simp] theorem State.modFlash_mem (s : State) (f : Flash → Flash) : (s.modFlash f).mem = s.mem := rfl
@[simp] theorem State.modFlash_poison (s : State) (f : Flash → Flash) : (s.modFlash f).poison = s.poison := rfl
@[simp] theorem State.modFlash_dramErrs (s : State) (f : Flash → Flash) : (s.modFlash f).dramErrs = s.dramErrs := rfl
@[simp] theorem State.modFlash_links (s : State) (f : Flash → Flash) : (s.modFlash f).links = s.links := rfl
@[simp] theorem State.modFlash_peerSlow (s : State) (f : Flash → Flash) : (s.modFlash f).peerSlow = s.peerSlow := rfl
@[simp] theorem State.modFlash_localFrames (s : State) (f : Flash → Flash) : (s.modFlash f).localFrames = s.localFrames := rfl
@[simp] theorem State.modFlash_colls (s : State) (f : Flash → Flash) : (s.modFlash f).colls = s.colls := rfl
@[simp] theorem State.modFlash_contexts (s : State) (f : Flash → Flash) : (s.modFlash f).contexts = s.contexts := rfl
@[simp] theorem State.modFlash_queues (s : State) (f : Flash → Flash) : (s.modFlash f).queues = s.queues := rfl
@[simp] theorem State.modFlash_partitions (s : State) (f : Flash → Flash) : (s.modFlash f).partitions = s.partitions := rfl
@[simp] theorem State.modFlash_pools (s : State) (f : Flash → Flash) : (s.modFlash f).pools = s.pools := rfl
@[simp] theorem State.modFlash_nextOrder (s : State) (f : Flash → Flash) : (s.modFlash f).nextOrder = s.nextOrder := rfl
@[simp] theorem State.modFlash_nextRead (s : State) (f : Flash → Flash) : (s.modFlash f).nextRead = s.nextRead := rfl
@[simp] theorem State.modFlash_host (s : State) (f : Flash → Flash) : (s.modFlash f).host = s.host := rfl
@[simp] theorem State.modFlash_power (s : State) (f : Flash → Flash) : (s.modFlash f).power = s.power := rfl
@[simp] theorem State.modFlash_velvet (s : State) (f : Flash → Flash) : (s.modFlash f).velvet = s.velvet := rfl
@[simp] theorem State.modFlash_boot (s : State) (f : Flash → Flash) : (s.modFlash f).boot = s.boot := rfl
@[simp] theorem State.modFlash_hub (s : State) (f : Flash → Flash) : (s.modFlash f).hub = s.hub := rfl

@[simp] theorem State.modBlock_pending (s : State) (c b : Nat) (f : Block → Block) : (s.modBlock c b f).pending = s.pending := rfl
@[simp] theorem State.modBlock_ticks (s : State) (c b : Nat) (f : Block → Block) : (s.modBlock c b f).ticks = s.ticks := rfl
@[simp] theorem State.modBlock_floor4 (s : State) (c b : Nat) (f : Block → Block) : (s.modBlock c b f).floor4 = s.floor4 := rfl
@[simp] theorem State.modBlock_draws (s : State) (c b : Nat) (f : Block → Block) : (s.modBlock c b f).draws = s.draws := rfl
@[simp] theorem State.modBlock_i3cOut (s : State) (c b : Nat) (f : Block → Block) : (s.modBlock c b f).i3cOut = s.i3cOut := rfl
@[simp] theorem State.modBlock_teams (s : State) (c b : Nat) (f : Block → Block) : (s.modBlock c b f).teams = s.teams := rfl
@[simp] theorem State.modBlock_nextTeam (s : State) (c b : Nat) (f : Block → Block) : (s.modBlock c b f).nextTeam = s.nextTeam := rfl
@[simp] theorem State.modBlock_xbar (s : State) (c b : Nat) (f : Block → Block) : (s.modBlock c b f).xbar = s.xbar := rfl
@[simp] theorem State.modBlock_nextXbar (s : State) (c b : Nat) (f : Block → Block) : (s.modBlock c b f).nextXbar = s.nextXbar := rfl
@[simp] theorem State.modBlock_upsets (s : State) (c b : Nat) (f : Block → Block) : (s.modBlock c b f).upsets = s.upsets := rfl
@[simp] theorem State.modBlock_caches (s : State) (c b : Nat) (f : Block → Block) : (s.modBlock c b f).caches = s.caches := rfl
@[simp] theorem State.modBlock_tiles (s : State) (c b : Nat) (f : Block → Block) : (s.modBlock c b f).tiles = s.tiles := rfl
@[simp] theorem State.modBlock_dies (s : State) (c b : Nat) (f : Block → Block) : (s.modBlock c b f).dies = s.dies := rfl
@[simp] theorem State.modBlock_floor (s : State) (c b : Nat) (f : Block → Block) : (s.modBlock c b f).floor = s.floor := rfl
@[simp] theorem State.modBlock_outstanding (s : State) (c b : Nat) (f : Block → Block) : (s.modBlock c b f).outstanding = s.outstanding := rfl
@[simp] theorem State.modBlock_mem (s : State) (c b : Nat) (f : Block → Block) : (s.modBlock c b f).mem = s.mem := rfl
@[simp] theorem State.modBlock_poison (s : State) (c b : Nat) (f : Block → Block) : (s.modBlock c b f).poison = s.poison := rfl
@[simp] theorem State.modBlock_dramErrs (s : State) (c b : Nat) (f : Block → Block) : (s.modBlock c b f).dramErrs = s.dramErrs := rfl
@[simp] theorem State.modBlock_links (s : State) (c b : Nat) (f : Block → Block) : (s.modBlock c b f).links = s.links := rfl
@[simp] theorem State.modBlock_peerSlow (s : State) (c b : Nat) (f : Block → Block) : (s.modBlock c b f).peerSlow = s.peerSlow := rfl
@[simp] theorem State.modBlock_localFrames (s : State) (c b : Nat) (f : Block → Block) : (s.modBlock c b f).localFrames = s.localFrames := rfl
@[simp] theorem State.modBlock_colls (s : State) (c b : Nat) (f : Block → Block) : (s.modBlock c b f).colls = s.colls := rfl
@[simp] theorem State.modBlock_contexts (s : State) (c b : Nat) (f : Block → Block) : (s.modBlock c b f).contexts = s.contexts := rfl
@[simp] theorem State.modBlock_queues (s : State) (c b : Nat) (f : Block → Block) : (s.modBlock c b f).queues = s.queues := rfl
@[simp] theorem State.modBlock_partitions (s : State) (c b : Nat) (f : Block → Block) : (s.modBlock c b f).partitions = s.partitions := rfl
@[simp] theorem State.modBlock_pools (s : State) (c b : Nat) (f : Block → Block) : (s.modBlock c b f).pools = s.pools := rfl
@[simp] theorem State.modBlock_nextOrder (s : State) (c b : Nat) (f : Block → Block) : (s.modBlock c b f).nextOrder = s.nextOrder := rfl
@[simp] theorem State.modBlock_nextRead (s : State) (c b : Nat) (f : Block → Block) : (s.modBlock c b f).nextRead = s.nextRead := rfl
@[simp] theorem State.modBlock_host (s : State) (c b : Nat) (f : Block → Block) : (s.modBlock c b f).host = s.host := rfl
@[simp] theorem State.modBlock_power (s : State) (c b : Nat) (f : Block → Block) : (s.modBlock c b f).power = s.power := rfl
@[simp] theorem State.modBlock_velvet (s : State) (c b : Nat) (f : Block → Block) : (s.modBlock c b f).velvet = s.velvet := rfl
@[simp] theorem State.modBlock_flash (s : State) (c b : Nat) (f : Block → Block) : (s.modBlock c b f).flash = s.flash := rfl
@[simp] theorem State.modBlock_boot (s : State) (c b : Nat) (f : Block → Block) : (s.modBlock c b f).boot = s.boot := rfl
@[simp] theorem State.modBlock_hub (s : State) (c b : Nat) (f : Block → Block) : (s.modBlock c b f).hub = s.hub := rfl

@[simp] theorem State.modGroup_pending (s : State) (c b g : Nat) (f : Group → Group) : (s.modGroup c b g f).pending = s.pending := rfl
@[simp] theorem State.modGroup_ticks (s : State) (c b g : Nat) (f : Group → Group) : (s.modGroup c b g f).ticks = s.ticks := rfl
@[simp] theorem State.modGroup_floor4 (s : State) (c b g : Nat) (f : Group → Group) : (s.modGroup c b g f).floor4 = s.floor4 := rfl
@[simp] theorem State.modGroup_draws (s : State) (c b g : Nat) (f : Group → Group) : (s.modGroup c b g f).draws = s.draws := rfl
@[simp] theorem State.modGroup_i3cOut (s : State) (c b g : Nat) (f : Group → Group) : (s.modGroup c b g f).i3cOut = s.i3cOut := rfl
@[simp] theorem State.modGroup_teams (s : State) (c b g : Nat) (f : Group → Group) : (s.modGroup c b g f).teams = s.teams := rfl
@[simp] theorem State.modGroup_nextTeam (s : State) (c b g : Nat) (f : Group → Group) : (s.modGroup c b g f).nextTeam = s.nextTeam := rfl
@[simp] theorem State.modGroup_xbar (s : State) (c b g : Nat) (f : Group → Group) : (s.modGroup c b g f).xbar = s.xbar := rfl
@[simp] theorem State.modGroup_nextXbar (s : State) (c b g : Nat) (f : Group → Group) : (s.modGroup c b g f).nextXbar = s.nextXbar := rfl
@[simp] theorem State.modGroup_upsets (s : State) (c b g : Nat) (f : Group → Group) : (s.modGroup c b g f).upsets = s.upsets := rfl
@[simp] theorem State.modGroup_caches (s : State) (c b g : Nat) (f : Group → Group) : (s.modGroup c b g f).caches = s.caches := rfl
@[simp] theorem State.modGroup_tiles (s : State) (c b g : Nat) (f : Group → Group) : (s.modGroup c b g f).tiles = s.tiles := rfl
@[simp] theorem State.modGroup_dies (s : State) (c b g : Nat) (f : Group → Group) : (s.modGroup c b g f).dies = s.dies := rfl
@[simp] theorem State.modGroup_floor (s : State) (c b g : Nat) (f : Group → Group) : (s.modGroup c b g f).floor = s.floor := rfl
@[simp] theorem State.modGroup_outstanding (s : State) (c b g : Nat) (f : Group → Group) : (s.modGroup c b g f).outstanding = s.outstanding := rfl
@[simp] theorem State.modGroup_mem (s : State) (c b g : Nat) (f : Group → Group) : (s.modGroup c b g f).mem = s.mem := rfl
@[simp] theorem State.modGroup_poison (s : State) (c b g : Nat) (f : Group → Group) : (s.modGroup c b g f).poison = s.poison := rfl
@[simp] theorem State.modGroup_dramErrs (s : State) (c b g : Nat) (f : Group → Group) : (s.modGroup c b g f).dramErrs = s.dramErrs := rfl
@[simp] theorem State.modGroup_links (s : State) (c b g : Nat) (f : Group → Group) : (s.modGroup c b g f).links = s.links := rfl
@[simp] theorem State.modGroup_peerSlow (s : State) (c b g : Nat) (f : Group → Group) : (s.modGroup c b g f).peerSlow = s.peerSlow := rfl
@[simp] theorem State.modGroup_localFrames (s : State) (c b g : Nat) (f : Group → Group) : (s.modGroup c b g f).localFrames = s.localFrames := rfl
@[simp] theorem State.modGroup_colls (s : State) (c b g : Nat) (f : Group → Group) : (s.modGroup c b g f).colls = s.colls := rfl
@[simp] theorem State.modGroup_contexts (s : State) (c b g : Nat) (f : Group → Group) : (s.modGroup c b g f).contexts = s.contexts := rfl
@[simp] theorem State.modGroup_queues (s : State) (c b g : Nat) (f : Group → Group) : (s.modGroup c b g f).queues = s.queues := rfl
@[simp] theorem State.modGroup_partitions (s : State) (c b g : Nat) (f : Group → Group) : (s.modGroup c b g f).partitions = s.partitions := rfl
@[simp] theorem State.modGroup_pools (s : State) (c b g : Nat) (f : Group → Group) : (s.modGroup c b g f).pools = s.pools := rfl
@[simp] theorem State.modGroup_nextOrder (s : State) (c b g : Nat) (f : Group → Group) : (s.modGroup c b g f).nextOrder = s.nextOrder := rfl
@[simp] theorem State.modGroup_nextRead (s : State) (c b g : Nat) (f : Group → Group) : (s.modGroup c b g f).nextRead = s.nextRead := rfl
@[simp] theorem State.modGroup_host (s : State) (c b g : Nat) (f : Group → Group) : (s.modGroup c b g f).host = s.host := rfl
@[simp] theorem State.modGroup_power (s : State) (c b g : Nat) (f : Group → Group) : (s.modGroup c b g f).power = s.power := rfl
@[simp] theorem State.modGroup_velvet (s : State) (c b g : Nat) (f : Group → Group) : (s.modGroup c b g f).velvet = s.velvet := rfl
@[simp] theorem State.modGroup_flash (s : State) (c b g : Nat) (f : Group → Group) : (s.modGroup c b g f).flash = s.flash := rfl
@[simp] theorem State.modGroup_boot (s : State) (c b g : Nat) (f : Group → Group) : (s.modGroup c b g f).boot = s.boot := rfl
@[simp] theorem State.modGroup_hub (s : State) (c b g : Nat) (f : Group → Group) : (s.modGroup c b g f).hub = s.hub := rfl

@[simp] theorem State.modSlice_pending (s : State) (t j : Nat) (f : Slice → Slice) : (s.modSlice t j f).pending = s.pending := rfl
@[simp] theorem State.modSlice_ticks (s : State) (t j : Nat) (f : Slice → Slice) : (s.modSlice t j f).ticks = s.ticks := rfl
@[simp] theorem State.modSlice_floor4 (s : State) (t j : Nat) (f : Slice → Slice) : (s.modSlice t j f).floor4 = s.floor4 := rfl
@[simp] theorem State.modSlice_draws (s : State) (t j : Nat) (f : Slice → Slice) : (s.modSlice t j f).draws = s.draws := rfl
@[simp] theorem State.modSlice_i3cOut (s : State) (t j : Nat) (f : Slice → Slice) : (s.modSlice t j f).i3cOut = s.i3cOut := rfl
@[simp] theorem State.modSlice_cores (s : State) (t j : Nat) (f : Slice → Slice) : (s.modSlice t j f).cores = s.cores := rfl
@[simp] theorem State.modSlice_teams (s : State) (t j : Nat) (f : Slice → Slice) : (s.modSlice t j f).teams = s.teams := rfl
@[simp] theorem State.modSlice_nextTeam (s : State) (t j : Nat) (f : Slice → Slice) : (s.modSlice t j f).nextTeam = s.nextTeam := rfl
@[simp] theorem State.modSlice_xbar (s : State) (t j : Nat) (f : Slice → Slice) : (s.modSlice t j f).xbar = s.xbar := rfl
@[simp] theorem State.modSlice_nextXbar (s : State) (t j : Nat) (f : Slice → Slice) : (s.modSlice t j f).nextXbar = s.nextXbar := rfl
@[simp] theorem State.modSlice_upsets (s : State) (t j : Nat) (f : Slice → Slice) : (s.modSlice t j f).upsets = s.upsets := rfl
@[simp] theorem State.modSlice_caches (s : State) (t j : Nat) (f : Slice → Slice) : (s.modSlice t j f).caches = s.caches := rfl
@[simp] theorem State.modSlice_dies (s : State) (t j : Nat) (f : Slice → Slice) : (s.modSlice t j f).dies = s.dies := rfl
@[simp] theorem State.modSlice_floor (s : State) (t j : Nat) (f : Slice → Slice) : (s.modSlice t j f).floor = s.floor := rfl
@[simp] theorem State.modSlice_outstanding (s : State) (t j : Nat) (f : Slice → Slice) : (s.modSlice t j f).outstanding = s.outstanding := rfl
@[simp] theorem State.modSlice_mem (s : State) (t j : Nat) (f : Slice → Slice) : (s.modSlice t j f).mem = s.mem := rfl
@[simp] theorem State.modSlice_poison (s : State) (t j : Nat) (f : Slice → Slice) : (s.modSlice t j f).poison = s.poison := rfl
@[simp] theorem State.modSlice_dramErrs (s : State) (t j : Nat) (f : Slice → Slice) : (s.modSlice t j f).dramErrs = s.dramErrs := rfl
@[simp] theorem State.modSlice_links (s : State) (t j : Nat) (f : Slice → Slice) : (s.modSlice t j f).links = s.links := rfl
@[simp] theorem State.modSlice_peerSlow (s : State) (t j : Nat) (f : Slice → Slice) : (s.modSlice t j f).peerSlow = s.peerSlow := rfl
@[simp] theorem State.modSlice_localFrames (s : State) (t j : Nat) (f : Slice → Slice) : (s.modSlice t j f).localFrames = s.localFrames := rfl
@[simp] theorem State.modSlice_colls (s : State) (t j : Nat) (f : Slice → Slice) : (s.modSlice t j f).colls = s.colls := rfl
@[simp] theorem State.modSlice_contexts (s : State) (t j : Nat) (f : Slice → Slice) : (s.modSlice t j f).contexts = s.contexts := rfl
@[simp] theorem State.modSlice_queues (s : State) (t j : Nat) (f : Slice → Slice) : (s.modSlice t j f).queues = s.queues := rfl
@[simp] theorem State.modSlice_partitions (s : State) (t j : Nat) (f : Slice → Slice) : (s.modSlice t j f).partitions = s.partitions := rfl
@[simp] theorem State.modSlice_pools (s : State) (t j : Nat) (f : Slice → Slice) : (s.modSlice t j f).pools = s.pools := rfl
@[simp] theorem State.modSlice_nextOrder (s : State) (t j : Nat) (f : Slice → Slice) : (s.modSlice t j f).nextOrder = s.nextOrder := rfl
@[simp] theorem State.modSlice_nextRead (s : State) (t j : Nat) (f : Slice → Slice) : (s.modSlice t j f).nextRead = s.nextRead := rfl
@[simp] theorem State.modSlice_host (s : State) (t j : Nat) (f : Slice → Slice) : (s.modSlice t j f).host = s.host := rfl
@[simp] theorem State.modSlice_power (s : State) (t j : Nat) (f : Slice → Slice) : (s.modSlice t j f).power = s.power := rfl
@[simp] theorem State.modSlice_velvet (s : State) (t j : Nat) (f : Slice → Slice) : (s.modSlice t j f).velvet = s.velvet := rfl
@[simp] theorem State.modSlice_flash (s : State) (t j : Nat) (f : Slice → Slice) : (s.modSlice t j f).flash = s.flash := rfl
@[simp] theorem State.modSlice_boot (s : State) (t j : Nat) (f : Slice → Slice) : (s.modSlice t j f).boot = s.boot := rfl
@[simp] theorem State.modSlice_hub (s : State) (t j : Nat) (f : Slice → Slice) : (s.modSlice t j f).hub = s.hub := rfl

@[simp] theorem State.modRun_pending (s : State) (q : Nat) (f : Run → Run) : (s.modRun q f).pending = s.pending := rfl
@[simp] theorem State.modRun_ticks (s : State) (q : Nat) (f : Run → Run) : (s.modRun q f).ticks = s.ticks := rfl
@[simp] theorem State.modRun_floor4 (s : State) (q : Nat) (f : Run → Run) : (s.modRun q f).floor4 = s.floor4 := rfl
@[simp] theorem State.modRun_draws (s : State) (q : Nat) (f : Run → Run) : (s.modRun q f).draws = s.draws := rfl
@[simp] theorem State.modRun_i3cOut (s : State) (q : Nat) (f : Run → Run) : (s.modRun q f).i3cOut = s.i3cOut := rfl
@[simp] theorem State.modRun_cores (s : State) (q : Nat) (f : Run → Run) : (s.modRun q f).cores = s.cores := rfl
@[simp] theorem State.modRun_teams (s : State) (q : Nat) (f : Run → Run) : (s.modRun q f).teams = s.teams := rfl
@[simp] theorem State.modRun_nextTeam (s : State) (q : Nat) (f : Run → Run) : (s.modRun q f).nextTeam = s.nextTeam := rfl
@[simp] theorem State.modRun_xbar (s : State) (q : Nat) (f : Run → Run) : (s.modRun q f).xbar = s.xbar := rfl
@[simp] theorem State.modRun_nextXbar (s : State) (q : Nat) (f : Run → Run) : (s.modRun q f).nextXbar = s.nextXbar := rfl
@[simp] theorem State.modRun_upsets (s : State) (q : Nat) (f : Run → Run) : (s.modRun q f).upsets = s.upsets := rfl
@[simp] theorem State.modRun_caches (s : State) (q : Nat) (f : Run → Run) : (s.modRun q f).caches = s.caches := rfl
@[simp] theorem State.modRun_tiles (s : State) (q : Nat) (f : Run → Run) : (s.modRun q f).tiles = s.tiles := rfl
@[simp] theorem State.modRun_dies (s : State) (q : Nat) (f : Run → Run) : (s.modRun q f).dies = s.dies := rfl
@[simp] theorem State.modRun_floor (s : State) (q : Nat) (f : Run → Run) : (s.modRun q f).floor = s.floor := rfl
@[simp] theorem State.modRun_outstanding (s : State) (q : Nat) (f : Run → Run) : (s.modRun q f).outstanding = s.outstanding := rfl
@[simp] theorem State.modRun_mem (s : State) (q : Nat) (f : Run → Run) : (s.modRun q f).mem = s.mem := rfl
@[simp] theorem State.modRun_poison (s : State) (q : Nat) (f : Run → Run) : (s.modRun q f).poison = s.poison := rfl
@[simp] theorem State.modRun_dramErrs (s : State) (q : Nat) (f : Run → Run) : (s.modRun q f).dramErrs = s.dramErrs := rfl
@[simp] theorem State.modRun_links (s : State) (q : Nat) (f : Run → Run) : (s.modRun q f).links = s.links := rfl
@[simp] theorem State.modRun_peerSlow (s : State) (q : Nat) (f : Run → Run) : (s.modRun q f).peerSlow = s.peerSlow := rfl
@[simp] theorem State.modRun_localFrames (s : State) (q : Nat) (f : Run → Run) : (s.modRun q f).localFrames = s.localFrames := rfl
@[simp] theorem State.modRun_colls (s : State) (q : Nat) (f : Run → Run) : (s.modRun q f).colls = s.colls := rfl
@[simp] theorem State.modRun_contexts (s : State) (q : Nat) (f : Run → Run) : (s.modRun q f).contexts = s.contexts := rfl
@[simp] theorem State.modRun_partitions (s : State) (q : Nat) (f : Run → Run) : (s.modRun q f).partitions = s.partitions := rfl
@[simp] theorem State.modRun_pools (s : State) (q : Nat) (f : Run → Run) : (s.modRun q f).pools = s.pools := rfl
@[simp] theorem State.modRun_nextOrder (s : State) (q : Nat) (f : Run → Run) : (s.modRun q f).nextOrder = s.nextOrder := rfl
@[simp] theorem State.modRun_nextRead (s : State) (q : Nat) (f : Run → Run) : (s.modRun q f).nextRead = s.nextRead := rfl
@[simp] theorem State.modRun_host (s : State) (q : Nat) (f : Run → Run) : (s.modRun q f).host = s.host := rfl
@[simp] theorem State.modRun_power (s : State) (q : Nat) (f : Run → Run) : (s.modRun q f).power = s.power := rfl
@[simp] theorem State.modRun_velvet (s : State) (q : Nat) (f : Run → Run) : (s.modRun q f).velvet = s.velvet := rfl
@[simp] theorem State.modRun_flash (s : State) (q : Nat) (f : Run → Run) : (s.modRun q f).flash = s.flash := rfl
@[simp] theorem State.modRun_boot (s : State) (q : Nat) (f : Run → Run) : (s.modRun q f).boot = s.boot := rfl
@[simp] theorem State.modRun_hub (s : State) (q : Nat) (f : Run → Run) : (s.modRun q f).hub = s.hub := rfl

@[simp] theorem State.modCore_tile' (s : State) (c : Nat) (f : Core → Core) (x : Nat) : (s.modCore c f).tile x = s.tile x := rfl
@[simp] theorem State.modCore_die' (s : State) (c : Nat) (f : Core → Core) (x : Nat) : (s.modCore c f).die x = s.die x := rfl
@[simp] theorem State.modCore_link' (s : State) (c : Nat) (f : Core → Core) (x : Nat) : (s.modCore c f).link x = s.link x := rfl
@[simp] theorem State.modCore_queue' (s : State) (c : Nat) (f : Core → Core) (x : Nat) : (s.modCore c f).queue x = s.queue x := rfl
@[simp] theorem State.modCore_context' (s : State) (c : Nat) (f : Core → Core) (x : Nat) : (s.modCore c f).context x = s.context x := rfl
@[simp] theorem State.modCore_partition' (s : State) (c : Nat) (f : Core → Core) (x : Nat) : (s.modCore c f).partition x = s.partition x := rfl
@[simp] theorem State.modCore_cache' (s : State) (c : Nat) (f : Core → Core) (x : Nat) : (s.modCore c f).cache x = s.cache x := rfl
@[simp] theorem State.modCore_pwr' (s : State) (c : Nat) (f : Core → Core) (x : Nat) : (s.modCore c f).pwr x = s.pwr x := rfl
@[simp] theorem State.modCore_ring' (s : State) (c : Nat) (f : Core → Core) (x : Nat) : (s.modCore c f).ring x = s.ring x := rfl
@[simp] theorem State.modCore_run' (s : State) (c : Nat) (f : Core → Core) (x : Nat) : (s.modCore c f).run x = s.run x := rfl

@[simp] theorem State.modTile_core' (s : State) (t : Nat) (f : Tile → Tile) (x : Nat) : (s.modTile t f).core x = s.core x := rfl
@[simp] theorem State.modTile_die' (s : State) (t : Nat) (f : Tile → Tile) (x : Nat) : (s.modTile t f).die x = s.die x := rfl
@[simp] theorem State.modTile_link' (s : State) (t : Nat) (f : Tile → Tile) (x : Nat) : (s.modTile t f).link x = s.link x := rfl
@[simp] theorem State.modTile_queue' (s : State) (t : Nat) (f : Tile → Tile) (x : Nat) : (s.modTile t f).queue x = s.queue x := rfl
@[simp] theorem State.modTile_context' (s : State) (t : Nat) (f : Tile → Tile) (x : Nat) : (s.modTile t f).context x = s.context x := rfl
@[simp] theorem State.modTile_partition' (s : State) (t : Nat) (f : Tile → Tile) (x : Nat) : (s.modTile t f).partition x = s.partition x := rfl
@[simp] theorem State.modTile_cache' (s : State) (t : Nat) (f : Tile → Tile) (x : Nat) : (s.modTile t f).cache x = s.cache x := rfl
@[simp] theorem State.modTile_pwr' (s : State) (t : Nat) (f : Tile → Tile) (x : Nat) : (s.modTile t f).pwr x = s.pwr x := rfl
@[simp] theorem State.modTile_ring' (s : State) (t : Nat) (f : Tile → Tile) (x : Nat) : (s.modTile t f).ring x = s.ring x := rfl
@[simp] theorem State.modTile_run' (s : State) (t : Nat) (f : Tile → Tile) (x : Nat) : (s.modTile t f).run x = s.run x := rfl
@[simp] theorem State.modTile_block (s : State) (t : Nat) (f : Tile → Tile) (x y : Nat) : (s.modTile t f).block x y = s.block x y := rfl

@[simp] theorem State.modDie_core' (s : State) (d : Nat) (f : Die → Die) (x : Nat) : (s.modDie d f).core x = s.core x := rfl
@[simp] theorem State.modDie_tile' (s : State) (d : Nat) (f : Die → Die) (x : Nat) : (s.modDie d f).tile x = s.tile x := rfl
@[simp] theorem State.modDie_link' (s : State) (d : Nat) (f : Die → Die) (x : Nat) : (s.modDie d f).link x = s.link x := rfl
@[simp] theorem State.modDie_queue' (s : State) (d : Nat) (f : Die → Die) (x : Nat) : (s.modDie d f).queue x = s.queue x := rfl
@[simp] theorem State.modDie_context' (s : State) (d : Nat) (f : Die → Die) (x : Nat) : (s.modDie d f).context x = s.context x := rfl
@[simp] theorem State.modDie_partition' (s : State) (d : Nat) (f : Die → Die) (x : Nat) : (s.modDie d f).partition x = s.partition x := rfl
@[simp] theorem State.modDie_cache' (s : State) (d : Nat) (f : Die → Die) (x : Nat) : (s.modDie d f).cache x = s.cache x := rfl
@[simp] theorem State.modDie_pwr' (s : State) (d : Nat) (f : Die → Die) (x : Nat) : (s.modDie d f).pwr x = s.pwr x := rfl
@[simp] theorem State.modDie_ring' (s : State) (d : Nat) (f : Die → Die) (x : Nat) : (s.modDie d f).ring x = s.ring x := rfl
@[simp] theorem State.modDie_run' (s : State) (d : Nat) (f : Die → Die) (x : Nat) : (s.modDie d f).run x = s.run x := rfl
@[simp] theorem State.modDie_block (s : State) (d : Nat) (f : Die → Die) (x y : Nat) : (s.modDie d f).block x y = s.block x y := rfl

@[simp] theorem State.modLink_core' (s : State) (l : Nat) (f : Link → Link) (x : Nat) : (s.modLink l f).core x = s.core x := rfl
@[simp] theorem State.modLink_tile' (s : State) (l : Nat) (f : Link → Link) (x : Nat) : (s.modLink l f).tile x = s.tile x := rfl
@[simp] theorem State.modLink_die' (s : State) (l : Nat) (f : Link → Link) (x : Nat) : (s.modLink l f).die x = s.die x := rfl
@[simp] theorem State.modLink_queue' (s : State) (l : Nat) (f : Link → Link) (x : Nat) : (s.modLink l f).queue x = s.queue x := rfl
@[simp] theorem State.modLink_context' (s : State) (l : Nat) (f : Link → Link) (x : Nat) : (s.modLink l f).context x = s.context x := rfl
@[simp] theorem State.modLink_partition' (s : State) (l : Nat) (f : Link → Link) (x : Nat) : (s.modLink l f).partition x = s.partition x := rfl
@[simp] theorem State.modLink_cache' (s : State) (l : Nat) (f : Link → Link) (x : Nat) : (s.modLink l f).cache x = s.cache x := rfl
@[simp] theorem State.modLink_pwr' (s : State) (l : Nat) (f : Link → Link) (x : Nat) : (s.modLink l f).pwr x = s.pwr x := rfl
@[simp] theorem State.modLink_ring' (s : State) (l : Nat) (f : Link → Link) (x : Nat) : (s.modLink l f).ring x = s.ring x := rfl
@[simp] theorem State.modLink_run' (s : State) (l : Nat) (f : Link → Link) (x : Nat) : (s.modLink l f).run x = s.run x := rfl
@[simp] theorem State.modLink_block (s : State) (l : Nat) (f : Link → Link) (x y : Nat) : (s.modLink l f).block x y = s.block x y := rfl

@[simp] theorem State.modQueue_core' (s : State) (q : Nat) (f : Queue → Queue) (x : Nat) : (s.modQueue q f).core x = s.core x := rfl
@[simp] theorem State.modQueue_tile' (s : State) (q : Nat) (f : Queue → Queue) (x : Nat) : (s.modQueue q f).tile x = s.tile x := rfl
@[simp] theorem State.modQueue_die' (s : State) (q : Nat) (f : Queue → Queue) (x : Nat) : (s.modQueue q f).die x = s.die x := rfl
@[simp] theorem State.modQueue_link' (s : State) (q : Nat) (f : Queue → Queue) (x : Nat) : (s.modQueue q f).link x = s.link x := rfl
@[simp] theorem State.modQueue_context' (s : State) (q : Nat) (f : Queue → Queue) (x : Nat) : (s.modQueue q f).context x = s.context x := rfl
@[simp] theorem State.modQueue_partition' (s : State) (q : Nat) (f : Queue → Queue) (x : Nat) : (s.modQueue q f).partition x = s.partition x := rfl
@[simp] theorem State.modQueue_cache' (s : State) (q : Nat) (f : Queue → Queue) (x : Nat) : (s.modQueue q f).cache x = s.cache x := rfl
@[simp] theorem State.modQueue_pwr' (s : State) (q : Nat) (f : Queue → Queue) (x : Nat) : (s.modQueue q f).pwr x = s.pwr x := rfl
@[simp] theorem State.modQueue_ring' (s : State) (q : Nat) (f : Queue → Queue) (x : Nat) : (s.modQueue q f).ring x = s.ring x := rfl
@[simp] theorem State.modQueue_block (s : State) (q : Nat) (f : Queue → Queue) (x y : Nat) : (s.modQueue q f).block x y = s.block x y := rfl

@[simp] theorem State.modContext_core' (s : State) (c : Nat) (f : Context → Context) (x : Nat) : (s.modContext c f).core x = s.core x := rfl
@[simp] theorem State.modContext_tile' (s : State) (c : Nat) (f : Context → Context) (x : Nat) : (s.modContext c f).tile x = s.tile x := rfl
@[simp] theorem State.modContext_die' (s : State) (c : Nat) (f : Context → Context) (x : Nat) : (s.modContext c f).die x = s.die x := rfl
@[simp] theorem State.modContext_link' (s : State) (c : Nat) (f : Context → Context) (x : Nat) : (s.modContext c f).link x = s.link x := rfl
@[simp] theorem State.modContext_queue' (s : State) (c : Nat) (f : Context → Context) (x : Nat) : (s.modContext c f).queue x = s.queue x := rfl
@[simp] theorem State.modContext_partition' (s : State) (c : Nat) (f : Context → Context) (x : Nat) : (s.modContext c f).partition x = s.partition x := rfl
@[simp] theorem State.modContext_cache' (s : State) (c : Nat) (f : Context → Context) (x : Nat) : (s.modContext c f).cache x = s.cache x := rfl
@[simp] theorem State.modContext_pwr' (s : State) (c : Nat) (f : Context → Context) (x : Nat) : (s.modContext c f).pwr x = s.pwr x := rfl
@[simp] theorem State.modContext_ring' (s : State) (c : Nat) (f : Context → Context) (x : Nat) : (s.modContext c f).ring x = s.ring x := rfl
@[simp] theorem State.modContext_run' (s : State) (c : Nat) (f : Context → Context) (x : Nat) : (s.modContext c f).run x = s.run x := rfl
@[simp] theorem State.modContext_block (s : State) (c : Nat) (f : Context → Context) (x y : Nat) : (s.modContext c f).block x y = s.block x y := rfl

@[simp] theorem State.modPartition_core' (s : State) (p : Nat) (f : Partition → Partition) (x : Nat) : (s.modPartition p f).core x = s.core x := rfl
@[simp] theorem State.modPartition_tile' (s : State) (p : Nat) (f : Partition → Partition) (x : Nat) : (s.modPartition p f).tile x = s.tile x := rfl
@[simp] theorem State.modPartition_die' (s : State) (p : Nat) (f : Partition → Partition) (x : Nat) : (s.modPartition p f).die x = s.die x := rfl
@[simp] theorem State.modPartition_link' (s : State) (p : Nat) (f : Partition → Partition) (x : Nat) : (s.modPartition p f).link x = s.link x := rfl
@[simp] theorem State.modPartition_queue' (s : State) (p : Nat) (f : Partition → Partition) (x : Nat) : (s.modPartition p f).queue x = s.queue x := rfl
@[simp] theorem State.modPartition_context' (s : State) (p : Nat) (f : Partition → Partition) (x : Nat) : (s.modPartition p f).context x = s.context x := rfl
@[simp] theorem State.modPartition_cache' (s : State) (p : Nat) (f : Partition → Partition) (x : Nat) : (s.modPartition p f).cache x = s.cache x := rfl
@[simp] theorem State.modPartition_pwr' (s : State) (p : Nat) (f : Partition → Partition) (x : Nat) : (s.modPartition p f).pwr x = s.pwr x := rfl
@[simp] theorem State.modPartition_ring' (s : State) (p : Nat) (f : Partition → Partition) (x : Nat) : (s.modPartition p f).ring x = s.ring x := rfl
@[simp] theorem State.modPartition_run' (s : State) (p : Nat) (f : Partition → Partition) (x : Nat) : (s.modPartition p f).run x = s.run x := rfl
@[simp] theorem State.modPartition_block (s : State) (p : Nat) (f : Partition → Partition) (x y : Nat) : (s.modPartition p f).block x y = s.block x y := rfl

@[simp] theorem State.modCache_core' (s : State) (n : Nat) (f : Cache → Cache) (x : Nat) : (s.modCache n f).core x = s.core x := rfl
@[simp] theorem State.modCache_tile' (s : State) (n : Nat) (f : Cache → Cache) (x : Nat) : (s.modCache n f).tile x = s.tile x := rfl
@[simp] theorem State.modCache_die' (s : State) (n : Nat) (f : Cache → Cache) (x : Nat) : (s.modCache n f).die x = s.die x := rfl
@[simp] theorem State.modCache_link' (s : State) (n : Nat) (f : Cache → Cache) (x : Nat) : (s.modCache n f).link x = s.link x := rfl
@[simp] theorem State.modCache_queue' (s : State) (n : Nat) (f : Cache → Cache) (x : Nat) : (s.modCache n f).queue x = s.queue x := rfl
@[simp] theorem State.modCache_context' (s : State) (n : Nat) (f : Cache → Cache) (x : Nat) : (s.modCache n f).context x = s.context x := rfl
@[simp] theorem State.modCache_partition' (s : State) (n : Nat) (f : Cache → Cache) (x : Nat) : (s.modCache n f).partition x = s.partition x := rfl
@[simp] theorem State.modCache_pwr' (s : State) (n : Nat) (f : Cache → Cache) (x : Nat) : (s.modCache n f).pwr x = s.pwr x := rfl
@[simp] theorem State.modCache_ring' (s : State) (n : Nat) (f : Cache → Cache) (x : Nat) : (s.modCache n f).ring x = s.ring x := rfl
@[simp] theorem State.modCache_run' (s : State) (n : Nat) (f : Cache → Cache) (x : Nat) : (s.modCache n f).run x = s.run x := rfl
@[simp] theorem State.modCache_block (s : State) (n : Nat) (f : Cache → Cache) (x y : Nat) : (s.modCache n f).block x y = s.block x y := rfl

@[simp] theorem State.modPower_core' (s : State) (f : Power → Power) (x : Nat) : (s.modPower f).core x = s.core x := rfl
@[simp] theorem State.modPower_tile' (s : State) (f : Power → Power) (x : Nat) : (s.modPower f).tile x = s.tile x := rfl
@[simp] theorem State.modPower_die' (s : State) (f : Power → Power) (x : Nat) : (s.modPower f).die x = s.die x := rfl
@[simp] theorem State.modPower_link' (s : State) (f : Power → Power) (x : Nat) : (s.modPower f).link x = s.link x := rfl
@[simp] theorem State.modPower_queue' (s : State) (f : Power → Power) (x : Nat) : (s.modPower f).queue x = s.queue x := rfl
@[simp] theorem State.modPower_context' (s : State) (f : Power → Power) (x : Nat) : (s.modPower f).context x = s.context x := rfl
@[simp] theorem State.modPower_partition' (s : State) (f : Power → Power) (x : Nat) : (s.modPower f).partition x = s.partition x := rfl
@[simp] theorem State.modPower_cache' (s : State) (f : Power → Power) (x : Nat) : (s.modPower f).cache x = s.cache x := rfl
@[simp] theorem State.modPower_ring' (s : State) (f : Power → Power) (x : Nat) : (s.modPower f).ring x = s.ring x := rfl
@[simp] theorem State.modPower_run' (s : State) (f : Power → Power) (x : Nat) : (s.modPower f).run x = s.run x := rfl
@[simp] theorem State.modPower_block (s : State) (f : Power → Power) (x y : Nat) : (s.modPower f).block x y = s.block x y := rfl

@[simp] theorem State.modPwr_core' (s : State) (d : Nat) (f : PwrDie → PwrDie) (x : Nat) : (s.modPwr d f).core x = s.core x := rfl
@[simp] theorem State.modPwr_tile' (s : State) (d : Nat) (f : PwrDie → PwrDie) (x : Nat) : (s.modPwr d f).tile x = s.tile x := rfl
@[simp] theorem State.modPwr_die' (s : State) (d : Nat) (f : PwrDie → PwrDie) (x : Nat) : (s.modPwr d f).die x = s.die x := rfl
@[simp] theorem State.modPwr_link' (s : State) (d : Nat) (f : PwrDie → PwrDie) (x : Nat) : (s.modPwr d f).link x = s.link x := rfl
@[simp] theorem State.modPwr_queue' (s : State) (d : Nat) (f : PwrDie → PwrDie) (x : Nat) : (s.modPwr d f).queue x = s.queue x := rfl
@[simp] theorem State.modPwr_context' (s : State) (d : Nat) (f : PwrDie → PwrDie) (x : Nat) : (s.modPwr d f).context x = s.context x := rfl
@[simp] theorem State.modPwr_partition' (s : State) (d : Nat) (f : PwrDie → PwrDie) (x : Nat) : (s.modPwr d f).partition x = s.partition x := rfl
@[simp] theorem State.modPwr_cache' (s : State) (d : Nat) (f : PwrDie → PwrDie) (x : Nat) : (s.modPwr d f).cache x = s.cache x := rfl
@[simp] theorem State.modPwr_ring' (s : State) (d : Nat) (f : PwrDie → PwrDie) (x : Nat) : (s.modPwr d f).ring x = s.ring x := rfl
@[simp] theorem State.modPwr_run' (s : State) (d : Nat) (f : PwrDie → PwrDie) (x : Nat) : (s.modPwr d f).run x = s.run x := rfl
@[simp] theorem State.modPwr_block (s : State) (d : Nat) (f : PwrDie → PwrDie) (x y : Nat) : (s.modPwr d f).block x y = s.block x y := rfl

@[simp] theorem State.modHost_core' (s : State) (f : HostFn → HostFn) (x : Nat) : (s.modHost f).core x = s.core x := rfl
@[simp] theorem State.modHost_tile' (s : State) (f : HostFn → HostFn) (x : Nat) : (s.modHost f).tile x = s.tile x := rfl
@[simp] theorem State.modHost_die' (s : State) (f : HostFn → HostFn) (x : Nat) : (s.modHost f).die x = s.die x := rfl
@[simp] theorem State.modHost_link' (s : State) (f : HostFn → HostFn) (x : Nat) : (s.modHost f).link x = s.link x := rfl
@[simp] theorem State.modHost_queue' (s : State) (f : HostFn → HostFn) (x : Nat) : (s.modHost f).queue x = s.queue x := rfl
@[simp] theorem State.modHost_context' (s : State) (f : HostFn → HostFn) (x : Nat) : (s.modHost f).context x = s.context x := rfl
@[simp] theorem State.modHost_partition' (s : State) (f : HostFn → HostFn) (x : Nat) : (s.modHost f).partition x = s.partition x := rfl
@[simp] theorem State.modHost_cache' (s : State) (f : HostFn → HostFn) (x : Nat) : (s.modHost f).cache x = s.cache x := rfl
@[simp] theorem State.modHost_pwr' (s : State) (f : HostFn → HostFn) (x : Nat) : (s.modHost f).pwr x = s.pwr x := rfl
@[simp] theorem State.modHost_run' (s : State) (f : HostFn → HostFn) (x : Nat) : (s.modHost f).run x = s.run x := rfl
@[simp] theorem State.modHost_block (s : State) (f : HostFn → HostFn) (x y : Nat) : (s.modHost f).block x y = s.block x y := rfl

@[simp] theorem State.modRing_core' (s : State) (r : Nat) (f : HostRing → HostRing) (x : Nat) : (s.modRing r f).core x = s.core x := rfl
@[simp] theorem State.modRing_tile' (s : State) (r : Nat) (f : HostRing → HostRing) (x : Nat) : (s.modRing r f).tile x = s.tile x := rfl
@[simp] theorem State.modRing_die' (s : State) (r : Nat) (f : HostRing → HostRing) (x : Nat) : (s.modRing r f).die x = s.die x := rfl
@[simp] theorem State.modRing_link' (s : State) (r : Nat) (f : HostRing → HostRing) (x : Nat) : (s.modRing r f).link x = s.link x := rfl
@[simp] theorem State.modRing_queue' (s : State) (r : Nat) (f : HostRing → HostRing) (x : Nat) : (s.modRing r f).queue x = s.queue x := rfl
@[simp] theorem State.modRing_context' (s : State) (r : Nat) (f : HostRing → HostRing) (x : Nat) : (s.modRing r f).context x = s.context x := rfl
@[simp] theorem State.modRing_partition' (s : State) (r : Nat) (f : HostRing → HostRing) (x : Nat) : (s.modRing r f).partition x = s.partition x := rfl
@[simp] theorem State.modRing_cache' (s : State) (r : Nat) (f : HostRing → HostRing) (x : Nat) : (s.modRing r f).cache x = s.cache x := rfl
@[simp] theorem State.modRing_pwr' (s : State) (r : Nat) (f : HostRing → HostRing) (x : Nat) : (s.modRing r f).pwr x = s.pwr x := rfl
@[simp] theorem State.modRing_run' (s : State) (r : Nat) (f : HostRing → HostRing) (x : Nat) : (s.modRing r f).run x = s.run x := rfl
@[simp] theorem State.modRing_block (s : State) (r : Nat) (f : HostRing → HostRing) (x y : Nat) : (s.modRing r f).block x y = s.block x y := rfl

@[simp] theorem State.modHub_core' (s : State) (f : Hub → Hub) (x : Nat) : (s.modHub f).core x = s.core x := rfl
@[simp] theorem State.modHub_tile' (s : State) (f : Hub → Hub) (x : Nat) : (s.modHub f).tile x = s.tile x := rfl
@[simp] theorem State.modHub_die' (s : State) (f : Hub → Hub) (x : Nat) : (s.modHub f).die x = s.die x := rfl
@[simp] theorem State.modHub_link' (s : State) (f : Hub → Hub) (x : Nat) : (s.modHub f).link x = s.link x := rfl
@[simp] theorem State.modHub_queue' (s : State) (f : Hub → Hub) (x : Nat) : (s.modHub f).queue x = s.queue x := rfl
@[simp] theorem State.modHub_context' (s : State) (f : Hub → Hub) (x : Nat) : (s.modHub f).context x = s.context x := rfl
@[simp] theorem State.modHub_partition' (s : State) (f : Hub → Hub) (x : Nat) : (s.modHub f).partition x = s.partition x := rfl
@[simp] theorem State.modHub_cache' (s : State) (f : Hub → Hub) (x : Nat) : (s.modHub f).cache x = s.cache x := rfl
@[simp] theorem State.modHub_pwr' (s : State) (f : Hub → Hub) (x : Nat) : (s.modHub f).pwr x = s.pwr x := rfl
@[simp] theorem State.modHub_ring' (s : State) (f : Hub → Hub) (x : Nat) : (s.modHub f).ring x = s.ring x := rfl
@[simp] theorem State.modHub_run' (s : State) (f : Hub → Hub) (x : Nat) : (s.modHub f).run x = s.run x := rfl
@[simp] theorem State.modHub_block (s : State) (f : Hub → Hub) (x y : Nat) : (s.modHub f).block x y = s.block x y := rfl

@[simp] theorem State.modBoot_core' (s : State) (f : Boot → Boot) (x : Nat) : (s.modBoot f).core x = s.core x := rfl
@[simp] theorem State.modBoot_tile' (s : State) (f : Boot → Boot) (x : Nat) : (s.modBoot f).tile x = s.tile x := rfl
@[simp] theorem State.modBoot_die' (s : State) (f : Boot → Boot) (x : Nat) : (s.modBoot f).die x = s.die x := rfl
@[simp] theorem State.modBoot_link' (s : State) (f : Boot → Boot) (x : Nat) : (s.modBoot f).link x = s.link x := rfl
@[simp] theorem State.modBoot_queue' (s : State) (f : Boot → Boot) (x : Nat) : (s.modBoot f).queue x = s.queue x := rfl
@[simp] theorem State.modBoot_context' (s : State) (f : Boot → Boot) (x : Nat) : (s.modBoot f).context x = s.context x := rfl
@[simp] theorem State.modBoot_partition' (s : State) (f : Boot → Boot) (x : Nat) : (s.modBoot f).partition x = s.partition x := rfl
@[simp] theorem State.modBoot_cache' (s : State) (f : Boot → Boot) (x : Nat) : (s.modBoot f).cache x = s.cache x := rfl
@[simp] theorem State.modBoot_pwr' (s : State) (f : Boot → Boot) (x : Nat) : (s.modBoot f).pwr x = s.pwr x := rfl
@[simp] theorem State.modBoot_ring' (s : State) (f : Boot → Boot) (x : Nat) : (s.modBoot f).ring x = s.ring x := rfl
@[simp] theorem State.modBoot_run' (s : State) (f : Boot → Boot) (x : Nat) : (s.modBoot f).run x = s.run x := rfl
@[simp] theorem State.modBoot_block (s : State) (f : Boot → Boot) (x y : Nat) : (s.modBoot f).block x y = s.block x y := rfl

@[simp] theorem State.modVelvet_core' (s : State) (f : Velvet → Velvet) (x : Nat) : (s.modVelvet f).core x = s.core x := rfl
@[simp] theorem State.modVelvet_tile' (s : State) (f : Velvet → Velvet) (x : Nat) : (s.modVelvet f).tile x = s.tile x := rfl
@[simp] theorem State.modVelvet_die' (s : State) (f : Velvet → Velvet) (x : Nat) : (s.modVelvet f).die x = s.die x := rfl
@[simp] theorem State.modVelvet_link' (s : State) (f : Velvet → Velvet) (x : Nat) : (s.modVelvet f).link x = s.link x := rfl
@[simp] theorem State.modVelvet_queue' (s : State) (f : Velvet → Velvet) (x : Nat) : (s.modVelvet f).queue x = s.queue x := rfl
@[simp] theorem State.modVelvet_context' (s : State) (f : Velvet → Velvet) (x : Nat) : (s.modVelvet f).context x = s.context x := rfl
@[simp] theorem State.modVelvet_partition' (s : State) (f : Velvet → Velvet) (x : Nat) : (s.modVelvet f).partition x = s.partition x := rfl
@[simp] theorem State.modVelvet_cache' (s : State) (f : Velvet → Velvet) (x : Nat) : (s.modVelvet f).cache x = s.cache x := rfl
@[simp] theorem State.modVelvet_pwr' (s : State) (f : Velvet → Velvet) (x : Nat) : (s.modVelvet f).pwr x = s.pwr x := rfl
@[simp] theorem State.modVelvet_ring' (s : State) (f : Velvet → Velvet) (x : Nat) : (s.modVelvet f).ring x = s.ring x := rfl
@[simp] theorem State.modVelvet_run' (s : State) (f : Velvet → Velvet) (x : Nat) : (s.modVelvet f).run x = s.run x := rfl
@[simp] theorem State.modVelvet_block (s : State) (f : Velvet → Velvet) (x y : Nat) : (s.modVelvet f).block x y = s.block x y := rfl

@[simp] theorem State.modFlash_core' (s : State) (f : Flash → Flash) (x : Nat) : (s.modFlash f).core x = s.core x := rfl
@[simp] theorem State.modFlash_tile' (s : State) (f : Flash → Flash) (x : Nat) : (s.modFlash f).tile x = s.tile x := rfl
@[simp] theorem State.modFlash_die' (s : State) (f : Flash → Flash) (x : Nat) : (s.modFlash f).die x = s.die x := rfl
@[simp] theorem State.modFlash_link' (s : State) (f : Flash → Flash) (x : Nat) : (s.modFlash f).link x = s.link x := rfl
@[simp] theorem State.modFlash_queue' (s : State) (f : Flash → Flash) (x : Nat) : (s.modFlash f).queue x = s.queue x := rfl
@[simp] theorem State.modFlash_context' (s : State) (f : Flash → Flash) (x : Nat) : (s.modFlash f).context x = s.context x := rfl
@[simp] theorem State.modFlash_partition' (s : State) (f : Flash → Flash) (x : Nat) : (s.modFlash f).partition x = s.partition x := rfl
@[simp] theorem State.modFlash_cache' (s : State) (f : Flash → Flash) (x : Nat) : (s.modFlash f).cache x = s.cache x := rfl
@[simp] theorem State.modFlash_pwr' (s : State) (f : Flash → Flash) (x : Nat) : (s.modFlash f).pwr x = s.pwr x := rfl
@[simp] theorem State.modFlash_ring' (s : State) (f : Flash → Flash) (x : Nat) : (s.modFlash f).ring x = s.ring x := rfl
@[simp] theorem State.modFlash_run' (s : State) (f : Flash → Flash) (x : Nat) : (s.modFlash f).run x = s.run x := rfl
@[simp] theorem State.modFlash_block (s : State) (f : Flash → Flash) (x y : Nat) : (s.modFlash f).block x y = s.block x y := rfl

@[simp] theorem State.modBlock_tile' (s : State) (c b : Nat) (f : Block → Block) (x : Nat) : (s.modBlock c b f).tile x = s.tile x := rfl
@[simp] theorem State.modBlock_die' (s : State) (c b : Nat) (f : Block → Block) (x : Nat) : (s.modBlock c b f).die x = s.die x := rfl
@[simp] theorem State.modBlock_link' (s : State) (c b : Nat) (f : Block → Block) (x : Nat) : (s.modBlock c b f).link x = s.link x := rfl
@[simp] theorem State.modBlock_queue' (s : State) (c b : Nat) (f : Block → Block) (x : Nat) : (s.modBlock c b f).queue x = s.queue x := rfl
@[simp] theorem State.modBlock_context' (s : State) (c b : Nat) (f : Block → Block) (x : Nat) : (s.modBlock c b f).context x = s.context x := rfl
@[simp] theorem State.modBlock_partition' (s : State) (c b : Nat) (f : Block → Block) (x : Nat) : (s.modBlock c b f).partition x = s.partition x := rfl
@[simp] theorem State.modBlock_cache' (s : State) (c b : Nat) (f : Block → Block) (x : Nat) : (s.modBlock c b f).cache x = s.cache x := rfl
@[simp] theorem State.modBlock_pwr' (s : State) (c b : Nat) (f : Block → Block) (x : Nat) : (s.modBlock c b f).pwr x = s.pwr x := rfl
@[simp] theorem State.modBlock_ring' (s : State) (c b : Nat) (f : Block → Block) (x : Nat) : (s.modBlock c b f).ring x = s.ring x := rfl
@[simp] theorem State.modBlock_run' (s : State) (c b : Nat) (f : Block → Block) (x : Nat) : (s.modBlock c b f).run x = s.run x := rfl

@[simp] theorem State.modGroup_tile' (s : State) (c b g : Nat) (f : Group → Group) (x : Nat) : (s.modGroup c b g f).tile x = s.tile x := rfl
@[simp] theorem State.modGroup_die' (s : State) (c b g : Nat) (f : Group → Group) (x : Nat) : (s.modGroup c b g f).die x = s.die x := rfl
@[simp] theorem State.modGroup_link' (s : State) (c b g : Nat) (f : Group → Group) (x : Nat) : (s.modGroup c b g f).link x = s.link x := rfl
@[simp] theorem State.modGroup_queue' (s : State) (c b g : Nat) (f : Group → Group) (x : Nat) : (s.modGroup c b g f).queue x = s.queue x := rfl
@[simp] theorem State.modGroup_context' (s : State) (c b g : Nat) (f : Group → Group) (x : Nat) : (s.modGroup c b g f).context x = s.context x := rfl
@[simp] theorem State.modGroup_partition' (s : State) (c b g : Nat) (f : Group → Group) (x : Nat) : (s.modGroup c b g f).partition x = s.partition x := rfl
@[simp] theorem State.modGroup_cache' (s : State) (c b g : Nat) (f : Group → Group) (x : Nat) : (s.modGroup c b g f).cache x = s.cache x := rfl
@[simp] theorem State.modGroup_pwr' (s : State) (c b g : Nat) (f : Group → Group) (x : Nat) : (s.modGroup c b g f).pwr x = s.pwr x := rfl
@[simp] theorem State.modGroup_ring' (s : State) (c b g : Nat) (f : Group → Group) (x : Nat) : (s.modGroup c b g f).ring x = s.ring x := rfl
@[simp] theorem State.modGroup_run' (s : State) (c b g : Nat) (f : Group → Group) (x : Nat) : (s.modGroup c b g f).run x = s.run x := rfl

@[simp] theorem State.modSlice_core' (s : State) (t j : Nat) (f : Slice → Slice) (x : Nat) : (s.modSlice t j f).core x = s.core x := rfl
@[simp] theorem State.modSlice_die' (s : State) (t j : Nat) (f : Slice → Slice) (x : Nat) : (s.modSlice t j f).die x = s.die x := rfl
@[simp] theorem State.modSlice_link' (s : State) (t j : Nat) (f : Slice → Slice) (x : Nat) : (s.modSlice t j f).link x = s.link x := rfl
@[simp] theorem State.modSlice_queue' (s : State) (t j : Nat) (f : Slice → Slice) (x : Nat) : (s.modSlice t j f).queue x = s.queue x := rfl
@[simp] theorem State.modSlice_context' (s : State) (t j : Nat) (f : Slice → Slice) (x : Nat) : (s.modSlice t j f).context x = s.context x := rfl
@[simp] theorem State.modSlice_partition' (s : State) (t j : Nat) (f : Slice → Slice) (x : Nat) : (s.modSlice t j f).partition x = s.partition x := rfl
@[simp] theorem State.modSlice_cache' (s : State) (t j : Nat) (f : Slice → Slice) (x : Nat) : (s.modSlice t j f).cache x = s.cache x := rfl
@[simp] theorem State.modSlice_pwr' (s : State) (t j : Nat) (f : Slice → Slice) (x : Nat) : (s.modSlice t j f).pwr x = s.pwr x := rfl
@[simp] theorem State.modSlice_ring' (s : State) (t j : Nat) (f : Slice → Slice) (x : Nat) : (s.modSlice t j f).ring x = s.ring x := rfl
@[simp] theorem State.modSlice_run' (s : State) (t j : Nat) (f : Slice → Slice) (x : Nat) : (s.modSlice t j f).run x = s.run x := rfl
@[simp] theorem State.modSlice_block (s : State) (t j : Nat) (f : Slice → Slice) (x y : Nat) : (s.modSlice t j f).block x y = s.block x y := rfl

@[simp] theorem State.modRun_core' (s : State) (q : Nat) (f : Run → Run) (x : Nat) : (s.modRun q f).core x = s.core x := rfl
@[simp] theorem State.modRun_tile' (s : State) (q : Nat) (f : Run → Run) (x : Nat) : (s.modRun q f).tile x = s.tile x := rfl
@[simp] theorem State.modRun_die' (s : State) (q : Nat) (f : Run → Run) (x : Nat) : (s.modRun q f).die x = s.die x := rfl
@[simp] theorem State.modRun_link' (s : State) (q : Nat) (f : Run → Run) (x : Nat) : (s.modRun q f).link x = s.link x := rfl
@[simp] theorem State.modRun_context' (s : State) (q : Nat) (f : Run → Run) (x : Nat) : (s.modRun q f).context x = s.context x := rfl
@[simp] theorem State.modRun_partition' (s : State) (q : Nat) (f : Run → Run) (x : Nat) : (s.modRun q f).partition x = s.partition x := rfl
@[simp] theorem State.modRun_cache' (s : State) (q : Nat) (f : Run → Run) (x : Nat) : (s.modRun q f).cache x = s.cache x := rfl
@[simp] theorem State.modRun_pwr' (s : State) (q : Nat) (f : Run → Run) (x : Nat) : (s.modRun q f).pwr x = s.pwr x := rfl
@[simp] theorem State.modRun_ring' (s : State) (q : Nat) (f : Run → Run) (x : Nat) : (s.modRun q f).ring x = s.ring x := rfl
@[simp] theorem State.modRun_block (s : State) (q : Nat) (f : Run → Run) (x y : Nat) : (s.modRun q f).block x y = s.block x y := rfl

@[simp] theorem State.modCore_core_same (s : State) (k : Nat) (f : Core → Core) : (s.modCore k f).core k = f (s.core k) := kget_kmod_same _ _ _ _
theorem State.modCore_core_ne (s : State) (k x : Nat) (f : Core → Core) (h : x ≠ k) : (s.modCore k f).core x = s.core x := kget_kmod_ne _ _ _ _ _ h
@[simp] theorem State.modTile_tile_same (s : State) (k : Nat) (f : Tile → Tile) : (s.modTile k f).tile k = f (s.tile k) := kget_kmod_same _ _ _ _
theorem State.modTile_tile_ne (s : State) (k x : Nat) (f : Tile → Tile) (h : x ≠ k) : (s.modTile k f).tile x = s.tile x := kget_kmod_ne _ _ _ _ _ h
@[simp] theorem State.modDie_die_same (s : State) (k : Nat) (f : Die → Die) : (s.modDie k f).die k = f (s.die k) := kget_kmod_same _ _ _ _
theorem State.modDie_die_ne (s : State) (k x : Nat) (f : Die → Die) (h : x ≠ k) : (s.modDie k f).die x = s.die x := kget_kmod_ne _ _ _ _ _ h
@[simp] theorem State.modLink_link_same (s : State) (k : Nat) (f : Link → Link) : (s.modLink k f).link k = f (s.link k) := kget_kmod_same _ _ _ _
theorem State.modLink_link_ne (s : State) (k x : Nat) (f : Link → Link) (h : x ≠ k) : (s.modLink k f).link x = s.link x := kget_kmod_ne _ _ _ _ _ h
@[simp] theorem State.modQueue_queue_same (s : State) (k : Nat) (f : Queue → Queue) : (s.modQueue k f).queue k = f (s.queue k) := kget_kmod_same _ _ _ _
theorem State.modQueue_queue_ne (s : State) (k x : Nat) (f : Queue → Queue) (h : x ≠ k) : (s.modQueue k f).queue x = s.queue x := kget_kmod_ne _ _ _ _ _ h
@[simp] theorem State.modContext_context_same (s : State) (k : Nat) (f : Context → Context) : (s.modContext k f).context k = f (s.context k) := kget_kmod_same _ _ _ _
theorem State.modContext_context_ne (s : State) (k x : Nat) (f : Context → Context) (h : x ≠ k) : (s.modContext k f).context x = s.context x := kget_kmod_ne _ _ _ _ _ h
@[simp] theorem State.modPartition_partition_same (s : State) (k : Nat) (f : Partition → Partition) : (s.modPartition k f).partition k = f (s.partition k) := kget_kmod_same _ _ _ _
theorem State.modPartition_partition_ne (s : State) (k x : Nat) (f : Partition → Partition) (h : x ≠ k) : (s.modPartition k f).partition x = s.partition x := kget_kmod_ne _ _ _ _ _ h
@[simp] theorem State.modCache_cache_same (s : State) (k : Nat) (f : Cache → Cache) : (s.modCache k f).cache k = f (s.cache k) := kget_kmod_same _ _ _ _
theorem State.modCache_cache_ne (s : State) (k x : Nat) (f : Cache → Cache) (h : x ≠ k) : (s.modCache k f).cache x = s.cache x := kget_kmod_ne _ _ _ _ _ h
@[simp] theorem State.modPwr_pwr_same (s : State) (k : Nat) (f : PwrDie → PwrDie) : (s.modPwr k f).pwr k = f (s.pwr k) := kget_kmod_same _ _ _ _
theorem State.modPwr_pwr_ne (s : State) (k x : Nat) (f : PwrDie → PwrDie) (h : x ≠ k) : (s.modPwr k f).pwr x = s.pwr x := kget_kmod_ne _ _ _ _ _ h
@[simp] theorem State.modRing_ring_same (s : State) (k : Nat) (f : HostRing → HostRing) : (s.modRing k f).ring k = f (s.ring k) := kget_kmod_same _ _ _ _
theorem State.modRing_ring_ne (s : State) (k x : Nat) (f : HostRing → HostRing) (h : x ≠ k) : (s.modRing k f).ring x = s.ring x := kget_kmod_ne _ _ _ _ _ h

@[simp] theorem Core.modBlock_same (c : Core) (b : Nat) (f : Block → Block) : kget {} (c.modBlock b f).blocks b = f (kget {} c.blocks b) := kget_kmod_same _ _ _ _
theorem Core.modBlock_ne (c : Core) (b x : Nat) (f : Block → Block) (h : x ≠ b) : kget {} (c.modBlock b f).blocks x = kget {} c.blocks x := kget_kmod_ne _ _ _ _ _ h
@[simp] theorem Core.modBlock_lmem (c : Core) (b : Nat) (f : Block → Block) : (c.modBlock b f).lmem = c.lmem := rfl
@[simp] theorem Block.modGroup_same (b : Block) (g : Nat) (f : Group → Group) : (b.modGroup g f).group g = f (b.group g) := kget_kmod_same _ _ _ _
theorem Block.modGroup_ne (b : Block) (g x : Nat) (f : Group → Group) (h : x ≠ g) : (b.modGroup g f).group x = b.group x := kget_kmod_ne _ _ _ _ _ h

@[simp] theorem State.modBlock_same (s : State) (c b : Nat) (f : Block → Block) : (s.modBlock c b f).block c b = f (s.block c b) := by
  unfold State.block State.modBlock
  rw [State.modCore_core_same]
  exact Core.modBlock_same _ _ _
theorem State.modBlock_core_ne (s : State) (c b x : Nat) (f : Block → Block) (h : x ≠ c) : (s.modBlock c b f).core x = s.core x :=
  State.modCore_core_ne s c x _ h
theorem State.modBlock_block_ne (s : State) (c b y : Nat) (f : Block → Block) (h : y ≠ b) : (s.modBlock c b f).block c y = s.block c y := by
  unfold State.block State.modBlock
  rw [State.modCore_core_same]
  exact Core.modBlock_ne _ _ _ _ h
@[simp] theorem State.modGroup_same (s : State) (c b g : Nat) (f : Group → Group) : ((s.modGroup c b g f).block c b).group g = f ((s.block c b).group g) := by
  simp [State.modGroup]
theorem State.modGroup_group_ne (s : State) (c b g x : Nat) (f : Group → Group) (h : x ≠ g) :
    ((s.modGroup c b g f).block c b).group x = (s.block c b).group x := by
  simp [State.modGroup, Block.modGroup_ne _ _ _ _ h]
theorem State.modGroup_core_ne (s : State) (c b g x : Nat) (f : Group → Group) (h : x ≠ c) : (s.modGroup c b g f).core x = s.core x :=
  State.modCore_core_ne s c x _ h
theorem State.modGroup_block_ne (s : State) (c b g y : Nat) (f : Group → Group) (h : y ≠ b) : (s.modGroup c b g f).block c y = s.block c y :=
  State.modBlock_block_ne s c b y _ h
@[simp] theorem State.modRun_run_same (s : State) (q : Nat) (f : Run → Run) : (s.modRun q f).run q = (s.run q).map f := by
  simp [State.run, State.modRun]
theorem State.modRun_run_ne (s : State) (q x : Nat) (f : Run → Run) (h : x ≠ q) : (s.modRun q f).run x = s.run x := by
  simp [State.run, State.modRun, State.modQueue_queue_ne _ _ _ _ h]

end Sys2Proof.Machine
end

