-- ==== Sys2Proof/Laws/Memory.lean ====
section
/-! SUPPORT. Memory: what a read after a write gives, and that every operation on cells keeps the canonical form (log 3). -/

namespace Sys2Proof.Machine

theorem cellsAbove_mono (b c : Nat) (m : List Host.Cell) (hbc : b ≤ c) (h : cellsAbove c m = true) : cellsAbove b m = true := by
  cases m with
  | nil => rfl
  | cons p m =>
    obtain ⟨a, v⟩ := p
    simp only [cellsAbove, Bool.and_eq_true, decide_eq_true_eq] at h ⊢
    exact ⟨⟨by omega, h.1.2⟩, h.2⟩

/-- A list that stands above an address is in canonical form. -/
theorem Memory.wf_of_above {b : Nat} {m : List Host.Cell} (h : cellsAbove b m = true) : Memory.wf m = true := by
  cases m with
  | nil => rfl
  | cons p m =>
    obtain ⟨a, v⟩ := p
    simp only [cellsAbove, Bool.and_eq_true, decide_eq_true_eq] at h
    simp only [Memory.wf, Bool.and_eq_true, decide_eq_true_eq]
    exact ⟨h.1.2, h.2⟩

theorem cellGet_of_above (b a : Nat) (m : List Host.Cell) (h : cellsAbove b m = true) (hab : a ≤ b) : cellGet m a = 0 := by
  induction m generalizing b with
  | nil => rfl
  | cons p m ih =>
    obtain ⟨c, v⟩ := p
    simp only [cellsAbove, Bool.and_eq_true, decide_eq_true_eq] at h
    have hne : a ≠ c := by omega
    simp only [cellGet, hne, if_false]
    exact ih c h.2 (by omega)

theorem cellsAbove_cellSet (b : Nat) (m : List Host.Cell) (a : Nat) (v : Byte) (hb : b < a) (h : cellsAbove b m = true) :
    cellsAbove b (cellSet m a v) = true := by
  induction m generalizing b with
  | nil =>
    simp only [cellSet]
    split <;> simp_all [cellsAbove]
  | cons p m ih =>
    obtain ⟨c, w⟩ := p
    simp only [cellsAbove, Bool.and_eq_true, decide_eq_true_eq] at h
    simp only [cellSet]
    split
    · split
      · simp_all [cellsAbove]
      · simp_all [cellsAbove]
    · split
      · rename_i h1 h2
        subst h2
        split
        · exact cellsAbove_mono b a m (by omega) h.2
        · simp_all [cellsAbove]
      · simp only [cellsAbove, Bool.and_eq_true, decide_eq_true_eq]
        exact ⟨h.1, ih c (by omega) h.2⟩

/-- Writing a byte keeps the canonical form. -/
theorem Memory.wf_cellSet (m : List Host.Cell) (a : Nat) (v : Byte) (h : Memory.wf m = true) : Memory.wf (cellSet m a v) = true := by
  cases m with
  | nil =>
    simp only [cellSet]
    split <;> simp_all [Memory.wf, cellsAbove]
  | cons p m =>
    obtain ⟨c, w⟩ := p
    simp only [Memory.wf, Bool.and_eq_true, decide_eq_true_eq] at h
    simp only [cellSet]
    split
    · split
      · simp_all [Memory.wf]
      · simp_all [Memory.wf, cellsAbove]
    · split
      · rename_i h1 h2
        subst h2
        split
        · exact Memory.wf_of_above h.2
        · simp_all [Memory.wf]
      · simp only [Memory.wf, Bool.and_eq_true, decide_eq_true_eq]
        exact ⟨h.1, cellsAbove_cellSet c m a v (by omega) h.2⟩

/-- Writing bytes keeps the canonical form. -/
theorem Memory.wf_cellsWrite (m : List Host.Cell) (a : Nat) (bs : List Byte) (h : Memory.wf m = true) : Memory.wf (cellsWrite m a bs) = true := by
  induction bs generalizing m a with
  | nil => exact h
  | cons b bs ih => exact ih _ _ (Memory.wf_cellSet m a b h)

theorem cellsAbove_filter (b : Nat) (m : List Host.Cell) (p : Host.Cell → Bool) (h : cellsAbove b m = true) : cellsAbove b (m.filter p) = true := by
  induction m generalizing b with
  | nil => rfl
  | cons q m ih =>
    obtain ⟨c, w⟩ := q
    simp only [cellsAbove, Bool.and_eq_true, decide_eq_true_eq] at h
    simp only [List.filter_cons]
    split
    · simp only [cellsAbove, Bool.and_eq_true, decide_eq_true_eq]
      exact ⟨h.1, ih c h.2⟩
    · exact ih b (cellsAbove_mono b c m (by omega) h.2)

/-- Dropping cells keeps the canonical form. -/
theorem Memory.wf_filter (m : List Host.Cell) (p : Host.Cell → Bool) (h : Memory.wf m = true) : Memory.wf (m.filter p) = true := by
  cases m with
  | nil => rfl
  | cons q m =>
    obtain ⟨c, w⟩ := q
    simp only [Memory.wf, Bool.and_eq_true, decide_eq_true_eq] at h
    simp only [List.filter_cons]
    split
    · simp only [Memory.wf, Bool.and_eq_true, decide_eq_true_eq]
      exact ⟨h.1, cellsAbove_filter c m p h.2⟩
    · exact Memory.wf_of_above (cellsAbove_filter c m p h.2)

@[simp] theorem Memory.wf_nil : Memory.wf [] = true := rfl

/-- The byte written is read. -/
theorem cellGet_cellSet_same (m : List Host.Cell) (a : Nat) (v : Byte) (h : Memory.wf m = true) : cellGet (cellSet m a v) a = v := by
  induction m with
  | nil =>
    simp only [cellSet]
    split <;> simp_all [cellGet]
  | cons p m ih =>
    obtain ⟨c, w⟩ := p
    simp only [Memory.wf, Bool.and_eq_true, decide_eq_true_eq] at h
    simp only [cellSet]
    split
    · split
      · rename_i h1 h2
        have hne : a ≠ c := by omega
        simp only [cellGet, hne, if_false, h2]
        exact cellGet_of_above c a m h.2 (by omega)
      · simp [cellGet]
    · split
      · rename_i h1 h2
        split
        · rename_i h3
          rw [h3]
          exact cellGet_of_above c a m h.2 (by omega)
        · simp [cellGet]
      · rename_i h1 h2
        simp only [cellGet, h2, if_false]
        exact ih (Memory.wf_of_above h.2)

/-- The other bytes stay. -/
theorem cellGet_cellSet_ne (m : List Host.Cell) (a x : Nat) (v : Byte) (hx : x ≠ a) : cellGet (cellSet m a v) x = cellGet m x := by
  induction m with
  | nil =>
    simp only [cellSet]
    split <;> simp_all [cellGet]
  | cons p m ih =>
    obtain ⟨c, w⟩ := p
    simp only [cellSet]
    split
    · split <;> simp [cellGet, hx]
    · split
      · rename_i h1 h2
        subst h2
        split <;> simp [cellGet, hx]
      · by_cases hc : x = c
        · simp [cellGet, hc]
        · simp [cellGet, hc, ih]

/-- Writing bytes leaves every byte outside their range. -/
theorem cellGet_cellsWrite_ne (m : List Host.Cell) (a x : Nat) (bs : List Byte) (hx : x < a ∨ a + bs.length ≤ x) :
    cellGet (cellsWrite m a bs) x = cellGet m x := by
  induction bs generalizing m a with
  | nil => rfl
  | cons b bs ih =>
    simp only [List.length_cons] at hx
    show cellGet (cellsWrite (cellSet m a b) (a + 1) bs) x = cellGet m x
    rw [ih _ _ (by omega), cellGet_cellSet_ne _ _ _ _ (by omega)]

/-- The bytes written are read. -/
theorem cellGet_cellsWrite_same (m : List Host.Cell) (a i : Nat) (bs : List Byte) (h : Memory.wf m = true) (hi : i < bs.length) :
    cellGet (cellsWrite m a bs) (a + i) = bs[i] := by
  induction bs generalizing m a i with
  | nil => simp at hi
  | cons b bs ih =>
    show cellGet (cellsWrite (cellSet m a b) (a + 1) bs) (a + i) = _
    cases i with
    | zero =>
      rw [cellGet_cellsWrite_ne _ _ _ _ (by omega)]
      exact cellGet_cellSet_same m a b h
    | succ i =>
      have e := ih (cellSet m a b) (a + 1) i (Memory.wf_cellSet m a b h) (by simpa using hi)
      rw [show a + (i + 1) = a + 1 + i from by omega, e]
      rfl

/-- Cells that a test keeps are read as before. -/
theorem cellGet_filter (m : List Host.Cell) (p : Nat → Bool) (x : Nat) (h : Memory.wf m = true) :
    cellGet (m.filter fun c => p c.1) x = if p x then cellGet m x else 0 := by
  induction m with
  | nil => simp [cellGet]
  | cons q m ih =>
    obtain ⟨c, w⟩ := q
    simp only [Memory.wf, Bool.and_eq_true, decide_eq_true_eq] at h
    have ih := ih (Memory.wf_of_above h.2)
    simp only [List.filter_cons]
    by_cases hx : x = c
    · subst hx
      split
      · simp_all [cellGet]
      · rw [ih]
        simp_all
    · split
      · simp [cellGet, hx, ih]
      · simp [cellGet, hx, ih]

theorem reset_memory_ok : MemoryOk State.reset := ⟨rfl, by simp [State.reset]⟩

end Sys2Proof.Machine
end

