-- ==== Sys2Proof/Laws/Ops.lean ====
section
/-! SUPPORT. What each shared operation can change: the operation's result is the state before it with the units named taken from the
result, and nothing else. -/

namespace Sys2Proof.Machine

/-! ## Free values, messages and records -/

theorem State.draw_only (s : State) : s.draw.2 = { s with draws := s.draws + 1 } := rfl

theorem State.drawMany_only (n : Nat) : ∀ s : State, (s.drawMany n).2 = { s with draws := s.draws + n } := by
  induction n with
  | zero => intro s; rfl
  | succ n ih =>
    intro s
    show (State.drawMany { s with draws := s.draws + 1 } n).2 = _
    rw [ih]
    simp only [State.mk.injEq, true_and]
    simp; omega

/-- A message changes the rings of the host alone. -/
theorem State.outbox_only (s : State) (typ source status detail : Nat) :
    s.outbox typ source status detail = { s with host := { s.host with rings := (s.outbox typ source status detail).host.rings } } := by
  unfold State.outbox
  dsimp only
  repeat' split
  all_goals rfl

theorem State.event_only (s : State) (source code detail : Nat) :
    s.event source code detail = { s with host := { s.host with rings := (s.event source code detail).host.rings } } :=
  State.outbox_only s 0x12 source code detail

/-- An update of a ring of records changes that ring alone. -/
theorem State.modErrs_only (s : State) (r : Nat) (f : ErrRing → ErrRing) :
    s.modErrs r f = { s with hub := { s.hub with errs := (s.modErrs r f).hub.errs }, tiles := (s.modErrs r f).tiles } := by
  unfold State.modErrs
  split <;> rfl

theorem State.modErrs_same (s : State) (r : Nat) (f : ErrRing → ErrRing) : (s.modErrs r f).errs r = f (s.errs r) := by
  unfold State.modErrs State.errs
  split
  · rfl
  · exact State.modTile_tile_same s r _ ▸ rfl

theorem State.modErrs_ne (s : State) (r x : Nat) (f : ErrRing → ErrRing) (h : x ≠ r) : (s.modErrs r f).errs x = s.errs x := by
  unfold State.modErrs State.errs
  by_cases hr : r = 12
  · subst hr
    simp [h]
  · by_cases hx : x = 12
    · simp [hr, hx]
    · simp [hr, hx, State.modTile_tile_ne s r x _ h]

theorem State.putRecord_only (s : State) (r : Nat) (c : Rec) (time : Nat) (sp : Bool) :
    s.putRecord r c time sp = { s with hub := (s.putRecord r c time sp).hub, tiles := (s.putRecord r c time sp).tiles } := by
  unfold State.putRecord State.modErrs
  split <;> rfl

theorem State.alertErrors_only (s : State) : s.alertErrors = { s with hub := { s.hub with alert := s.alertErrors.hub.alert } } := rfl

/-- A record changes the rings of records, the outbox and ALERT_N alone. -/
theorem State.recordAt_only (s : State) (r : Nat) (c : Rec) :
    (s.recordAt r c).1 = { s with hub := (s.recordAt r c).1.hub, tiles := (s.recordAt r c).1.tiles, host := (s.recordAt r c).1.host } := by
  unfold State.recordAt
  simp only []
  split
  · rename_i p _
    rw [State.putRecord_only s p c]
    split
    · rw [State.outbox_only]
      rfl
    · rfl
  · rw [State.modErrs_only]

/-- With its handling window. -/
theorem State.record_only (s : State) (r : Nat) (c : Rec) :
    s.record r c = { s with hub := (s.record r c).hub, tiles := (s.record r c).tiles, host := (s.record r c).host } := by
  unfold State.record
  have e := fun c => State.recordAt_only s r c
  split
  · split
    · dsimp only
      have e := e { c with flags := c.flags ||| 1 }
      generalize (s.recordAt r { c with flags := c.flags ||| 1 }).1 = u at e ⊢
      generalize u.hub = x, u.tiles = y, u.host = z at e
      subst e
      rfl
    · dsimp only
      have e := e c
      generalize (s.recordAt r c).1 = u at e ⊢
      generalize u.hub = x, u.tiles = y, u.host = z at e
      subst e
      rfl
  · exact e c

/-- t differs from s in what records and messages change alone: the rings of records, the hub's registers, the host's rings, the
flash, and the count of the free values drawn. -/
def Logs (s t : State) : Prop := t = { s with hub := t.hub, tiles := t.tiles, host := t.host, flash := t.flash, draws := t.draws }

theorem Logs.trans {s t u : State} (h : Logs s t) (k : Logs t u) : Logs s u := by
  unfold Logs at *
  generalize t.hub = a, t.tiles = b, t.host = c, t.flash = d, t.draws = n at h
  subst h
  exact k

theorem State.record_logs (s : State) (r : Nat) (c : Rec) : Logs s (s.record r c) := by
  unfold Logs
  conv => lhs; rw [State.record_only]
  have e := congrArg State.flash (State.record_only s r c)
  have n := congrArg State.draws (State.record_only s r c)
  rw [e, n]

theorem State.modErrs_logs (s : State) (r : Nat) (f : ErrRing → ErrRing) : Logs s (s.modErrs r f) := by
  unfold Logs State.modErrs
  split <;> rfl

theorem State.corrected_logs (s : State) (r unit addr structure_ source : Nat) (again : Bool) :
    Logs s (s.corrected r unit addr structure_ source again) := by
  unfold State.corrected
  dsimp only
  refine Logs.trans (State.modErrs_logs s r fun e => { e with ce := e.ce + 1 }) ?_
  have m : ∀ (u : State) f, Logs u (u.modHub f) := fun _ _ => rfl
  repeat' split
  all_goals first | exact m _ _ | exact Logs.trans (m _ _) (State.record_logs _ _ _)

theorem State.repairEntry_logs (s : State) (kind value : Nat) : Logs s (s.repairEntry kind value) := by
  unfold State.repairEntry
  split
  · rfl
  · split
    · rfl
    · have m : ∀ (u : State) f, Logs u (u.modFlash f) := fun _ _ => rfl
      have d : ∀ u : State, Logs u u.draw.2 := fun _ => rfl
      exact Logs.trans (m _ _) (Logs.trans (d _) (State.record_logs _ _ _))

/-- What logs does not touch. -/
theorem Logs.memoryOk {s t : State} (h : Logs s t) (k : MemoryOk s) : MemoryOk t := by
  have hm : t.mem = s.mem := by rw [h]
  have hc : t.cores = s.cores := by rw [h]
  unfold MemoryOk
  rw [hm, hc]
  exact k

theorem Logs.pending {s t : State} (h : Logs s t) : t.pending = s.pending := by rw [h]

/-! ## Commands and block faults -/

theorem State.failRun_only (s : State) (q : Nat) (i : BitVec 64) (launch status detail : Nat) :
    s.failRun q i launch status detail = { s with queues := (s.failRun q i launch status detail).queues } := rfl

theorem State.stopBlocks_only (s : State) (q : Nat) (i : BitVec 64) : s.stopBlocks q i = { s with cores := (s.stopBlocks q i).cores } := rfl

/-- t differs from s in blocks, teams, commands and the free values drawn alone. -/
def FaultsOnly (s t : State) : Prop := t = { s with cores := t.cores, teams := t.teams, queues := t.queues, draws := t.draws }

theorem FaultsOnly.trans {s t u : State} (h : FaultsOnly s t) (k : FaultsOnly t u) : FaultsOnly s u := by
  unfold FaultsOnly at *
  generalize t.cores = a, t.teams = b, t.queues = c, t.draws = d at h
  subst h
  exact k

theorem FaultsOnly.pending {s t : State} (h : FaultsOnly s t) : t.pending = s.pending := by rw [h]
theorem FaultsOnly.mem {s t : State} (h : FaultsOnly s t) : t.mem = s.mem := by rw [h]

theorem State.failMember_faults (s : State) (team c b first cause : Nat) : FaultsOnly s (s.failMember team c b first cause) := by
  unfold State.failMember
  dsimp only
  repeat' split
  all_goals rfl

theorem failMembers_faults (core team first cause : Nat) (l : List (Nat × Nat)) : ∀ s : State,
    FaultsOnly s (l.foldl (fun s x => if x.1 = core then s else s.failMember team x.1 x.2 first cause) s) := by
  induction l with
  | nil => intro s; rfl
  | cons x l ih =>
    intro s
    simp only [List.foldl_cons]
    split
    · exact ih s
    · exact FaultsOnly.trans (State.failMember_faults _ _ _ _ _ _) (ih _)

/-- What the fault of a block brings about changes blocks, their teams and their commands alone (R97, R341). -/
theorem State.spreadFault_faults (s : State) (core : Nat) (b : Block) (cause : Nat) : FaultsOnly s (s.spreadFault core b cause) := by
  unfold State.spreadFault
  dsimp only
  have k : ∀ (u : State) q i l st d, FaultsOnly u ((u.failRun q i l st d).stopBlocks q i) := fun _ _ _ _ _ _ => rfl
  refine FaultsOnly.trans ?_ (k _ _ _ _ _ _)
  have m : ∀ (u : State) x, FaultsOnly u { u with teams := x } := fun _ _ => rfl
  split
  · exact FaultsOnly.trans (m _ _) (failMembers_faults core _ _ cause _ _)
  · exact rfl

/-- A block fault changes blocks, their teams and their commands alone (R96, R97, R341). -/
theorem State.blockFault_faults (s : State) (w : Where) (cause detail : Nat) : FaultsOnly s (s.blockFault w cause detail) := by
  unfold State.blockFault
  split
  · rfl
  · split
    · rfl
    · have e : ∀ f, FaultsOnly s (s.modBlock w.core w.block f) := fun _ => rfl
      exact FaultsOnly.trans (e _) (State.spreadFault_faults _ _ _ _)

/-! ## Local memories -/

/-- An update of a core that leaves its local memory keeps the memories in canonical form. -/
theorem memoryOk_modCore (s : State) (c : Nat) (f : Core → Core) (hf : ∀ k, (f k).lmem = k.lmem) (h : MemoryOk s) : MemoryOk (s.modCore c f) := by
  refine ⟨h.1, ?_⟩
  have hg : ∀ (m : KMap Core), (∀ p ∈ m, Memory.wf p.2.lmem = true) → Memory.wf (kget ({} : Core) m c).lmem = true := by
    intro m hm
    induction m with
    | nil => rfl
    | cons q m ih =>
      simp only [kget]
      split
      · exact hm q (by simp)
      · exact ih fun p hp => hm p (by simp [hp])
  have hs : ∀ (m : KMap Core) (v : Core), Memory.wf v.lmem = true → (∀ p ∈ m, Memory.wf p.2.lmem = true) →
      ∀ p ∈ kset m c v, Memory.wf p.2.lmem = true := by
    intro m v hv hm
    induction m with
    | nil =>
      intro p hp
      simp only [kset, List.mem_singleton] at hp
      subst hp
      exact hv
    | cons q m ih =>
      intro p hp
      simp only [kset] at hp
      split at hp
      · simp only [List.mem_cons] at hp
        rcases hp with rfl | rfl | hp
        · exact hv
        · exact hm _ (by simp)
        · exact hm p (by simp [hp])
      · split at hp
        · simp only [List.mem_cons] at hp
          rcases hp with rfl | hp
          · exact hv
          · exact hm p (by simp [hp])
        · simp only [List.mem_cons] at hp
          rcases hp with rfl | hp
          · exact hm _ (by simp)
          · exact ih (fun p hp => hm p (by simp [hp])) p hp
  exact hs s.cores _ (by rw [hf]; exact hg s.cores h.2) h.2

/-- Without a change of memory or of a core, the memories stay in canonical form. -/
theorem memoryOk_of_eq {s t : State} (hm : t.mem = s.mem) (hc : t.cores = s.cores) (h : MemoryOk s) : MemoryOk t := by
  unfold MemoryOk
  rw [hm, hc]
  exact h

end Sys2Proof.Machine
end

