-- ==== Sys2Proof/Laws/Operands.lean ====
section
/-! SUPPORT. Registers, predicates and threads of a group after a write, and the issue of an instruction: what it does when the
group is ready, when a check at decode fails, and when there is nothing to issue. -/

namespace Sys2Proof.Machine

/-! ## Registers -/

@[simp] theorem Group.reg_setReg_same (g : Group) (l r : Nat) (v : BitVec 32) : (g.setReg l r v).reg l r = v :=
  kget_kset_same _ _ _ _

theorem Group.reg_setReg_ne (g : Group) (l r l' r' : Nat) (v : BitVec 32) (hr : r < 256) (hr' : r' < 256) (h : l' ≠ l ∨ r' ≠ r) :
    (g.setReg l r v).reg l' r' = g.reg l' r' := by
  refine kget_kset_ne _ _ _ _ _ ?_
  omega

@[simp] theorem Group.setReg_threads (g : Group) (l r : Nat) (v : BitVec 32) : (g.setReg l r v).threads = g.threads := rfl
@[simp] theorem Group.setReg_thread (g : Group) (l r x : Nat) (v : BitVec 32) : (g.setReg l r v).thread x = g.thread x := rfl
@[simp] theorem Group.setReg_pred (g : Group) (l r x p : Nat) (v : BitVec 32) : (g.setReg l r v).pred x p = g.pred x p := rfl
@[simp] theorem Group.modThread_reg (g : Group) (l x r : Nat) (f : Thread → Thread) : (g.modThread l f).reg x r = g.reg x r := rfl
@[simp] theorem Group.modThread_same (g : Group) (l : Nat) (f : Thread → Thread) : (g.modThread l f).thread l = f (g.thread l) :=
  kget_kmod_same _ _ _ _
theorem Group.modThread_ne (g : Group) (l x : Nat) (f : Thread → Thread) (h : x ≠ l) : (g.modThread l f).thread x = g.thread x :=
  kget_kmod_ne _ _ _ _ _ h

/-- A thread's n registers from r, after a write of another register. -/
theorem Group.regs'_setReg_ne (g : Group) (l r x y n : Nat) (v : BitVec 32) (hr : r < 256) (hn : y + n ≤ 256) (h : x ≠ l ∨ r < y ∨ y + n ≤ r) :
    (g.setReg l r v).regs' x y n = g.regs' x y n := by
  induction n generalizing y with
  | zero => rfl
  | succ n ih =>
    simp only [Group.regs']
    rw [ih (y + 1) (by omega) (by omega), Group.reg_setReg_ne g l r x y v hr (by omega) (by omega)]

/-! ## Predicates -/

@[simp] theorem Group.pred_seven (g : Group) (l : Nat) : g.pred l 7 = true := rfl
@[simp] theorem Group.setPred_reg (g : Group) (l p x r : Nat) (v : Bool) : (g.setPred l p v).reg x r = g.reg x r := by
  unfold Group.setPred
  split <;> rfl

/-- R76: a write of p7 is ignored. -/
theorem Group.setPred_seven (g : Group) (l : Nat) (v : Bool) : g.setPred l 7 v = g := rfl

/-! ## Sets of threads -/

@[simp] theorem Group.advance_reg (g : Group) (ls : List Nat) (l r : Nat) : (g.advance ls).reg l r = g.reg l r := by
  unfold Group.advance
  induction ls generalizing g with
  | nil => rfl
  | cons x ls ih => simp only [List.foldl_cons]; rw [ih]; rfl

theorem Group.advance_ne (g : Group) (ls : List Nat) (l : Nat) (h : l ∉ ls) : (g.advance ls).thread l = g.thread l := by
  unfold Group.advance
  induction ls generalizing g with
  | nil => rfl
  | cons x ls ih =>
    simp only [List.mem_cons, not_or] at h
    simp only [List.foldl_cons]
    rw [ih _ h.2, Group.modThread_ne _ _ _ _ h.1]

/-- R112: the threads of the subset go to the next instruction. -/
theorem Group.advance_same (g : Group) (ls : List Nat) (l : Nat) (h : l ∈ ls) (hd : ls.Nodup) :
    (g.advance ls).thread l = { g.thread l with pc := (g.thread l).pc + 8 } := by
  induction ls generalizing g with
  | nil => simp at h
  | cons x ls ih =>
    have e : g.advance (x :: ls) = (g.modThread x fun t => { t with pc := t.pc + 8 }).advance ls := rfl
    rw [e]
    rw [List.nodup_cons] at hd
    rcases List.mem_cons.1 h with rfl | h'
    · rw [Group.advance_ne _ _ _ hd.1, Group.modThread_same]
    · rw [ih _ h' hd.2, Group.modThread_ne _ _ _ _ (by intro e; subst e; exact hd.1 h')]

/-- The lanes in order have none twice. -/
theorem lanes_nodup (p : Nat → Bool) (q : Nat → Bool) : ((lanes32.filter p).filter q).Nodup :=
  (List.nodup_range.filter p).filter q

theorem Group.subset_nodup (g : Group) (pc : BitVec 64) : (g.subset pc).Nodup :=
  (List.nodup_range.filter _ |>.filter _).filter _

/-! ## Issue -/

/-- R488: registers without a bit error are read as they are. -/
theorem State.readRegs_clean (s : State) (i : Issue) (rs : List Nat) (h : s.regsSound i rs) : s.readRegs i rs = (s, false) := by
  have e : ∀ u ∈ s.upsets, (decide (u.mem = .regFile) && decide (u.unit = i.at_.core) &&
      i.active.any (fun l => decide (u.word / 256 = (i.at_.block * 32 + i.at_.group) * 32 + l)) && rs.contains (u.word % 256)) = false := by
    intro u hu
    by_cases hm : u.mem = .regFile
    · by_cases hc : u.unit = i.at_.core
      · by_cases hl : ∃ l ∈ i.active, u.word / 256 = (i.at_.block * 32 + i.at_.group) * 32 + l
        · have hn := h u hu hm hc hl
          simp [hn]
        · have hn : i.active.any (fun l => decide (u.word / 256 = (i.at_.block * 32 + i.at_.group) * 32 + l)) = false := by
            rw [List.any_eq_false]
            intro l hm' hd
            exact hl ⟨l, hm', of_decide_eq_true hd⟩
          simp only [hn, Bool.and_false, Bool.false_and]
      · simp [hc]
    · simp [hm]
  have h0 : s.upsets.filter (fun u => decide (u.mem = .regFile) && decide (u.unit = i.at_.core) &&
      i.active.any (fun l => decide (u.word / 256 = (i.at_.block * 32 + i.at_.group) * 32 + l)) && rs.contains (u.word % 256)) = [] := by
    rw [List.filter_eq_nil_iff]
    intro u hu
    rw [e u hu]
    simp
  have h1 : s.upsets.filter (fun u => !(decide (u.mem = .regFile) && decide (u.unit = i.at_.core) &&
      i.active.any (fun l => decide (u.word / 256 = (i.at_.block * 32 + i.at_.group) * 32 + l)) && rs.contains (u.word % 256))) = s.upsets := by
    rw [List.filter_eq_self]
    intro u hu
    rw [e u hu]
    rfl
  unfold State.readRegs
  simp only [h0, h1]
  rfl

/-- An instruction of a group that is ready, on a core whose registers are sound: its issue is counted and it runs. -/
theorem State.issueM_ready {s : State} {ga : GroupAt} {f : Fields} {i : Issue} (cls op : Nat) (legal : Nat → Bool) (uses : List Nat)
    (run : Issue → State → Attempt State) (rd : Nat) (hi : s.issueOf ga f = some i) (hr : f.rsv = 0) (hl : legal i.block.alloc = true)
    (hu : ∀ r ∈ uses, r ∉ i.group.pending) (hx : (s.core i.at_.core).unread i.at_.block i.at_.group = false)
    (hs : s.regsSound i uses) : s.issueM ga cls op f legal uses run rd =
      .next (s.landed (run { i with group := i.group.noteIssue i.at_.pc i.lanes }
        ((s.touchQuarter i.at_.core (i.group.noteIssue i.at_.pc i.lanes).quarter).modGroup i.at_.core i.at_.block i.at_.group
          fun _ => i.group.noteIssue i.at_.pc i.lanes))) := by
  have hn : uses.any i.group.pending.contains = false := by
    rw [List.any_eq_false]
    intro r hm
    simpa using hu r hm
  unfold State.issueM
  rw [hi]
  have hd : s.regsSound i (uses.drop rd) := fun u hu hm hc hl hmem => hs u hu hm hc hl (List.mem_of_mem_drop hmem)
  simp [hr, hl, hn, hx, State.readRegs_clean s i _ hd]

/-- R114: a check at decode that fails ends the block with ILLEGAL_INSTRUCTION. -/
theorem State.issueM_illegal {s : State} {ga : GroupAt} {f : Fields} {i : Issue} (cls op : Nat) (legal : Nat → Bool) (uses : List Nat)
    (run : Issue → State → Attempt State) (rd : Nat) (hi : s.issueOf ga f = some i) (h : f.rsv ≠ 0 ∨ legal i.block.alloc = false) :
    s.issueM ga cls op f legal uses run rd = .next (s.blockFault i.at_ 0x08 (wordOf cls op f)) := by
  unfold State.issueM
  rw [hi]
  rcases h with h | h
  · have e : (decide (f.rsv = 0) && legal i.block.alloc) = false := by rw [decide_eq_false h]; rfl
    simp only [e]
    rfl
  · simp [h]

/-- Without a subset to issue, nothing happens (R80). -/
theorem State.issueM_none {s : State} {ga : GroupAt} {f : Fields} (cls op : Nat) (legal : Nat → Bool) (uses : List Nat)
    (run : Issue → State → Attempt State) (rd : Nat) (hi : s.issueOf ga f = none) : s.issueM ga cls op f legal uses run rd = .next s := by
  unfold State.issueM
  rw [hi]

/-- Where an instruction issues: the place that the command names, by its current subset. -/
theorem State.issueOf_at {s : State} {ga : GroupAt} {f : Fields} {i : Issue} (h : s.issueOf ga f = some i) :
    i.at_.core = ga.core.val ∧ i.at_.block = ga.block.val ∧ i.at_.group = ga.group.val ∧ i.lanes = i.group.subset i.at_.pc ∧
      i.active = i.lanes.filter (i.group.guard f) ∧ kfind (s.core ga.core.val).blocks ga.block.val = some i.block ∧ i.block.phase = .running := by
  unfold State.issueOf at h
  dsimp only at h
  split at h
  · simp at h
  · rename_i b hb
    split at h
    · simp at h
    · rename_i hc
      split at h
      · simp at h
      · split at h
        · simp at h
        · simp only [Option.some.injEq] at h
          subst h
          simp_all

/-- The threads of the subset, and the active ones, are each there once. -/
theorem State.issueOf_nodup {s : State} {ga : GroupAt} {f : Fields} {i : Issue} (h : s.issueOf ga f = some i) : i.lanes.Nodup ∧ i.active.Nodup := by
  obtain ⟨-, -, -, hl, ha, -, -⟩ := State.issueOf_at h
  rw [ha, hl]
  exact ⟨Group.subset_nodup _ _, (Group.subset_nodup _ _).filter _⟩

/-! ## What each thread writes -/

theorem Group.write_thread_regs (g : Group) (l x r : Nat) (w : Writes) (hw : ∀ p ∈ w.regs, p.1 < 256) (hx : r < 256) (h : x ≠ l) :
    (g.write l w).reg x r = g.reg x r := by
  unfold Group.write
  have hp : ∀ (ps : List (Nat × Bool)) (g : Group), (ps.foldl (fun g p => g.setPred l p.1 p.2) g).reg x r = g.reg x r := by
    intro ps
    induction ps with
    | nil => intro g; rfl
    | cons p ps ih => intro g; simp only [List.foldl_cons]; rw [ih, Group.setPred_reg]
  have hr : ∀ (rs : List (Nat × BitVec 32)) (g : Group), (∀ p ∈ rs, p.1 < 256) → (rs.foldl (fun g p => g.setReg l p.1 p.2) g).reg x r = g.reg x r := by
    intro rs
    induction rs with
    | nil => intro g _; rfl
    | cons p rs ih =>
      intro g hp
      simp only [List.foldl_cons]
      rw [ih _ (fun q hq => hp q (by simp [hq])), Group.reg_setReg_ne _ _ _ _ _ _ (hp p (by simp)) hx (.inl h)]
  show (w.preds.foldl (fun g p => g.setPred l p.1 p.2) (w.regs.foldl (fun g p => g.setReg l p.1 p.2) g)).reg x r = _
  rw [hp, hr _ _ hw]

/-- A register that a write does not name. -/
theorem Group.write_reg_ne (g : Group) (l x r : Nat) (w : Writes) (hw : ∀ p ∈ w.regs, p.1 < 256 ∧ p.1 ≠ r) (hx : r < 256) :
    (g.write l w).reg x r = g.reg x r := by
  unfold Group.write
  have hp : ∀ (ps : List (Nat × Bool)) (g : Group), (ps.foldl (fun g p => g.setPred l p.1 p.2) g).reg x r = g.reg x r := by
    intro ps
    induction ps with
    | nil => intro g; rfl
    | cons p ps ih => intro g; simp only [List.foldl_cons]; rw [ih, Group.setPred_reg]
  have hr : ∀ (rs : List (Nat × BitVec 32)) (g : Group), (∀ p ∈ rs, p.1 < 256 ∧ p.1 ≠ r) → (rs.foldl (fun g p => g.setReg l p.1 p.2) g).reg x r = g.reg x r := by
    intro rs
    induction rs with
    | nil => intro g _; rfl
    | cons p rs ih =>
      intro g hp
      simp only [List.foldl_cons]
      rw [ih _ (fun q hq => hp q (by simp [hq])), Group.reg_setReg_ne _ _ _ _ _ _ (hp p (by simp)).1 hx (.inr (hp p (by simp)).2.symm)]
  show (w.preds.foldl (fun g p => g.setPred l p.1 p.2) (w.regs.foldl (fun g p => g.setReg l p.1 p.2) g)).reg x r = _
  rw [hp, hr _ _ hw]

/-- perThread changes the issuing group alone. -/
theorem perThread_only (fn : Group → Nat → Writes) (i : Issue) (s : State) :
    perThread fn i s = s.modGroup i.at_.core i.at_.block i.at_.group fun _ =>
      (i.active.foldl (fun g l => g.write l (fn i.group l)) i.group).advance i.lanes := rfl

/-- A thread that is not active keeps its registers. -/
theorem perThread_reg_ne (fn : Group → Nat → Writes) (g0 : Group) (ls : List Nat) (x r : Nat) (hw : ∀ l ∈ ls, ∀ p ∈ (fn g0 l).regs, p.1 < 256)
    (hr : r < 256) (hx : x ∉ ls) : ∀ g : Group, (ls.foldl (fun g l => g.write l (fn g0 l)) g).reg x r = g.reg x r := by
  induction ls with
  | nil => intro g; rfl
  | cons l ls ih =>
    intro g
    simp only [List.mem_cons, not_or] at hx
    simp only [List.foldl_cons]
    rw [ih (fun l hl => hw l (by simp [hl])) hx.2, Group.write_thread_regs _ _ _ _ _ (hw l (by simp)) hr hx.1]

/-- An active thread's registers are those of its own write. -/
theorem perThread_reg_same (fn : Group → Nat → Writes) (g0 : Group) (ls : List Nat) (x r : Nat) (hw : ∀ l ∈ ls, ∀ p ∈ (fn g0 l).regs, p.1 < 256)
    (hr : r < 256) (hx : x ∈ ls) (hd : ls.Nodup) : ∀ g : Group, ∃ k : Group, (ls.foldl (fun g l => g.write l (fn g0 l)) g).reg x r = (k.write x (fn g0 x)).reg x r ∧
      ∀ y, y < 256 → k.reg x y = g.reg x y := by
  induction ls with
  | nil => simp at hx
  | cons l ls ih =>
    intro g
    rw [List.nodup_cons] at hd
    simp only [List.foldl_cons]
    rcases List.mem_cons.1 hx with rfl | hx'
    · exact ⟨g, perThread_reg_ne fn g0 ls x r (fun l hl => hw l (by simp [hl])) hr hd.1 _, fun _ _ => rfl⟩
    · obtain ⟨k, hk, hy⟩ := ih (fun l hl => hw l (by simp [hl])) hx' hd.2 (g.write l (fn g0 l))
      refine ⟨k, hk, fun y hy' => ?_⟩
      rw [hy y hy', Group.write_thread_regs _ _ _ _ _ (hw l (by simp)) hy' (by intro e; subst e; exact hd.1 hx')]

end Sys2Proof.Machine
end

