-- ==== Sys2Proof/WellFormed.lean ====
section
/-! DEFINITION. Which commands are well formed: those that the hardware's own interfaces can present. Every other malformed operand (a
reserved bit, a wrong length) can be presented, and meets the rejection that the spec gives it. -/

namespace Sys2Proof

/-- Members of a team of one cell: each core once, and at least one (R45). -/
def coresOk (l : List (Fin 8)) : Bool := !l.isEmpty && decide l.Nodup

/-- A request of the host's link: at most the 4 KiB that a packet's length field can name (Table 10.9). -/
def HostWrite.wf (w : HostWrite) : Bool := !w.bytes.isEmpty && decide (w.bytes.length ≤ 4096)

/-- A frame carries at most the bytes that PLEN can name, in 8-byte words (Table 9.7). -/
def Frame.wf (f : Frame) : Bool := decide (f.payload.length ≤ 504)

/-- The frame area of a block has 632 bytes (R264). -/
def LinkBlock.wf (b : LinkBlock) : Bool := decide (b.area.length = 632)

/-- A request of the management bus has at most 64 bytes (R480). -/
def requestOk (req : List Byte) : Bool := decide (req.length ≤ 64)

/-- An access of 1, 2, 4 or 8 bytes. -/
def sizeOk (n : Nat) : Bool := [1, 2, 4, 8].contains n

/-- A boot stage reports at most one capability word for a die, of the 12 there are (R404). -/
def BootReport.wf (r : BootReport) : Bool := (r.dieCaps.all fun x => decide (x.1 < 12)) && decide (r.dieCaps.map (·.1)).Nodup

/-- The activity counts of a die come once (R364). -/
def activityOk (l : List Activity) : Bool := decide (l.map fun a => a.die.val).Nodup

/-- Whether the hardware's interfaces can present a command. -/
def Instr.wf : Instr → Bool
  | .teamPlace _ _ _ cores => coresOk cores
  | .cooperativeStart _ _ places => !places.isEmpty && places.all fun p => coresOk p.2
  | .stepEntryStart _ entry => decide (entry < 4096)
  | .bar2Write w => w.wf
  | .bar4Doorbell w => w.wf
  | .bar2Atomicop _ _ size _ _ => decide (size ≤ 16)
  | .hostProtocolViolation v => decide (v.row ≠ 0)
  | .doorbellWrite _ _ off size _ => sizeOk size && decide (off + size ≤ 4096)
  | .bitAliasWrite _ _ size _ => sizeOk size
  | .rrdFrame _ f => f.wf
  | .rwrFrame _ f => f.wf
  | .ratomFrame _ f => f.wf
  | .rmsgFrame _ f => f.wf
  | .rrdData _ f => f.wf
  | .rwrAck _ f => f.wf
  | .ratomOld _ f => f.wf
  | .rmsgAck _ f => f.wf
  | .linkNak _ f => f.wf
  | .collData _ f => f.wf
  | .collAbort _ f => f.wf
  | .linkBlockReceived _ b => b.wf
  | .bootStage r => r.wf
  | .activityModelUpdate l => activityOk l
  | .refresh _ _ bank => decide (bank < 256)
  | .regRead req => requestOk req
  | .attestWrite req => requestOk req
  | .boardCounterRead req => requestOk req
  | .wardenSelect req => requestOk req
  | .packageReset req => requestOk req
  | .boardKeyRotate req => requestOk req
  | .nop _ f => f.head = 0 || (rowOf (f.head.toNat % 16) (f.head.toNat / 16)).isNone
  | .bra .. | .call .. | .jmp .. | .callr .. | .exit .. | .yield .. | .trap .. | .iadd .. | .isub .. | .imul .. | .imulhi ..
  | .imad .. | .imin .. | .imax .. | .iabs .. | .and .. | .or .. | .xor .. | .not .. | .shl .. | .shr .. | .popc .. | .clz .. | .brev ..
  | .bfe .. | .bfi .. | .icmp .. | .sel .. | .mov .. | .plop .. | .psave .. | .pload .. | .inti .. | .fadd .. | .fsub .. | .fmul ..
  | .ffma .. | .fmin .. | .fmax .. | .fminnum .. | .fmaxnum .. | .fcmp .. | .fclass .. | .rcp .. | .sqrt .. | .rsq .. | .ex2 .. | .lg2 ..
  | .sin .. | .cos .. | .cvtFf .. | .cvtFi .. | .cvtIf .. | .ld .. | .st .. | .atomAdd .. | .atomMin .. | .atomMax .. | .atomAnd ..
  | .atomOr .. | .atomXor .. | .atomExch .. | .atomCas .. | .rrd .. | .rwr .. | .ratom .. | .rmsg .. | .voteAll .. | .voteAny ..
  | .ballot .. | .shflIdx .. | .shflUp .. | .shflDown .. | .shflXor .. | .gred .. | .barBlock .. | .barTeam .. | .fence .. | .twait ..
  | .tpoll .. | .mma .. | .tile .. | .srd .. | .movi .. | .iaddw .. | .adrpc .. | .blockTerminate .. | .blockTerminationTimeout ..
  | .blockEnd .. | .barrierTimeout .. | .groupOpTimeout .. | .teamLocalAccess .. | .teamLocalResponse .. | .remoteLocalTimeout ..
  | .localSectionConvert .. | .localSectionReturn .. | .icacheMiss .. | .quarterClockGate .. | .regionClockGate .. | .regionPowerGate ..
  | .diePllOff .. | .regionWakeComplete .. | .regionWakeTimeout .. | .matrixDescriptorRead .. | .matrixStart .. | .matrixComplete ..
  | .tileCvt .. | .tileAdd .. | .tileSub .. | .tileMul .. | .tileFma .. | .tileMin .. | .tileMax .. | .tileMinnum .. | .tileMaxnum ..
  | .rsum .. | .rmin .. | .rmax .. | .transpose .. | .fill .. | .tileComplete .. | .rdLineNc .. | .rdSector .. | .wrLine ..
  | .wrMasked .. | .wrSector .. | .regRd .. | .regWr .. | .floorRequestTimeout .. | .lineFillComplete .. | .victimWriteback ..
  | .streamEntryReset .. | .rdS .. | .rdX .. | .upg .. | .wb .. | .atomH .. | .purgeWb .. | .snpS .. | .snpX .. | .snpNc .. | .snpInv ..
  | .snpInvWb .. | .purge .. | .compS .. | .compE .. | .compM .. | .cack .. | .wbAck .. | .snpMiss .. | .snpAckS .. | .snpAckI ..
  | .snpFwdO .. | .snpFwdI .. | .snpFwdKeep .. | .snpAckKeep .. | .purgeDone .. | .dataClean .. | .dataDirty .. | .atomOld ..
  | .directoryRecall .. | .snoopTimeout .. | .directoryFenceScan .. | .flrLlmSliceCfg .. | .wayToScratch .. | .scratchToCache ..
  | .flrLlmCtl .. | .flrStreamCtl .. | .dramTempSample .. | .memStopped .. | .scrub .. | .dramRepair .. | .pageWalk ..
  | .hubXlatInvCtl .. | .xlatInvalidationComplete .. | .lnkCtlEnable .. | .retrain .. | .laneEn .. | .laneReenable ..
  | .equalisationComplete .. | .codewordLock .. | .identityBlock .. | .identityBlockSend .. | .trainingAttemptTimeout ..
  | .linkDownRetry .. | .retrainTimeout .. | .remoteTimeout .. | .rmsgRetry .. | .slowLevelFall .. | .collectiveStart ..
  | .collectiveComplete .. | .collectiveTimeout .. | .bar2Read .. | .hubWinCtl .. | .hubHcrCtl .. | .recordPost .. | .msixMessage ..
  | .dlDown .. | .linkEpoch .. | .pcieConfigWrite .. | .hostLinkDownTimeout .. | .functionLevelReset .. | .hotReset .. | .perstNAssert ..
  | .hostResetComplete .. | .commandFetch .. | .emptySlotRetry .. | .commandComplete .. | .nopCommand .. | .kernel .. | .layer ..
  | .layerKernelAdvance .. | .wait .. | .waitPoll .. | .collective .. | .contextCreate .. | .contextDestroy .. | .queueCreate ..
  | .queueDestroy .. | .countsRead .. | .counterRead .. | .kvPoolCreate .. | .kvStep .. | .kvPoolDestroy .. | .powerLimit ..
  | .partitionSet .. | .systemAddress .. | .reset .. | .firmwareUpdate .. | .keyRotate .. | .debugUnlock .. | .authLockoutEnd ..
  | .commandLimitExpiry .. | .sliceEnd .. | .contextSwitch .. | .telemetryFrame .. | .controlLoopUpdate .. | .fastPath ..
  | .lendUpdate .. | .dieTempSample .. | .thermTripClear .. | .coolantSample .. | .brake .. | .coolStop .. | .coolResume .. | .standby ..
  | .wake .. | .regPhase .. | .powerOn .. | .inputPowerValid .. | .brownOut .. | .bootWatchdog .. | .hubPowerFail .. | .dieResetStep ..
  | .leaseRenew .. | .leaseClaim .. | .leaseLost .. | .go .. | .attestationDone .. | .cpHeartbeatMissed .. | .registerWrite ..
  | .registerAccessTimeout .. | .sqAcknowledge .. | .commit .. | .ref .. | .crcSweep .. | .handlingWindowTimeout ..
  | .heartbeatTimeout .. | .fenceTakesEffect .. | .coreRetired .. | .sidebandChatter .. | .chatterEnd .. | .slotIdChange ..
  | .i3cReplyRead .. | .jtagAccess .. | .dlUp .. | .perstNDeassert .. | .postedWriteDelivered .. | .linkBlockSend ..
  | .trainingPatternReceived .. | .inputPowerAbsent .. | .diePllFailure .. | .hostCoreMemoryAccess .. => true

end Sys2Proof
end

