-- ==== Sys2Proof/Tests/Slice0.lean ====
section
/-! SUPPORT. Tests: what the well-formedness check refuses, and, for every statement with hypotheses, concrete states and operands
that meet them, with what the spec gives there. Each test is about one step on a small state. -/

namespace Sys2Proof.Tests

-- One theorem at a time: each evaluates in the kernel.
set_option Elab.async false

open Sys2Proof Sys2Proof.Machine

/-- The command answers a next state, and p holds of it. -/
def gives (o : Host.Outcome State Fault Refusal) (p : State → Bool) : Bool :=
  match o with
  | .next t => p t
  | _ => false

/-- The issue of an instruction that is ready (as the statements define it). -/
def readyAt (s : State) (a : GroupAt) (f : Fields) (legal : Nat → Bool) (uses : List Nat) : Option Issue :=
  match s.issueOf a f with
  | none => none
  | some i =>
    if decide (f.rsv = 0) && legal i.block.alloc && uses.all (fun r => !i.group.pending.contains r) &&
      !(s.core a.core.val).unread a.block.val a.group.val && s.upsets.isEmpty then some i else none

/-- readyAt says what Ready says. -/
theorem ready_of {s : State} {a : GroupAt} {f : Fields} {legal : Nat → Bool} {uses : List Nat}
    (h : (readyAt s a f legal uses).isSome = true) : ∃ i, Ready s a f legal uses i := by
  unfold readyAt at h
  split at h
  · simp at h
  · rename_i i hi
    split at h
    · rename_i hc
      simp only [Bool.and_eq_true, decide_eq_true_eq, List.all_eq_true, Bool.not_eq_true', List.contains_eq_mem,
        decide_eq_false_iff_not, List.isEmpty_iff] at hc
      refine ⟨i, hi, hc.1.1.1.1, hc.1.1.1.2, hc.1.1.2, hc.1.2, ?_⟩
      intro u hu
      rw [hc.2] at hu
      cases hu
    · simp at h

/-! ## Well-formed commands -/

theorem test_wf_team : (Instr.teamPlace 0 0 0 [1, 1]).wf = false ∧ (Instr.teamPlace 0 0 0 []).wf = false ∧
    (Instr.cooperativeStart 0 0 []).wf = false ∧ (Instr.teamPlace 0 0 0 [0, 1]).wf = true := by decide +kernel

theorem test_wf_host : (Instr.bar2Write { offset := 0, bytes := [], ep := false }).wf = false ∧
    (Instr.bar4Doorbell { offset := 0, bytes := [], ep := false }).wf = false ∧ (Instr.bar2Atomicop 0 0 17 0 0).wf = false ∧
    (Instr.hostProtocolViolation { row := 0, read := false, header := 0, offset := 0, len := 0 }).wf = false ∧
    (Instr.stepEntryStart 0 4096).wf = false ∧ (Instr.stepEntryStart 0 4095).wf = true := by decide +kernel

/-- A frame of a type, and fields that the tests set. -/
def frame0 (typ : BitVec 8) (dst : BitVec 32) : Frame :=
  { typ := typ, vc := 0, plen := 0, hops := 0, status := 0, slow := 0, poison := 0, pid := 0, dst := dst, src := 0, tag := 0, reason := 0,
    size := 0, aop := 0, atype := 0, ret := 0, rsvA := 0, chan := 0, addr := 0, rsvB := 0, payload := [] }

/-- A block of a link with an empty frame area. -/
def block0 : LinkBlock :=
  { decodes := true, corr0 := 0, corr1 := 0, seq := 0, first := 127, rsvM := 0, crc := 0, ackSeq := 0, nak := 0, crVc := 0, rsvA := 0,
    crCount := 0, slow := 0, stopped := 0, rsvB := 0, area := [] }

/-- What a boot stage reports when nothing is wrong. -/
def report0 : BootReport := { flashOk := true, rootOk := true, hubCaps := 0, dieCaps := [], failed := [], ucieBad := [], ucieSlow := [] }

/-- Activity counts of a die without activity. -/
def activity0 (d : Fin 12) : Activity :=
  { die := d, issued := [], matrix := [], slices := 0, lookups := 0, bursts := 0, flits := 0, blocks := 0, collBytes := 0 }

theorem test_wf_links : (Instr.rrdFrame 0 { frame0 1 0 with payload := List.replicate 505 0 }).wf = false ∧
    (Instr.rrdFrame 0 (frame0 1 0)).wf = true ∧ (Instr.linkBlockReceived 0 block0).wf = false ∧
    (Instr.linkBlockReceived 0 { block0 with area := List.replicate 632 0 }).wf = true := by decide +kernel

theorem test_wf_others : (Instr.doorbellWrite .commandProcessor 0 0 3 0).wf = false ∧ (Instr.doorbellWrite .commandProcessor 0 4096 4 0).wf = false ∧
    (Instr.bitAliasWrite .commandProcessor 0 3 0).wf = false ∧ (Instr.bootStage { report0 with dieCaps := [(12, 0)] }).wf = false ∧
    (Instr.bootStage { report0 with dieCaps := [(1, 0), (1, 0)] }).wf = false ∧
    (Instr.activityModelUpdate [activity0 1, activity0 1]).wf = false ∧ (Instr.refresh 0 .hbm 256).wf = false ∧
    (Instr.regRead (List.replicate 65 0)).wf = false ∧ (Instr.boardKeyRotate (List.replicate 64 0)).wf = true := by decide +kernel

/-! ## Instructions of the compute core -/

/-- A group of core 3. -/
def gA : GroupAt := ⟨3, 1, 2⟩

/-- Threads 0 and 1 of a group at 0x1000, the others ended. -/
def threads2 : KMap Thread := (List.range 32).map fun l => (l, ({ pc := 0x1000, preds := 2, exited := decide (2 ≤ l) } : Thread))

/-- Group gA with registers; its block is alone on core 3, which runs. -/
def blockOf (regs : KMap (BitVec 32)) : Block :=
  { alloc := 64, groups := [(2, { threads := threads2, regs := regs })], groupCount := 3, localBytes := 4096, localBase := 2048, aperture := 0x10000000 }

/-- The module with core 3. -/
def onCore (k : Core) : State :=
  { cores := [(3, k)], dies := [(0, { pll := true, time := 77, timeLoaded := true })], power := { dies := [(0, { n := 64, m := 16 })] }
    tiles := [(0, { up := true })] }

/-- The module with that block on core 3. -/
def coreState (regs : KMap (BitVec 32)) : State := onCore { present := true, position := 0, blocks := [(1, blockOf regs)] }

/-- Fields of an unguarded instruction. -/
def fields (dst s1 s2 s3 : BitVec 8) (mod : BitVec 16) : Fields := { pred := 7, neg := 0, rsv := 0, dst := dst, src1 := s1, src2 := s2, src3 := s3, mod := mod }

/-- Register r of thread 0 of gA after a command. -/
def regOf (o : Host.Outcome State Fault Refusal) (r : Nat) : Option (BitVec 32) :=
  match o with
  | .next t => some ((t.groupAt gA).reg 0 r)
  | _ => none

/-- Predicate p of thread 0 of gA after a command. -/
def predOf (o : Host.Outcome State Fault Refusal) (p : Nat) : Option Bool :=
  match o with
  | .next t => some ((t.groupAt gA).pred 0 p)
  | _ => none

/-- r4 = a, r6 = b, r8 = c of thread 0. -/
def three (a b c : BitVec 32) : State := coreState [(4, a), (6, b), (8, c)]

theorem test_integer_ready : (readyAt (three 1 2 3) gA (fields 10 4 6 0 8) (intLegal (fields 10 4 6 0 8) .sat 2) (intUses (fields 10 4 6 0 8) 2)).isSome ∧
    (readyAt (three 1 2 3) gA (fields 10 4 6 0 1) (intLegal (fields 10 4 6 0 1) .plain 2) (intUses (fields 10 4 6 0 1) 2)).isSome ∧
    (readyAt (three 1 2 3) gA (fields 10 4 6 8 0) (intLegal (fields 10 4 6 8 0) .sat 3) (intUses (fields 10 4 6 8 0) 3)).isSome ∧
    (readyAt (three 1 2 3) gA (fields 10 4 0 0 0) (intLegal (fields 10 4 0 0 0) .plain 1) (intUses (fields 10 4 0 0 0) 1)).isSome := by decide +kernel

-- R120: an exact result is narrowed once: 0x7FFFFFFF + 1 wraps, or saturates with SAT (MOD bit 3).
theorem test_iadd : regOf (exec (.iadd gA (fields 10 4 6 0 0)) (three 0x7FFFFFFF 1 0)) 10 = some 0x80000000 ∧
    regOf (exec (.iadd gA (fields 10 4 6 0 9)) (three 0x7FFFFFFF 1 0)) 10 = some 0x7FFFFFFF := by decide +kernel
theorem test_isub : regOf (exec (.isub gA (fields 10 4 6 0 8)) (three 0 1 0)) 10 = some 0 := by decide +kernel
theorem test_imul : regOf (exec (.imul gA (fields 10 4 6 0 0)) (three 0xFFFFFFFF 3 0)) 10 = some 0xFFFFFFFD ∧
    regOf (exec (.imulhi gA (fields 10 4 6 0 1)) (three 0xFFFFFFFF 3 0)) 10 = some 0xFFFFFFFF ∧
    regOf (exec (.imad gA (fields 10 4 6 8 0)) (three 5 7 1)) 10 = some 36 := by decide +kernel
theorem test_iminmax : regOf (exec (.imin gA (fields 10 4 6 0 1)) (three 0xFFFFFFFF 3 0)) 10 = some 0xFFFFFFFF ∧
    regOf (exec (.imax gA (fields 10 4 6 0 0)) (three 0xFFFFFFFF 3 0)) 10 = some 0xFFFFFFFF ∧
    regOf (exec (.iabs gA (fields 10 4 0 0 1)) (three 0xFFFFFFFE 0 0)) 10 = some 2 := by decide +kernel
theorem test_bits : regOf (exec (.popc gA (fields 10 4 0 0 0)) (three 0xF0F 0 0)) 10 = some 8 ∧
    regOf (exec (.clz gA (fields 10 4 0 0 0)) (three 1 0 0)) 10 = some 31 ∧
    regOf (exec (.brev gA (fields 10 4 0 0 0)) (three 1 0 0)) 10 = some 0x80000000 ∧
    regOf (exec (.mov gA (fields 10 4 0 0 0)) (three 9 0 0)) 10 = some 9 := by decide +kernel

theorem test_logic_ready :
    (readyAt (three 1 2 3) gA (fields 10 4 6 0 0) (fun a => (fields 10 4 6 0 0).intModOk .none && regOk a 10 1 && regOk a 4 1 && regOk a 6 1 && regOk a 0 0)
      (intUses (fields 10 4 6 0 0) 2)).isSome ∧
    (readyAt (three 1 2 3) gA (fields 10 4 6 0 1) (fun a => (fields 10 4 6 0 1).intModOk .plain && regOk a 10 1 && regOk a 4 1 && regOk a 6 1 && regOk a 0 0)
      [10, 4, 6]).isSome ∧
    (readyAt (three 1 2 3) gA (fields 10 4 6 8 1) (fun a => (fields 10 4 6 8 1).intModOk .plain && regOk a 10 1 && regOk a 4 1 && regOk a 6 1 && regOk a 8 1)
      [10, 4, 6, 8]).isSome ∧
    (readyAt (three 1 2 3) gA (fields 10 4 6 1 0) (fun a => (fields 10 4 6 1 0).intModOk .plain && regOk a 10 1 && regOk a 4 1 && regOk a 6 1 && predOk 1)
      [10, 4, 6]).isSome ∧
    (readyAt (three 1 2 3) gA (fields 10 4 0xFF 0xFF 0) (intiLegal 0 (fields 10 4 0xFF 0xFF 0)) [4, 10]).isSome := by decide +kernel

theorem test_logic : regOf (exec (.and gA (fields 10 4 6 0 0)) (three 6 3 0)) 10 = some 2 ∧
    regOf (exec (.or gA (fields 10 4 6 0 0)) (three 6 3 0)) 10 = some 7 ∧ regOf (exec (.xor gA (fields 10 4 6 0 0)) (three 6 3 0)) 10 = some 5 ∧
    regOf (exec (.not gA (fields 10 4 0 0 0)) (three 6 0 0)) 10 = some 0xFFFFFFF9 := by decide +kernel
theorem test_shift : regOf (exec (.shl gA (fields 10 4 6 0 0)) (three 3 33 0)) 10 = some 6 ∧
    regOf (exec (.shr gA (fields 10 4 6 0 1)) (three 0x80000000 31 0)) 10 = some 0xFFFFFFFF ∧
    regOf (exec (.shr gA (fields 10 4 6 0 0)) (three 0x80000000 31 0)) 10 = some 1 := by decide +kernel
theorem test_bit_fields : regOf (exec (.bfe gA (fields 10 4 6 0 0)) (three 0xABCD 0x0804 0)) 10 = some 0xBC ∧
    regOf (exec (.sel gA (fields 10 4 6 0 0)) (three 1 2 0)) 10 = some 2 ∧ regOf (exec (.sel gA (fields 10 4 6 1 0)) (three 1 2 0)) 10 = some 1 := by decide +kernel
theorem test_wide : regOf (exec (.movi gA (fields 10 0 0x34 0x12 0xABCD)) (three 0 0 0)) 10 = some 0xABCD1234 ∧
    regOf (exec (.iaddw gA (fields 10 4 0xFF 0xFF 0xFFFF)) (three 5 0 0)) 10 = some 4 ∧
    regOf (exec (.adrpc gA (fields 10 0 8 0 0)) (three 0 0 0)) 10 = some 0x1008 ∧
    regOf (exec (.psave gA (fields 10 0 0 0 0)) (three 0 0 0)) 10 = some 2 := by decide +kernel

theorem test_predicates_ready :
    (readyAt (three 1 2 3) gA (fields 1 4 6 0 0x20) (fun a => (fields 1 4 6 0 0x20).intModOk .cond && predOk 1 && regOk a 4 1 && regOk a 6 1 && regOk a 0 0)
      [4, 6]).isSome ∧
    (readyAt (three 1 2 3) gA (fields 1 4 6 0 0x20) (intiLegal 0x13 (fields 1 4 6 0 0x20)) [4]).isSome ∧
    (readyAt (three 1 2 3) gA (fields 1 0 1 2 0x80) (fun _ => (fields 1 0 1 2 0x80).m 8 8 = 0 && predOk 1 && predOk 0 && predOk 1 && predOk 2) []).isSome ∧
    (readyAt (three 1 2 3) gA (fields 0 4 0 0 0) (fun a => (fields 0 4 0 0 0).intModOk .none && regOk a 0 0 && regOk a 4 1 && regOk a 0 0 && regOk a 0 0) [4]).isSome ∧
    (readyAt (three 1 2 3) gA (fields 1 4 6 0 0x21) (fun a => decide ((fields 1 4 6 0 0x21).ftype ≤ 3) && predOk 1 && regOk a 4 1 && regOk a 6 1) [4, 6]).isSome := by
  decide +kernel

-- Table 4.6: ICMP's condition 2 is less-than; p7 stays true whatever is written to it (R76).
theorem test_icmp : predOf (exec (.icmp gA (fields 1 4 6 0 0x21)) (three 0xFFFFFFFF 2 0)) 1 = some true ∧
    predOf (exec (.icmp gA (fields 1 4 6 0 0x20)) (three 0xFFFFFFFF 2 0)) 1 = some false ∧
    predOf (exec (.icmp gA (fields 7 4 6 0 0x21)) (three 0xFFFFFFFF 2 0)) 7 = some true := by decide +kernel
theorem test_plop : predOf (exec (.plop gA (fields 1 0 1 7 0x80)) (three 0 0 0)) 1 = some false ∧
    predOf (exec (.pload gA (fields 0 4 0 0 0)) (three 0x41 0 0)) 6 = some true := by decide +kernel

theorem test_float_ready : (readyAt (three 1 2 3) gA (fields 10 4 6 0 0) (fpLegal (fields 10 4 6 0 0) true 2) (fpUses (fields 10 4 6 0 0) 2)).isSome ∧
    (readyAt (three 1 2 3) gA (fields 10 4 6 8 0) (fpLegal (fields 10 4 6 8 0) true 3) (fpUses (fields 10 4 6 8 0) 3)).isSome ∧
    (readyAt (three 1 2 3) gA (fields 10 4 6 0 1) (fpLegal (fields 10 4 6 0 1) false 2) (fpUses (fields 10 4 6 0 1) 2)).isSome ∧
    (readyAt (three 1 2 3) gA (fields 10 4 0 0 1) (fun a => decide (1 ≤ (fields 10 4 0 0 1).ftype) && fpLegal (fields 10 4 0 0 1) false 1 a)
      (fpUses (fields 10 4 0 0 1) 1)).isSome := by decide +kernel

-- 1.0 + 2.0 = 3.0, 2.0 x 2.0 + 1.0 = 5.0, and minimumNumber of 2.0 and a NaN is 2.0, in FP32 (TYPE 1).
theorem test_float : regOf (exec (.fadd gA (fields 10 4 6 0 1)) (three 0x3F800000 0x40000000 0)) 10 = some 0x40400000 ∧
    regOf (exec (.ffma gA (fields 10 4 6 8 1)) (three 0x40000000 0x40000000 0x3F800000)) 10 = some 0x40A00000 ∧
    regOf (exec (.fminnum gA (fields 10 4 6 0 1)) (three 0x40000000 0x7FC00000 0)) 10 = some 0x40000000 ∧
    regOf (exec (.fsub gA (fields 10 4 6 0 1)) (three 0x3F800000 0x3F800000 0)) 10 = some 0 := by decide +kernel
theorem test_fcmp : predOf (exec (.fcmp gA (fields 1 4 6 0 0x21)) (three 0x3F800000 0x40000000 0)) 1 = some true := by decide +kernel
theorem test_special : regOf (exec (.rcp gA (fields 10 4 0 0 1)) (three 0x40000000 0 0)) 10 = some 0x3F000000 ∧
    regOf (exec (.sqrt gA (fields 10 4 0 0 1)) (three 0x40800000 0 0)) 10 = some 0x40000000 ∧
    regOf (exec (.ex2 gA (fields 10 4 0 0 1)) (three 0x40000000 0 0)) 10 = some 0x40800000 ∧
    regOf (exec (.lg2 gA (fields 10 4 0 0 1)) (three 0x40800000 0 0)) 10 = some 0x40000000 := by decide +kernel

/-- Some next state. -/
def Runs (c : Instr) (s : State) : Prop := ∃ t, exec c s = .next t

/-- The issue of an instruction of gA. -/
def issueAt (s : State) (f : Fields) : Issue :=
  match s.issueOf gA f with
  | some i => i
  | none => { at_ := { core := 0, block := 0, group := 0, lanes := 0, pc := 0 }, lanes := [], active := [], block := {}, group := {} }

/-- What Ready says of a module without bit errors. -/
theorem ready_at {s : State} {a : GroupAt} {f : Fields} {legal : Nat → Bool} {uses : List Nat} {i : Issue}
    (h : s.issueOf a f = some i ∧ f.rsv = 0 ∧ legal i.block.alloc = true ∧ (∀ r ∈ uses, r ∉ i.group.pending) ∧
      (s.core a.core.val).unread a.block.val a.group.val = false ∧ s.upsets = []) : Ready s a f legal uses i :=
  ⟨h.1, h.2.1, h.2.2.1, h.2.2.2.1, h.2.2.2.2.1, fun u hu => absurd (h.2.2.2.2.2 ▸ hu) List.not_mem_nil⟩

/-- A module without bit errors has none in a local store, and none that an engine meets. -/
theorem local_at {s : State} {c a n : Nat} (h : s.upsets = []) : s.localSound c a n :=
  fun u hu => absurd (h ▸ hu) List.not_mem_nil
theorem engine_at {s : State} {c : Nat} (h : s.upsets = []) : EngineSound s c :=
  fun u hu => absurd (h ▸ hu) List.not_mem_nil

/-- A condition that always holds may be left out of the others. -/
theorem also_third {A : List Nat} {p q r : Nat → Prop} (h : ∀ l ∈ A, p l ∧ r l) (k : ∀ l, q l) : ∀ l ∈ A, p l ∧ q l ∧ r l :=
  fun l hl => ⟨(h l hl).1, k l, (h l hl).2⟩
theorem also_fourth {A : List Nat} {p o q r : Nat → Prop} (h : ∀ l ∈ A, p l ∧ o l ∧ r l) (k : ∀ l, q l) : ∀ l ∈ A, p l ∧ o l ∧ q l ∧ r l :=
  fun l hl => ⟨(h l hl).1, (h l hl).2.1, k l, (h l hl).2.2⟩

/-! From here on the first part of a test applies its statement to concrete values: its proof shows that they meet every hypothesis
together. The second part says what the spec gives there. -/

-- The conversions and SRD: FP16 1.0 to FP32, FP32 -2.5 to s32 toward zero, u32 3 to FP32, the lane number.
theorem test_convert : (Obligations.ConversionsAndSpecialRegistersWriteTheirResult → Runs (.cvtFf gA (fields 10 4 0 0 0x21)) (three 0x3C00 0 0) ∧
      Runs (.cvtFi gA (fields 10 4 0 0 0x111)) (three 0xC0200000 0 0) ∧ Runs (.cvtIf gA (fields 10 4 0 0 0x01)) (three 3 0 0) ∧
      Runs (.srd gA (fields 10 0 0 0 0)) (three 0 0 0)) ∧
    regOf (exec (.cvtFf gA (fields 10 4 0 0 0x21)) (three 0x3C00 0 0)) 10 = some 0x3F800000 ∧
    regOf (exec (.cvtFi gA (fields 10 4 0 0 0x111)) (three 0xC0200000 0 0)) 10 = some 0xFFFFFFFE ∧
    regOf (exec (.cvtIf gA (fields 10 4 0 0 0x01)) (three 3 0 0)) 10 = some 0x40400000 :=
  ⟨fun h => ⟨(h.1 gA _ _ (issueAt (three 0x3C00 0 0) (fields 10 4 0 0 0x21)) (ready_at (by decide +kernel))).imp fun _ k => k.1,
    (h.2.1 gA _ _ (issueAt (three 0xC0200000 0 0) (fields 10 4 0 0 0x111)) (ready_at (by decide +kernel))).imp fun _ k => k.1,
    (h.2.2.1 gA _ _ (issueAt (three 3 0 0) (fields 10 4 0 0 0x01)) (ready_at (by decide +kernel))).imp fun _ k => k.1,
    (h.2.2.2 gA _ _ (issueAt (three 0 0 0) (fields 10 0 0 0 0)) (ready_at (by decide +kernel))).imp fun _ k => k.1⟩, by decide +kernel⟩

/-- As coreState, with thread 0 alone. -/
def one (regs : KMap (BitVec 32)) : State :=
  onCore { present := true, position := 0, blocks := [(1, { blockOf regs with groups := [(2, { threads := kset threads2 1 { exited := true }, regs := regs })] })] }

/-- The program counter of thread l of gA after a command. -/
def pcOf (o : Host.Outcome State Fault Refusal) (l : Nat) : Option (BitVec 64) :=
  match o with
  | .next t => some ((t.groupAt gA).thread l).pc
  | _ => none

/-- The cause with which gA's block ends after a command. -/
def causeOf (o : Host.Outcome State Fault Refusal) : Option (BitVec 8) :=
  match o with
  | .next t => match (t.block 3 1).phase with
    | .terminating c _ => some c
    | .running => none
  | _ => none

/-- As one, with register 4 of thread 0 in error: the word's number is ((block x 32 + group) x 32 + lane) x 256 + register. -/
def upsetState (double : Bool) : State := { one [(4, 9)] with upsets := [{ mem := .regFile, unit := 3, word := 278532, double := double }] }

-- CLASS 1 has no OP 63: head 1 + 63 x 16.
theorem test_reserved : (Obligations.ReservedBitsRaiseIllegalInstruction → Runs (.iadd gA { fields 10 4 6 0 0 with rsv := 1 }) (one []) ∧
      Runs (.nop gA ⟨fields 0 0 0 0 0, 0x3F1⟩) (one []) ∧ Runs (.mov gA (fields 10 4 0 0 0)) (upsetState true) ∧
      Runs (.mov gA (fields 10 4 0 0 0)) (upsetState false)) ∧
    causeOf (exec (.iadd gA { fields 10 4 6 0 0 with rsv := 1 }) (one [])) = some 0x08 ∧ causeOf (exec (.nop gA ⟨fields 0 0 0 0 0, 0x3F1⟩) (one [])) = some 0x08 ∧
    causeOf (exec (.mov gA (fields 10 4 0 0 0)) (upsetState true)) = some 0x0C ∧ regOf (exec (.mov gA (fields 10 4 0 0 0)) (upsetState false)) 10 = some 9 :=
  ⟨fun h => ⟨(h.1 _ _ _ _ _ _ (issueAt (one []) { fields 10 4 6 0 0 with rsv := 1 }) rfl (by decide +kernel) (by decide +kernel)).imp fun _ k => k.1,
    (h.2.1 gA 0x3F1 (fields 0 0 0 0 0) (one []) (issueAt (one []) (fields 0 0 0 0 0)) (by decide) (by decide +kernel) (by decide +kernel)).imp fun _ k => k.1,
    (h.2.2.1 gA (fields 10 4 0 0 0) (upsetState true) (issueAt (upsetState true) (fields 10 4 0 0 0)) (by decide +kernel) rfl (by decide +kernel) (by decide +kernel)
      (by decide +kernel) rfl (by decide +kernel) (by decide +kernel)).elim fun t k => k.elim fun _ k => ⟨t, k.1⟩,
    (h.2.2.2 gA (fields 10 4 0 0 0) (upsetState false) (issueAt (upsetState false) (fields 10 4 0 0 0)) { mem := .regFile, unit := 3, word := 278532 } (by decide +kernel) rfl
      (by decide +kernel) (by decide +kernel) (by decide +kernel) rfl rfl rfl rfl (by decide +kernel) (by decide +kernel) (by decide +kernel)).imp fun _ k => k.1⟩,
    by decide +kernel⟩

-- BRA by -2 instructions, CALL by 2, JMP and CALLR to 0x2000, JMP to 0x2001.
theorem test_control : (Obligations.ControlFlowTakesItsTargets → Runs (.bra gA (fields 0 0 0xFE 0xFF 0xFFFF)) (one []) ∧
      Runs (.call gA (fields 10 0 2 0 0)) (one []) ∧ Runs (.jmp gA (fields 0 4 0 0 0)) (one [(4, 0x2000)]) ∧
      Runs (.jmp gA (fields 0 4 0 0 0)) (one [(4, 0x2001)]) ∧ Runs (.callr gA (fields 10 4 0 0 0)) (one [(4, 0x2000)]) ∧
      Runs (.callr gA (fields 10 4 0 0 0)) (one [(4, 0x2001)])) ∧
    pcOf (exec (.bra gA (fields 0 0 0xFE 0xFF 0xFFFF)) (one [])) 0 = some 0xFF0 ∧ pcOf (exec (.call gA (fields 10 0 2 0 0)) (one [])) 0 = some 0x1010 ∧
    regOf (exec (.call gA (fields 10 0 2 0 0)) (one [])) 10 = some 0x1008 ∧ pcOf (exec (.jmp gA (fields 0 4 0 0 0)) (one [(4, 0x2000)])) 0 = some 0x2000 ∧
    causeOf (exec (.jmp gA (fields 0 4 0 0 0)) (one [(4, 0x2001)])) = some 7 :=
  ⟨fun h => ⟨(h.1 gA _ _ (issueAt (one []) (fields 0 0 0xFE 0xFF 0xFFFF)) (ready_at (by decide +kernel))).imp fun _ k => k.1,
    (h.2.1 gA _ _ (issueAt (one []) (fields 10 0 2 0 0)) (ready_at (by decide +kernel))).imp fun _ k => k.1,
    ((h.2.2.1 gA _ _ (issueAt (one [(4, 0x2000)]) (fields 0 4 0 0 0)) (ready_at (by decide +kernel))).1 (by decide +kernel)).imp fun _ k => k.1,
    ((h.2.2.1 gA _ _ (issueAt (one [(4, 0x2001)]) (fields 0 4 0 0 0)) (ready_at (by decide +kernel))).2 0 (by decide +kernel) (by decide +kernel)
      (by decide +kernel)).imp fun _ k => k.1,
    ((h.2.2.2 gA _ _ (issueAt (one [(4, 0x2000)]) (fields 10 4 0 0 0)) (ready_at (by decide +kernel))).1 (by decide +kernel)).imp fun _ k => k.1,
    ((h.2.2.2 gA _ _ (issueAt (one [(4, 0x2001)]) (fields 10 4 0 0 0)) (ready_at (by decide +kernel))).2 0 (by decide +kernel) (by decide +kernel)
      (by decide +kernel)).imp fun _ k => k.1⟩,
    by decide +kernel⟩


theorem test_exit : (Obligations.ExitYieldAndTrapTakeEffect → Runs (.exit gA (fields 0 0 0 0 0)) (one []) ∧ Runs (.yield gA (fields 0 0 0 0 0)) (one []) ∧
      Runs (.trap gA (fields 0 0 5 0 0)) (one []) ∧ Runs (.trap gA { fields 0 0 5 0 0 with pred := 0 }) (one [])) ∧
    gives (exec (.exit gA (fields 0 0 0 0 0)) (one [])) (fun t => ((t.groupAt gA).thread 0).exited) = true ∧
    causeOf (exec (.trap gA (fields 0 0 5 0 0)) (one [])) = some 0x0D ∧ pcOf (exec (.trap gA { fields 0 0 5 0 0 with pred := 0 }) (one [])) 0 = some 0x1008 :=
  ⟨fun h => ⟨(h.1 gA _ (one []) (issueAt (one []) (fields 0 0 0 0 0)) (ready_at (by decide +kernel)) (by decide +kernel) (fun _ => rfl) (fun _ => rfl)).imp fun _ k => k.1,
    (h.2.1 gA _ _ (issueAt (one []) (fields 0 0 0 0 0)) (ready_at (by decide +kernel))).imp fun _ k => k.1,
    ((h.2.2 gA _ _ (issueAt (one []) (fields 0 0 5 0 0)) (ready_at (by decide +kernel))).1 (by decide +kernel)).imp fun _ k => k.1,
    ((h.2.2 gA _ _ (issueAt (one []) { fields 0 0 5 0 0 with pred := 0 }) (ready_at (by decide +kernel))).2 (by decide +kernel)).imp fun _ k => k.1⟩,
    by decide +kernel⟩

/-- Thread 0 with its own local byte 16 at r4, and a value in r6. -/
def localAt (v : BitVec 32) : State := one [(4, 0x10000010), (6, v)]

-- A store of 0x8001 as two bytes, then a sign-extending load of it (LD with SEXT is opcode 9).
theorem test_local : (Obligations.LocalMemoryIsReadAndWritten → Runs (.ld gA 9 (fields 10 4 0 0 0)) (localAt 0) ∧ Runs (.st gA 1 (fields 0 4 6 0 0)) (localAt 0x8001)) ∧
    gives (exec (.st gA 1 (fields 0 4 6 0 0)) (localAt 0x8001)) (fun t => decide (cellsRead (t.core 3).lmem (2048 + 16) 4 = 0x8001)) = true ∧
    regOf (exec (.ld gA 9 (fields 10 4 0 0 0)) ((localAt 0).modCore 3 fun k => { k with lmem := [⟨2065, 0x80⟩] })) 10 = some 0xFFFF8000 :=
  ⟨fun h => ⟨(h.1 gA 9 _ _ (issueAt (localAt 0) (fields 10 4 0 0 0)) (fun _ => 16) (ready_at (by decide +kernel)) (by decide +kernel)
      (also_fourth (by unfold OwnLocal; decide +kernel) fun _ => local_at rfl)).imp fun _ k => k.1,
    (h.2 gA 1 _ _ (issueAt (localAt 0x8001) (fields 0 4 6 0 0)) (fun _ => 16) (ready_at (by decide +kernel)) (by decide +kernel) (by decide +kernel) (by decide +kernel)
      (also_third (by unfold OwnLocal; decide +kernel) fun _ => local_at rfl)).imp fun _ k => k.1⟩, by decide +kernel⟩

/-- Thread 0 whose r4 is a virtual address of a cached translation, to line 96 of set 0, which core 3 holds in state M. -/
def memAt (v : BitVec 32) : State :=
  let s := (one [(4, 0x20010), (6, v)]).modCore 3 fun k => { k with tlb := [{ vpage := 0x20, base := 0x3000, perms := 7, dirty := true }] }
  { s with caches := [(3, { lines := [(96 * 16, { line := 96, st := .m, data := 0x55 <<< 128 })] })] }

/-- Where the access of thread 0 leads. -/
def thePlace : List (Nat × Place) := [(0, .mem [{ lane := 0, from_ := 0, line := 96, pbmt := 0, o := 16, n := 4 }])]

/-- A result is ok with a value. -/
def okAs {σ ε α : Type} [DecidableEq α] (r : σ × Except ε α) (v : α) : Bool :=
  match r.2 with
  | .ok x => decide (x = v)
  | .error _ => false

theorem ok_of {σ ε α : Type} [DecidableEq α] {r : σ × Except ε α} {v : α} (h : okAs r v = true) : r = (r.1, .ok v) := by
  rcases r with ⟨a, _ | x⟩
  · simp [okAs] at h
  · simp only [okAs, decide_eq_true_eq] at h
    rw [h]

theorem test_memory : (Obligations.LinesOfMemoryAreReadAndWritten → Runs (.ld gA 2 (fields 10 4 0 0 0)) (memAt 0) ∧ Runs (.st gA 2 (fields 0 4 6 0 0)) (memAt 7)) ∧
    regOf (exec (.ld gA 2 (fields 10 4 0 0 0)) (memAt 0)) 10 = some 0x55 ∧
    gives (exec (.st gA 2 (fields 0 4 6 0 0)) (memAt 7)) (fun t => decide (((t.cache 3).find 3 96).map (fun x => x.2.data) = some (7 <<< 128))) = true :=
  ⟨fun h => ⟨(h.1 gA 2 (fields 10 4 0 0 0) (memAt 0) (issueAt (memAt 0) (fields 10 4 0 0 0)) _ thePlace _ [((96, 0), { data := 0x55 <<< 128, poison := 0 })]
      (ready_at (by decide +kernel)) (by decide +kernel) (ok_of (by decide +kernel)) (ok_of (by decide +kernel)) (fun _ _ => local_at (by decide +kernel))
      (by decide +kernel)).imp fun _ k => k.1,
    (h.2 gA 2 (fields 0 4 6 0 0) (memAt 7) (issueAt (memAt 7) (fields 0 4 6 0 0)) _ thePlace _
      (ready_at (by decide +kernel)) (by decide +kernel) (by decide +kernel) (ok_of (by decide +kernel)) (by unfold thePlace; simp) (ok_of (by decide +kernel))).imp fun _ k => k.1⟩, by decide +kernel⟩

theorem test_atomic : (Obligations.AtomicsUpdateAndReturnTheOldValue → Runs (.atomAdd gA (fields 10 4 6 0 0x10)) (localAt 7) ∧
      Runs (.atomAdd gA (fields 10 4 6 0 0x10)) (localAt 7)) ∧
    gives (exec (.atomAdd gA (fields 10 4 6 0 0x10)) (localAt 7)) (fun t => decide (cellsRead (t.core 3).lmem (2048 + 16) 4 = 7)) = true :=
  ⟨fun h => ⟨(h.1 0 gA (fields 10 4 6 0 0x10) (localAt 7) (issueAt (localAt 7) (fields 10 4 6 0 0x10)) _ [(0, 0)]
      (ready_at (by decide +kernel)) (by decide +kernel) (by decide +kernel) (by decide +kernel) (ok_of (by decide +kernel))).imp fun _ k => k.1,
    (h.2 0 gA (fields 10 4 6 0 0x10) (localAt 7) (issueAt (localAt 7) (fields 10 4 6 0 0x10)) 0 16 (ready_at (by decide +kernel)) (by decide +kernel)
      (by decide +kernel) (by decide +kernel) (local_at rfl) (by decide +kernel) (by unfold OwnLocal; decide +kernel) (by decide +kernel) (by decide +kernel) (by decide +kernel)).imp fun _ k => k.1⟩,
    by decide +kernel⟩

/-- Threads 0 and 1 with the mask 3 of a group operation in r8. -/
def pairOf (a b : BitVec 32) : State := coreState [(4, a), (6, b), (8, 3), (260, b), (262, a), (264, 3)]

-- BALLOT of p1, which both threads hold; SHFL.XOR by 1 of r4; GRED.ADD of r4 (u32: ATYPE 0).
theorem test_group : (Obligations.GroupOperationsGiveEachThreadItsResult → Runs (.ballot gA (fields 10 1 0 8 0)) (pairOf 5 1) ∧
      Runs (.gred gA (fields 10 4 0 8 0)) (pairOf 5 1)) ∧
    regOf (exec (.ballot gA (fields 10 1 0 8 0)) (pairOf 5 1)) 10 = some 3 ∧ regOf (exec (.shflXor gA (fields 10 4 6 8 0)) (pairOf 5 1)) 10 = some 1 ∧
    regOf (exec (.gred gA (fields 10 4 0 8 0)) (pairOf 5 1)) 10 = some 6 ∧ predOf (exec (.voteAll gA (fields 2 1 0 8 0)) (pairOf 5 1)) 2 = some true :=
  ⟨fun h => ⟨(h 2 gA (fields 10 1 0 8 0) (pairOf 5 1) (issueAt (pairOf 5 1) (fields 10 1 0 8 0)) (ready_at (by decide +kernel)) (by decide +kernel)
      (by decide +kernel) (by decide +kernel)).imp fun _ k => k.1,
    (h 7 gA (fields 10 4 0 8 0) (pairOf 5 1) (issueAt (pairOf 5 1) (fields 10 4 0 8 0)) (ready_at (by decide +kernel)) (by decide +kernel)
      (by decide +kernel) (by decide +kernel)).imp fun _ k => k.1⟩, by decide +kernel⟩

/-- Thread 0 with the address 0x100 at r4 and the module 5 of its own pod in r8, to which link 0 leads. -/
def farState : State :=
  (one [(4, 0x100), (6, 9), (8, 5)]).modTile 0 fun k => { k with modRoutes := [(5, 1)] }

theorem far_own : farState.ownDst ((issueAt farState (fields 10 4 6 8 0)).group.reg 0 8) = false := by decide +kernel

theorem far_route (fr : Frame) (h : fr.dst = (issueAt farState (fields 10 4 6 8 0)).group.reg 0 8) :
    ∃ k, farState.routeOf 0 fr = some k ∧ (farState.link k).peerStopped = false := by
  refine ⟨0, ?_, rfl⟩
  have h : fr.dst = 5 := h.trans (by decide +kernel)
  have hn : fld (kget (0 : BitVec 32) (farState.tile 0).modRoutes (fld (5 : BitVec 32) 0 7)) 0 3 = 1 := by decide +kernel
  have hp : fld (5 : BitVec 32) 7 10 = farState.hub.pod.toNat := by decide +kernel
  unfold State.routeOf
  simp only [h, if_pos hp, hn, Nat.mod_one]
  decide +kernel

theorem test_remote : (Obligations.RemoteInstructionsSendTheirFrame → Runs (.rrd gA 2 (fields 10 4 0 8 0)) farState ∧ Runs (.rwr gA 2 (fields 0 4 6 8 0)) farState ∧
      Runs (.ratom gA 2 (fields 10 4 6 8 0x80)) farState ∧ Runs (.rmsg gA 4 (fields 0 4 12 8 0)) farState) ∧
    gives (exec (.rrd gA 2 (fields 10 4 0 8 0)) farState) (fun t => decide ((t.link 0).txq.map (fun f => (f.typ, f.dst, f.size)) = [(1, 5, 2)])) = true :=
  ⟨fun h => ⟨(h.1 gA 2 (fields 10 4 0 8 0) farState (issueAt farState (fields 10 4 0 8 0)) 0 0 (ready_at (by decide +kernel)) (by decide +kernel) (by decide +kernel)
      (by decide +kernel) (by decide +kernel) (by decide +kernel) far_own far_route).elim fun t k => k.elim fun _ k => k.elim fun _ k => ⟨t, k.1⟩,
    (h.2.1 gA 2 (fields 0 4 6 8 0) farState (issueAt farState (fields 0 4 6 8 0)) 0 0 (ready_at (by decide +kernel)) (by decide +kernel) (by decide +kernel)
      (by decide +kernel) (by decide +kernel) (by decide +kernel) far_own far_route).elim fun t k => k.elim fun _ k => k.elim fun _ k => ⟨t, k.1⟩,
    (h.2.2.1 gA 2 (fields 10 4 6 8 0x80) farState (issueAt farState (fields 10 4 6 8 0x80)) 0 0 (ready_at (by decide +kernel)) (by decide +kernel) (by decide +kernel)
      (by decide +kernel) (by decide +kernel) (by decide +kernel) far_own far_route).elim fun t k => k.elim fun _ k => k.elim fun _ k => ⟨t, k.1⟩,
    (h.2.2.2 gA 4 (fields 0 4 12 8 0) farState (issueAt farState (fields 0 4 12 8 0)) 0 0 (ready_at (by decide +kernel)) (by decide +kernel) (by decide +kernel)
      (by decide +kernel) (by decide +kernel) (by decide +kernel) far_own far_route).elim fun t k => k.elim fun _ k => k.elim fun _ k => ⟨t, k.1⟩⟩, by decide +kernel⟩

/-- Group 2 at a barrier whose mask, in r4, is groups 1 and 2, with group 1 still running; its team has one more member, on core 4. -/
def barState : State :=
  let g1 : Group := { threads := kset threads2 1 { exited := true } }
  let s := (one [(4, 6)]).modCore 3 fun k => { k with blocks := [(1, { kget {} k.blocks 1 with groups := (1, g1) :: (kget {} k.blocks 1).groups, teamBlocks := 2 })] }
  { s with teams := [(0, { members := [(3, 1), (4, 0)] })], cores := s.cores ++ [(4, { present := true, position := 1, blocks := [(0, { groups := [(0, g1)], groupCount := 1 })] })] }

-- The mask of BAR.TEAM: members 0 and 1.
def teamBarState : State := barState.modCore 3 fun k => { k with blocks := [(1, { kget {} k.blocks 1 with groups := [(2, { threads := kset threads2 1 { exited := true }, regs := [(4, 3)] })] })] }

/-- Group 1 waits at barrier 3, whose phase groups 1 and 2 share. -/
def lastState : State := barState.modCore 3 fun k => { k with blocks := [(1, { kget {} k.blocks 1 with bars := [(3, { mask := 6, open_ := true })], groups := (1, { threads := kset (kset threads2 1 { exited := true }) 0 { wait := .blockBarrier 3 } }) :: (kget {} (one [(4, 6)] |>.core 3).blocks 1).groups })] }

/-- The other member waits at team barrier 1. -/
def teamLastState : State :=
  { (teamBarState.modCore 4 fun k => { k with blocks := [(0, { groups := [(0, { threads := kset (kset threads2 1 { exited := true }) 0 { wait := .teamBarrier 1 } })], groupCount := 1 })] }) with
    teams := [(0, { members := [(3, 1), (4, 0)], bars := [(1, { mask := 3, open_ := true })] })] }

/-- One slot is open. -/
theorem others_closed {bars : KMap BarSlot} {n : Nat} {x : BarSlot} (h : bars = [(n, x)]) : ∀ k, k ≠ n → (kget {} bars k).open_ = false := by
  subst h
  intro k hk
  simp only [kget, if_neg hk]

theorem bits_all {m : BitVec 32} {p : Nat → Prop} (h : ∀ k, k < 32 → m.getLsbD k = true → p k) : ∀ k, m.getLsbD k = true → p k :=
  fun k hk => h k (BitVec.lt_of_getLsbD hk) hk

theorem members_all {ms : List (Nat × Nat)} {m : BitVec 32} {q : Nat × Nat → Prop} (h : ∀ p ∈ ms, q p) : ∀ k p, m.getLsbD k = true → ms[k]? = some p → q p :=
  fun _ p _ hk => h p (List.mem_of_getElem? hk)

theorem test_barrier : (Obligations.BarriersFencesAndTokenWaits → Runs (.barBlock gA (fields 0 4 3 0 0)) barState ∧ Runs (.barTeam gA (fields 0 4 1 0 0)) teamBarState ∧
      Runs (.barBlock gA (fields 0 4 3 0 0)) lastState ∧ Runs (.barTeam gA (fields 0 4 1 0 0)) teamLastState ∧
      Runs (.fence gA (fields 0 0 0xF 0 0xC000)) (one []) ∧ Runs (.twait gA (fields 0 4 0 0 0)) (one [(4, 0x40)]) ∧
      Runs (.twait gA (fields 0 4 0 0 0)) ((one [(4, 0x40)]).modCore 3 fun k => { k with tokens := [(0, { busy := true, used := true, block := 1 })] })) ∧
    gives (exec (.barBlock gA (fields 0 4 3 0 0)) barState) (fun t => decide (((t.groupAt gA).thread 0).wait = .blockBarrier 3)) = true ∧
    gives (exec (.barTeam gA (fields 0 4 1 0 0)) teamBarState) (fun t => decide (((t.groupAt gA).thread 0).wait = .teamBarrier 1)) = true ∧
    pcOf (exec (.barBlock gA (fields 0 4 3 0 0)) lastState) 0 = some 0x1008 ∧ pcOf (exec (.barTeam gA (fields 0 4 1 0 0)) teamLastState) 0 = some 0x1008 ∧
    pcOf (exec (.twait gA (fields 0 4 0 0 0)) (one [(4, 0x40)])) 0 = some 0x1008 :=
  ⟨fun h => ⟨(h.1 gA (fields 0 4 3 0 0) barState (issueAt barState (fields 0 4 3 0 0)) 1 0 (ready_at (by decide +kernel)) (by decide +kernel) (fun _ => rfl) (fun _ => rfl)
      (by decide +kernel) (by decide +kernel) (by decide +kernel) (by decide +kernel) (by decide +kernel) (by decide +kernel)).imp fun _ k => k.1,
    (h.2.1 gA (fields 0 4 1 0 0) teamBarState (issueAt teamBarState (fields 0 4 1 0 0)) 4 0 1 0 (ready_at (by decide +kernel)) (by decide +kernel) (fun _ => rfl)
      (fun _ => rfl) (by decide +kernel) (by decide +kernel) (by decide +kernel) rfl (by decide +kernel) (by decide +kernel) (by decide +kernel)
      (by decide +kernel)).imp fun _ k => k.1,
    (h.2.2.1 gA (fields 0 4 3 0 0) lastState (issueAt lastState (fields 0 4 3 0 0)) (ready_at (by decide +kernel)) (by unfold NoGather; decide +kernel)
      (others_closed (x := { mask := 6, open_ := true }) (by decide +kernel)) (fun _ => rfl) (by decide +kernel) (by decide +kernel) (by decide +kernel) (bits_all (by decide +kernel)) (by decide +kernel)
      (by decide +kernel)).imp fun _ k => k.1,
    (h.2.2.2.1 gA (fields 0 4 1 0 0) teamLastState (issueAt teamLastState (fields 0 4 1 0 0)) (ready_at (by decide +kernel)) (by unfold NoGather; decide +kernel)
      (fun _ => rfl) (others_closed (x := { mask := 3, open_ := true }) (by decide +kernel)) (by decide +kernel) (by decide +kernel) (by decide +kernel) (by decide +kernel) (members_all (by decide +kernel))
      (by decide +kernel) (by decide +kernel) (by decide +kernel) (by decide +kernel) (by decide +kernel)).imp fun _ k => k.1,
    (h.2.2.2.2.1 gA (fields 0 0 0xF 0 0xC000) (one []) (issueAt (one []) (fields 0 0 0xF 0 0xC000)) (ready_at (by decide +kernel)) (by decide +kernel)).imp fun _ k => k.1,
    ((h.2.2.2.2.2 gA (fields 0 4 0 0 0) (one [(4, 0x40)]) (issueAt (one [(4, 0x40)]) (fields 0 4 0 0 0)) 0 [] (ready_at (by decide +kernel)) (by decide +kernel)).1
      (by decide +kernel)).imp fun _ k => k.1,
    ((h.2.2.2.2.2 gA (fields 0 4 0 0 0) ((one [(4, 0x40)]).modCore 3 fun k => { k with tokens := [(0, { busy := true, used := true, block := 1 })] })
      (issueAt ((one [(4, 0x40)]).modCore 3 fun k => { k with tokens := [(0, { busy := true, used := true, block := 1 })] }) (fields 0 4 0 0 0)) 0 []
      (ready_at (by decide +kernel)) (by decide +kernel)).2 (by decide +kernel)).imp fun _ k => k.1⟩, by decide +kernel⟩

-- The first token of a core: slot 0, generation 2 (log 4).
theorem test_engine : (Obligations.EngineInstructionsEnterTheirQueue → Runs (.mma gA (fields 10 4 0 0 0)) (one [(4, 64)]) ∧ Runs (.tile gA (fields 10 4 0 0 0)) (one [(4, 64)])) ∧
    gives (exec (.mma gA (fields 10 4 0 0 0)) (one [(4, 64)])) (fun t => decide ((t.core 3).matrixQ.map (fun o => o.desc) = [64])) = true ∧
    gives (exec (.tile gA (fields 10 4 0 0 0)) (one [(4, 64)])) (fun t => decide ((kget [] (t.core 3).tileQ 0).map (fun o => o.desc) = [64])) = true :=
  ⟨fun h => ⟨((h gA (fields 10 4 0 0 0) (one [(4, 64)]) (issueAt (one [(4, 64)]) (fields 10 4 0 0 0)) 0 [] 0 (by decide +kernel) (by decide +kernel) (by decide +kernel)).1
      (ready_at (by decide +kernel)) (by decide +kernel)).elim fun t k => k.elim fun _ k => ⟨t, k.1⟩,
    ((h gA (fields 10 4 0 0 0) (one [(4, 64)]) (issueAt (one [(4, 64)]) (fields 10 4 0 0 0)) 0 [] 0 (by decide +kernel) (by decide +kernel) (by decide +kernel)).2
      (ready_at (by decide +kernel)) (by decide +kernel)).elim fun t k => k.elim fun _ k => ⟨t, k.1⟩⟩, by decide +kernel⟩

/-! ## Events of the compute core -/

/-- Core 3 with one block at position 1, after long enough for every timer. -/
def blockState (b : Block) : State :=
  let s := onCore { present := true, position := 0, blocks := [(1, b)], barrierExp := 20 }
  { s with dies := [(0, { pll := true, arith64 := 64 * 2 ^ 30 })], ticks := 2 ^ 30 }

/-- A block that is ending and has no record to write, and one whose threads have all ended. -/
def endingBlock : Block := { phase := .terminating 0x0D 0 }
def endedBlock : Block := { groups := [(0, { threads := (List.range 32).map fun l => (l, ({ exited := true } : Thread)) })], groupCount := 1 }

/-- Two members of team 0 whose threads have ended; the second still waits for the answer of another module, or for nothing. -/
def endedTeam (remote : Nat) : State :=
  { blockState { endedBlock with teamBlocks := 2 } with
    cores := [(3, { present := true, blocks := [(1, { endedBlock with teamBlocks := 2 })] }),
      (4, { present := true, blocks := [(0, { endedBlock with teamBlocks := 2, member := 1, remote := remote })] })]
    teams := [(0, { members := [(3, 1), (4, 0)] })] }

theorem cores_wf {cs : KMap Core} {s : State} (h : s.cores = cs) (k : ∀ p ∈ cs, kwf p.2.blocks = true) : ∀ c, kwf (s.core c).blocks = true := by
  intro c
  unfold State.core
  rw [h]
  clear h
  induction cs with
  | nil => rfl
  | cons p cs ih =>
    obtain ⟨j, v⟩ := p
    simp only [kget]
    split
    · exact k (j, v) List.mem_cons_self
    · exact ih fun q hq => k q (List.mem_cons_of_mem _ hq)

-- BLOCK_END of one member does nothing while another is not done, and releases both when it is.
theorem test_block_end : (Obligations.BlocksAreReleasedAtTheirEnd → Runs (.blockTerminate 3 1) (blockState endingBlock) ∧ Runs (.blockEnd 3 1) (blockState endedBlock) ∧
      Runs (.blockEnd 3 1) (endedTeam 0) ∧ Runs (.blockEnd 3 1) (endedTeam 1)) ∧
    gives (exec (.blockTerminate 3 1) (blockState endingBlock)) (fun t => (t.core 3).blocks.isEmpty) = true ∧
    gives (exec (.blockEnd 3 1) (blockState endedBlock)) (fun t => (t.core 3).blocks.isEmpty) = true ∧
    gives (exec (.blockEnd 3 1) (endedTeam 0)) (fun t => (t.core 3).blocks.isEmpty && (t.core 4).blocks.isEmpty) = true ∧
    gives (exec (.blockEnd 3 1) (endedTeam 1)) (fun t => !(t.core 3).blocks.isEmpty) = true :=
  ⟨fun h => ⟨(h.1 3 1 (blockState endingBlock) endingBlock 0x0D 0 (by unfold TablesOk; decide +kernel) rfl rfl rfl rfl (by decide +kernel) rfl (by decide +kernel)).imp fun _ k => k.1,
    (h.2.1 3 1 (blockState endedBlock) endedBlock (by unfold TablesOk; decide +kernel) rfl rfl (by decide) (by decide +kernel) rfl rfl (by decide +kernel)).imp fun _ k => k.1,
    ((h.2.2 3 1 (endedTeam 0) { endedBlock with teamBlocks := 2 } (by unfold State.has; decide +kernel) (by decide +kernel) (by decide)).1 (by decide +kernel) (cores_wf rfl (by decide +kernel))).imp fun _ k => k.1,
    ⟨_, (h.2.2 3 1 (endedTeam 1) { endedBlock with teamBlocks := 2 } (by unfold State.has; decide +kernel) (by decide +kernel) (by decide)).2 (4, 0, { endedBlock with teamBlocks := 2, member := 1, remote := 1 })
      (by decide +kernel) (by decide +kernel)⟩⟩,
    by decide +kernel⟩

/-- A load of bytes 8 to 11 of the block of core 4, by thread 0 of gA. -/
def loadReq : XbarReq := { core := 3, block := 1, group := 2, tcore := 4, tblock := 0, parts := [{ off := 8 }], dst := some 10 }

/-- A block with a barrier phase, a group operation and a local request that nobody answers. -/
def waitingBlock : Block := { blockOf [] with bars := [(0, { open_ := true, mask := 6 })] }
def gatheringBlock : Block := { blockOf [] with groups := [(2, { threads := threads2, gathers := [{ fields := fields 0 0 0 0 0 }] })] }
def askingState : State :=
  { blockState { blockOf [] with xbarOut := 1 } with xbar := [(0, loadReq)] }

theorem test_core_timers : (Obligations.CoreTimersFaultTheirBlock → Runs (.barrierTimeout 3) (blockState waitingBlock) ∧
      Runs (.groupOpTimeout 3) (blockState gatheringBlock) ∧ Runs (.remoteLocalTimeout 0) askingState ∧ Runs (.blockTerminationTimeout 3 1) (blockState endingBlock)) ∧
    causeOf (exec (.barrierTimeout 3) (blockState waitingBlock)) = some 0x01 ∧ causeOf (exec (.groupOpTimeout 3) (blockState gatheringBlock)) = some 0x03 ∧
    causeOf (exec (.remoteLocalTimeout 0) askingState) = some 0x0A ∧
    gives (exec (.blockTerminationTimeout 3 1) (blockState endingBlock)) (fun t => decide ((t.core 3).retiring = some 1)) = true :=
  ⟨fun h => ⟨(h.1 3 (blockState waitingBlock) 1 waitingBlock 0 rfl rfl (by decide) rfl (by decide +kernel)).imp fun _ k => k.1,
    (h.2.1 3 (blockState gatheringBlock) 1 gatheringBlock 2 { threads := threads2, gathers := [{ fields := fields 0 0 0 0 0 }] } rfl rfl rfl (by decide +kernel)).imp fun _ k => k.1,
    (h.2.2.1 0 askingState loadReq { blockOf [] with xbarOut := 1 } (by decide +kernel) rfl rfl
      rfl rfl rfl rfl (by decide +kernel)).imp fun _ k => k.1,
    (h.2.2.2 3 1 (blockState endingBlock) endingBlock 0x0D 0 rfl rfl (by decide +kernel) rfl).imp fun _ k => k.1⟩, by decide +kernel⟩

/-- A request, answered or not, that core 3 makes of the block of core 4; extra requests of the same instruction. -/
def teamState (x : XbarReq) (more : KMap XbarReq) : State :=
  let s := onCore { present := true, blocks := [(1, { blockOf [] with xbarOut := 1 })] }
  { s with cores := s.cores ++ [(4, { present := true, blocks := [(0, { localBytes := 1024, localBase := 1024 })], lmem := [⟨1032, 0x2A⟩] })]
           xbar := (0, x) :: more }

/-- A store of two threads to the same bytes, and an addition to them. -/
def storeReq : XbarReq := { loadReq with kind := .store, parts := [{ off := 8, data := (0x11, 0) }, { lane := 1, off := 8, data := (0x22, 0) }], dst := none }
def addReq : XbarReq := { loadReq with kind := .atomic 0 0, parts := [{ off := 8, data := (1, 0) }] }

theorem team_served {x : XbarReq} (h : Obligations.TeamLocalRequestsAreServedAndAnswered)
    (h0 : x.here = false) (h1 : (teamState x []).xbarBehind 0 x = false) (h2 : x.done = none) (h3 : (x.tcore, x.tblock, x.team) = (4, 0, 0))
    (h4 : x.kind ≠ .store → ∀ p ∈ x.parts, ((teamState x []).core 4).localPoison { localBytes := 1024, localBase := 1024 } p.off p.size = none) :
    Runs (.teamLocalAccess 0) (teamState x []) := by
  simp only [Prod.mk.injEq] at h3
  exact (h.1 0 (teamState x []) x { localBytes := 1024, localBase := 1024 } rfl h2 (fun y hy _ => by rw [List.mem_singleton.mp hy]; exact h0)
    (by rw [h3.1]; exact (rfl : (teamState x []).coreRuns 4 = true)) h1 (by rw [h3.1, h3.2.1]; rfl) h3.2.2.symm
    (fun u hu => absurd hu List.not_mem_nil) (by rw [h3.1]; exact h4) (by rw [h3.1]; rfl)).elim fun t k => k.elim fun _ k => ⟨t, k.1⟩

theorem test_team_local : (Obligations.TeamLocalRequestsAreServedAndAnswered → Runs (.teamLocalAccess 0) (teamState loadReq []) ∧
      Runs (.teamLocalAccess 0) (teamState storeReq []) ∧ Runs (.teamLocalAccess 0) (teamState addReq []) ∧
      Runs (.teamLocalResponse 0) (teamState { loadReq with done := some [0x2A] } []) ∧
      Runs (.teamLocalResponse 0) (teamState { loadReq with done := some [0x2A] } [(1, loadReq)])) ∧
    gives (exec (.teamLocalAccess 0) (teamState loadReq [])) (fun t => decide ((kfind t.xbar 0).map (·.done) = some (some [0x2A]))) = true ∧
    gives (exec (.teamLocalAccess 0) (teamState storeReq [])) (fun t => decide (cellsRead (t.core 4).lmem 1032 4 = 0x22)) = true ∧
    gives (exec (.teamLocalAccess 0) (teamState addReq [])) (fun t => decide (cellsRead (t.core 4).lmem 1032 4 = 0x2B)) = true ∧
    regOf (exec (.teamLocalResponse 0) (teamState { loadReq with done := some [0x2A] } [])) 10 = some 0x2A ∧
    regOf (exec (.teamLocalResponse 0) (teamState { loadReq with done := some [0x2A] } [(1, loadReq)])) 10 = some 0 :=
  ⟨fun h => ⟨team_served h rfl (by decide +kernel) rfl rfl (by decide +kernel), team_served h rfl (by decide +kernel) rfl rfl (by decide +kernel),
    team_served h rfl (by decide +kernel) rfl rfl (by decide +kernel),
    ((h.2.1 0 (teamState { loadReq with done := some [0x2A] } []) { loadReq with done := some [0x2A] } { blockOf [] with xbarOut := 1 } [0x2A]
      (by decide +kernel) rfl rfl rfl rfl rfl rfl (by unfold NoGather; decide +kernel) (fun _ => rfl) (fun _ => rfl)).1 (by decide +kernel)).imp fun _ k => k.1,
    ((h.2.1 0 (teamState { loadReq with done := some [0x2A] } [(1, loadReq)]) { loadReq with done := some [0x2A] } { blockOf [] with xbarOut := 1 } [0x2A]
      (by decide +kernel) rfl rfl rfl rfl rfl rfl (by unfold NoGather; decide +kernel) (fun _ => rfl) (fun _ => rfl)).2 (1, loadReq) (by decide +kernel) rfl (by decide) rfl).imp
      fun _ k => k.1⟩, by decide +kernel⟩

/-- An addition of threads of core 3 to bytes of core 4's block and, on a higher address, of their own block. -/
def ownReq : XbarReq := { addReq with here := true, tcore := 3, tblock := 1, parts := [{ lane := 1, off := 16, data := (5, 0) }] }
def ownState : State := teamState addReq [(1, ownReq)]

theorem test_own_update : (Obligations.TeamLocalRequestsAreServedAndAnswered → Runs (.teamLocalAccess 0) ownState) ∧
    gives (exec (.teamLocalAccess 0) ownState) (fun t => decide (cellsRead (t.core 4).lmem 1032 4 = 0x2B) &&
      decide (cellsRead (t.core 3).lmem 2064 4 = 5) && decide ((kfind t.xbar 1).map (·.back) = some true)) = true :=
  ⟨fun h => (h.2.2 0 1 ownState addReq ownReq { localBytes := 1024, localBase := 1024 } { blockOf [] with xbarOut := 1 }
      { lane := 1, off := 16, data := (5, 0) } 0 0 rfl Nat.one_pos rfl rfl rfl rfl rfl rfl rfl rfl rfl rfl rfl (by decide +kernel)
      (by decide +kernel) rfl rfl (of_decide_eq_true rfl) rfl rfl rfl (by unfold NoGather; decide +kernel) (fun _ => rfl) (fun _ => rfl) rfl
      (of_decide_eq_true rfl) (by decide +kernel) (by decide +kernel)).imp fun _ k => k.1, by decide +kernel⟩

/-- A code-object header (Table 4.18) of one group and one block a team, without local memory; flags at byte 8. -/
def header0 (flags : Nat) : BitVec 512 :=
  BitVec.ofNat 512 (0x32544650 + 1 * 2 ^ 32 + 64 * 2 ^ 48 + flags * 2 ^ 64 + 7 * 2 ^ 96 + 1 * 2 ^ 112 + 1 * 2 ^ 120 + 64 * 2 ^ 160)

/-- A launch of one team, running for queue 1 of context 1, whose partition is die 0. -/
def launch0 (flags : Nat) : Launch := { header := header0 flags, cellFirst := 0, cellCount := 1 }
def launchRun (flags : Nat) : Run := { stage := .running, launches := [launch0 flags] }
def launchState (flags : Nat) : State :=
  { onCore {} with cores := (List.range 8).map fun c => (c, ({ present := true, sections := [(0, { use := .localMem })] } : Core)), partitions := [(0, { dies := 1 })]
                   contexts := [(1, { live := true, first := some 0 })], queues := [(1, { live := true, context := 1, run := some (launchRun flags) })] }
def placing0 (flags : Nat) : Placing := { queue := 1, run := launchRun flags, n := 0, launch := launch0 flags, ctx := 1 }

theorem some_getD {α : Type} {o : Option α} {d : α} (h : o.isSome = true) : o = some (o.getD d) := by
  cases o with
  | none => simp at h
  | some x => rfl

theorem test_place : (Obligations.TeamsArePlacedOnTheirCores → Runs (.teamPlace 1 0 0 [2]) (launchState 0) ∧ Runs (.cooperativeStart 1 0 [(0, [2])]) (launchState 4)) ∧
    gives (exec (.teamPlace 1 0 0 [2]) (launchState 0)) (fun t => decide ((t.core 2).blocks.length = 1)) = true ∧
    gives (exec (.cooperativeStart 1 0 [(0, [2])]) (launchState 4)) (fun t => decide ((t.core 2).blocks.length = 1)) = true :=
  ⟨fun h => ⟨(h.1 1 0 0 [2] (launchState 0) (placing0 0) 0 rfl (by decide +kernel) (by decide +kernel) (by decide +kernel)).elim fun t k => k.elim fun _ k => ⟨t, k.1⟩,
    (h.2 1 0 [(0, [2])] (launchState 4) (placing0 4) 0 _ rfl (by decide +kernel) (by decide +kernel) (some_getD (d := {}) (by decide +kernel))).imp fun _ k => k.1⟩, by decide +kernel⟩

theorem test_store : (Obligations.LocalStoreAndInstructionCacheFollowTheirEvents →
      Runs (.localSectionConvert 3 11) (onCore { sections := [(11, { use := .toLocal 0 })] }) ∧
      Runs (.localSectionReturn 3 11) ((blockState {}).modCore 3 fun k => { k with sections := [(11, { use := .localMem })] }) ∧
      Runs (.icacheMiss 3 0 0 0x80) (onCore { icache := [(1, 7)] })) ∧
    gives (exec (.localSectionReturn 3 11) ((blockState {}).modCore 3 fun k => { k with sections := [(11, { use := .localMem })] }))
      (fun t => decide ((kget {} (t.core 3).sections 11).use = .way)) = true :=
  ⟨fun h => ⟨(h.1 3 11 (onCore { sections := [(11, { use := .toLocal 0 })] }) 0 rfl (by decide +kernel)).imp fun _ k => k.1,
    (h.2.1 3 11 ((blockState {}).modCore 3 fun k => { k with sections := [(11, { use := .localMem })] }) rfl (by decide +kernel) (by decide +kernel)).imp fun _ k => k.1,
    (h.2.2 3 0 0 0x80 (onCore { icache := [(1, 7)] }) (1, 7) (by decide +kernel) (by decide +kernel)).imp fun _ k => k.1⟩, by decide +kernel⟩

/-- Die 0 with region 0 in a state of Table 1.7. -/
def regionState (p : RegionPower) : State := { ticks := 20000, dies := [(0, { pll := true, regions := [(0, p)] })] }
def gatedState : State := { dies := [(0, { pll := true, regions := (List.range 4).map fun r => (r, RegionPower.powerGated) })] }

theorem test_low_power : (Obligations.LowPowerStatesFollowTheirEvents → Runs (.quarterClockGate 3 0) (blockState {}) ∧ Runs (.regionClockGate 0 0) (regionState .on) ∧
      Runs (.regionPowerGate 0 ⟨0, false⟩) (regionState .clockGated) ∧ Runs (.regionPowerGate 0 ⟨0, true⟩) (blockState {}) ∧ Runs (.diePllOff 0) gatedState ∧ Runs (.regionWakeComplete 0 0) (regionState (.waking 0 false)) ∧
      Runs (.regionWakeTimeout 0 0) (regionState (.waking 0 false)) ∧ Runs (.coreRetired 3) (onCore { present := true, retiring := some 1 })) ∧
    gives (exec (.regionPowerGate 0 ⟨0, true⟩) (blockState {})) (fun t => decide ((t.core 3).retiring = some 3)) = true ∧
    gives (exec (.diePllOff 0) gatedState) (fun t => !(t.die 0).pll) = true ∧
    gives (exec (.regionWakeTimeout 0 0) (regionState (.waking 0 false))) (fun t => decide (kget .on (t.die 0).regions 0 = .waking 20000 true)) = true ∧
    gives (exec (.coreRetired 3) (onCore { present := true, retiring := some 1 })) (fun t => decide ((t.core 3).position = 32)) = true :=
  ⟨fun h => ⟨(h.1 3 0 (blockState {}) (by decide +kernel)).imp fun _ k => k.1,
    (h.2.1 0 0 (regionState .on) (by decide +kernel) rfl).imp fun _ k => k.1,
    (h.2.2.1 0 0 (regionState .clockGated) (by decide +kernel) (.inr rfl)).imp fun _ k => k.1,
    (h.2.2.2.1 0 0 (blockState {})).imp fun _ k => k.1,
    (h.2.2.2.2.1 0 gatedState (by decide +kernel)).imp fun _ k => k.1,
    (h.2.2.2.2.2.1 0 0 (regionState (.waking 0 false)) 0 false rfl).1.imp fun _ k => k.1,
    ((h.2.2.2.2.2.1 0 0 (regionState (.waking 0 false)) 0 false rfl).2 rfl (by decide +kernel)).imp fun _ k => k.1,
    (h.2.2.2.2.2.2 3 (onCore { present := true, retiring := some 1 }) 1 32 rfl rfl (by decide +kernel) (by decide) rfl).imp fun _ k => k.1⟩, by decide +kernel⟩

/-! ## The engines -/

/-- A matrix descriptor (Table 6.2): one row of A and of B of four INT8 elements, no C; A at 64, B at 128, D at 192. -/
def matCopy : BitVec 512 :=
  BitVec.ofNat 512 (1 + 0xC * 2 ^ 16 + 0xC * 2 ^ 24 + 0xE * 2 ^ 32 + 0x10 * 2 ^ 40 + 4 * 2 ^ 64 + 64 * 2 ^ 96 + 64 * 2 ^ 112 + 64 * 2 ^ 128 + 128 * 2 ^ 160 +
    192 * 2 ^ 256 + 64 * 2 ^ 336)

/-- Core 3 with that instruction at a stage, its descriptor in local memory, and the elements 1, 2, 3, 4 and 1, 1, 1, 1. -/
def matOp (stage : EngineStage) : EngineOp := { token := 0x80, block := 1, copy := matCopy, stage := stage }
def matState (copy : BitVec 512) (stage : EngineStage) : State :=
  (blockState { blockOf [] with localBase := 0 }).modCore 3 fun k =>
    { k with matrixQ := [matOp stage], tokens := [(0, { gen := 2, busy := true, used := true, block := 1 })]
             lmem := cellsWrite (cellsWrite (cellsWrite [] 0 (leBytes 64 copy.toNat)) 64 [1, 2, 3, 4]) 128 [1, 1, 1, 1] }

/-- The same with a double-bit error in the accumulator buffer. -/
def spoiltState : State := { matState matCopy (.started 0 100) with upsets := [{ mem := .accumulator, unit := 3, double := true }] }

theorem test_matrix : (Obligations.MatrixInstructionsAreReadStartedAndCompleted → Runs (.matrixDescriptorRead 3 0x80) (matState matCopy .queued) ∧
      Runs (.matrixDescriptorRead 3 0x80) (matState 0 .queued) ∧ Runs (.matrixStart 3) (matState matCopy .checked) ∧
      Runs (.matrixComplete 3) (matState matCopy (.started 0 100)) ∧ Runs (.matrixComplete 3) spoiltState) ∧
    causeOf (exec (.matrixComplete 3) spoiltState) = some 0x0C ∧
    causeOf (exec (.matrixDescriptorRead 3 0x80) (matState 0 .queued)) = some 0x09 ∧
    gives (exec (.matrixComplete 3) (matState matCopy (.started 0 100))) (fun t => decide (cellsRead (t.core 3).lmem 192 4 = 10) && (t.core 3).matrixQ.isEmpty) = true :=
  ⟨fun h => ⟨((h.1 3 0x80 (matState matCopy .queued) (matOp .queued) { blockOf [] with localBase := 0 } rfl rfl rfl rfl (by decide +kernel) rfl (local_at rfl)).1 (by decide +kernel)).imp fun _ k => k.1,
    ((h.1 3 0x80 (matState 0 .queued) (matOp .queued) { blockOf [] with localBase := 0 } rfl rfl rfl rfl (by decide +kernel) rfl (local_at rfl)).2 0 1 (by decide +kernel) rfl).imp fun _ k => k.1,
    (h.2.1 3 (matState matCopy .checked) [] (matOp .checked) [] rfl (by decide +kernel) (by decide +kernel) rfl (by decide +kernel) (by decide +kernel) (by decide +kernel)
      (by decide +kernel)).imp fun _ k => k.1,
    (h.2.2.1 3 (matState matCopy (.started 0 100)) (matOp (.started 0 100)) [] { blockOf [] with localBase := 0 } 0 100 rfl rfl (by decide +kernel) rfl (engine_at rfl)
      (by decide +kernel) (by decide +kernel)).imp fun _ k => k.1,
    (h.2.2.2 3 spoiltState (matOp (.started 0 100)) [] { blockOf [] with localBase := 0 } 0 100 { mem := .accumulator, unit := 3, double := true } rfl rfl (by decide +kernel) rfl
      rfl rfl rfl rfl rfl).imp fun _ k => k.1⟩, by decide +kernel⟩

/-- A tile descriptor (Table 6.8) of one FP32 element: D at 256, and the sources 1.0 at 64, 2.0 at 128 and 3.0 at 192; IMM 4.0. -/
def tileCopy (op st : Nat) : BitVec 512 :=
  BitVec.ofNat 512 (3 + op * 2 ^ 16 + 1 * 2 ^ 32 + st * 2 ^ 40 + 1 * 2 ^ 48 + 1 * 2 ^ 64 + 16 * 2 ^ 80 + 16 * 2 ^ 96 + 16 * 2 ^ 112 + 16 * 2 ^ 128 + 256 * 2 ^ 160 +
    64 * 2 ^ 192 + 128 * 2 ^ 224 + 192 * 2 ^ 256 + 0x40800000 * 2 ^ 320)
def tileOp (op st : Nat) (stage : EngineStage) : EngineOp := { token := 0x80, block := 1, copy := tileCopy op st, stage := stage }
def tileBlock : Block := { blockOf [] with localBase := 0 }
def tileState (op st : Nat) (stage : EngineStage) : State :=
  (blockState tileBlock).modCore 3 fun k =>
    { k with tileQ := [(0, [tileOp op st stage])], tokens := [(0, { gen := 2, busy := true, used := true, block := 1 })]
             lmem := cellsWrite (cellsWrite (cellsWrite [] 64 (leBytes 4 0x3F800000)) 128 (leBytes 4 0x40000000)) 192 (leBytes 4 0x40400000) }

/-- D's element after a tile instruction. -/
def tileD (o : Host.Outcome State Fault Refusal) : Option Nat :=
  match o with
  | .next t => some (cellsRead (t.core 3).lmem 256 4)
  | _ => none

/-- A tile operation's statement meets its hypotheses in tileState. -/
theorem tile_runs {c : Fin 1536 → Fin 4 → Instr} {op st : Nat} {rows : Core → Block → TileDesc → List (List Nat)} (h : TileGives c op rows)
    (h1 : (tileState op st .checked).frontTile 3 0 op = some (tileOp op st .checked, tileBlock))
    (h2 : ((tileState op st .checked).core 3).tileMet tileBlock (tileDesc (tileCopy op st)) = none)
    (h3 : (tileDesc (tileCopy op st)).dt = 1) (h4 : Memory.wf ((tileState op st .checked).core 3).lmem = true)
    (h5 : ∀ l ∈ rows ((tileState op st .checked).core 3) tileBlock (tileDesc (tileCopy op st)), l.length * 4 ≤ (tileDesc (tileCopy op st)).dStride) :
    Runs (c 3 0) (tileState op st .checked) := by
  have e : (tileDesc (tileOp op st .checked).copy).dt = 1 := h3
  exact (h 3 0 (tileState op st .checked) (tileOp op st .checked) tileBlock h1 h2 (by rw [e]; decide) (by rw [e]; decide) (by rw [e]; decide) (engine_at rfl) h4
    (fun _ => by rw [e]; decide) (by rw [e]; exact h5)).imp fun _ k => k.1

theorem test_tile : (Obligations.TileOperationsWriteTheirResult → Runs (.tileCvt 3 0) (tileState 0 2 .checked) ∧ Runs (.tileAdd 3 0) (tileState 1 1 .checked) ∧
      Runs (.tileSub 3 0) (tileState 2 1 .checked) ∧ Runs (.tileMul 3 0) (tileState 3 1 .checked) ∧ Runs (.tileFma 3 0) (tileState 4 1 .checked) ∧
      Runs (.tileMin 3 0) (tileState 5 1 .checked) ∧ Runs (.tileMax 3 0) (tileState 6 1 .checked) ∧ Runs (.tileMinnum 3 0) (tileState 7 1 .checked) ∧
      Runs (.tileMaxnum 3 0) (tileState 8 1 .checked) ∧ Runs (.rsum 3 0) (tileState 0x10 1 .checked) ∧ Runs (.rmin 3 0) (tileState 0x11 1 .checked) ∧
      Runs (.rmax 3 0) (tileState 0x12 1 .checked) ∧ Runs (.transpose 3 0) (tileState 0x20 1 .checked) ∧ Runs (.fill 3 0) (tileState 0x21 1 .checked) ∧
      Runs (.tileComplete 3 0) (tileState 1 1 (.written 0))) ∧
    tileD (exec (.tileAdd 3 0) (tileState 1 1 .checked)) = some 0x40400000 ∧ tileD (exec (.tileSub 3 0) (tileState 2 1 .checked)) = some 0xBF800000 ∧
    tileD (exec (.tileMul 3 0) (tileState 3 1 .checked)) = some 0x40000000 ∧ tileD (exec (.tileFma 3 0) (tileState 4 1 .checked)) = some 0x40A00000 ∧
    tileD (exec (.tileMax 3 0) (tileState 6 1 .checked)) = some 0x40000000 ∧ tileD (exec (.rsum 3 0) (tileState 0x10 1 .checked)) = some 0x3F800000 ∧
    tileD (exec (.transpose 3 0) (tileState 0x20 1 .checked)) = some 0x3F800000 ∧ tileD (exec (.fill 3 0) (tileState 0x21 1 .checked)) = some 0x40800000 :=
  ⟨fun ⟨h0, h1, h2, h3, h4, h5, h6, h7, h8, h9, h10, h11, h12, h13, h14⟩ =>
    ⟨tile_runs h0 (by decide +kernel) (by decide +kernel) (by decide +kernel) (by decide +kernel) (by decide +kernel),
     tile_runs h1 (by decide +kernel) (by decide +kernel) (by decide +kernel) (by decide +kernel) (by decide +kernel),
     tile_runs h2 (by decide +kernel) (by decide +kernel) (by decide +kernel) (by decide +kernel) (by decide +kernel),
     tile_runs h3 (by decide +kernel) (by decide +kernel) (by decide +kernel) (by decide +kernel) (by decide +kernel),
     tile_runs h4 (by decide +kernel) (by decide +kernel) (by decide +kernel) (by decide +kernel) (by decide +kernel),
     tile_runs h5 (by decide +kernel) (by decide +kernel) (by decide +kernel) (by decide +kernel) (by decide +kernel),
     tile_runs h6 (by decide +kernel) (by decide +kernel) (by decide +kernel) (by decide +kernel) (by decide +kernel),
     tile_runs h7 (by decide +kernel) (by decide +kernel) (by decide +kernel) (by decide +kernel) (by decide +kernel),
     tile_runs h8 (by decide +kernel) (by decide +kernel) (by decide +kernel) (by decide +kernel) (by decide +kernel),
     tile_runs h9 (by decide +kernel) (by decide +kernel) (by decide +kernel) (by decide +kernel) (by decide +kernel),
     tile_runs h10 (by decide +kernel) (by decide +kernel) (by decide +kernel) (by decide +kernel) (by decide +kernel),
     tile_runs h11 (by decide +kernel) (by decide +kernel) (by decide +kernel) (by decide +kernel) (by decide +kernel),
     tile_runs h12 (by decide +kernel) (by decide +kernel) (by decide +kernel) (by decide +kernel) (by decide +kernel),
     tile_runs h13 (by decide +kernel) (by decide +kernel) (by decide +kernel) (by decide +kernel) (by decide +kernel),
     (h14 3 0 (tileState 1 1 (.written 0)) (tileOp 1 1 (.written 0)) [] 0 rfl rfl (by decide +kernel)).imp fun _ k => k.1⟩, by decide +kernel⟩

/-! ## The floor and coherence -/

/-- A well-formed message of core 3's cache (agent 131 of tile 0) to slice 96 of tile 0, for line 96; or of a home to that cache. -/
def toHome (op : FloorOp) : FloorMsg :=
  { vc := BitVec.ofNat 2 (opVc op), srcTile := 0, dstTile := 0, srcAgent := 131, dstAgent := 96, tag := 1, cls := 1, part := 0, sector := 0, status := 0
    poison := 0, length := BitVec.ofNat 4 ((opLens op).headD 0), addr := 0x3000, stream := 0, rsv := 0, data := 0x55, mask := 0, reqTile := 0, reqAgent := 132, reqTag := 2 }
def toCache (op : FloorOp) : FloorMsg := { toHome op with srcAgent := 96, dstAgent := 131 }

/-- Tile 0 of partition 0, whose set 0 maps the first GiB; line 96 lies in its memory at 0x3000: slice 96, set 0, tag 0. -/
def floorTile : Tile := { up := true, isets := [(0, { cfg := 0x10011, tiles := 1 })] }
def floorState (k : Tile) : State := { tiles := [(0, k)], partitions := [(0, { dies := 1 })], ticks := 200000 }

/-- The line in a cache way. -/
def heldTile : Tile := { floorTile with slices := [(96, { lines := [(0, { data := 0x77 })] })] }

theorem test_bad_message : (Obligations.BadFloorMessagesAreDiscardedAndCounted → Runs (.wb (toHome .wb)) (floorState { floorTile with fenced := true }) ∧
      Runs (.wb { toHome .wb with rsv := 1 }) (floorState floorTile)) ∧
    gives (exec (.wb { toHome .wb with rsv := 1 }) (floorState floorTile)) (fun t => decide ((t.tile 0).protoErr = 1)) = true ∧
    gives (exec (.wb { toHome .wb with rsv := 1 }) (floorState { floorTile with protoErr := BitVec.allOnes 64 })) (fun t => decide ((t.tile 0).protoErr = BitVec.allOnes 64)) = true :=
  ⟨fun h => ⟨((h .wb .wb (toHome .wb) (floorState { floorTile with fenced := true }) rfl (by decide) (by decide +kernel)).1 (by decide +kernel)).imp fun _ k => k.1,
    ((h .wb .wb { toHome .wb with rsv := 1 } (floorState floorTile) rfl (by decide) (by decide +kernel)).2 (by decide +kernel) (by decide +kernel) (by decide +kernel)).imp fun _ k => k.1⟩, by decide +kernel⟩

theorem arrives_of {s : State} {op : FloorOp} {m : FloorMsg}
    (h : (!badMessage op m && !s.floorBehind op m && s.connected m.srcTile.toNat m.dstTile.toNat && !(s.tile m.srcTile.toNat).fenced) = true) :
    Arrives s op m := by
  unfold Arrives
  simpa [and_assoc] using h

theorem ok_at {ε α : Type} [DecidableEq α] {e : Except ε α} {v : α} (h : okAs ((), e) v = true) : e = .ok v := by
  cases e with
  | error _ => simp [okAs] at h
  | ok x => simpa [okAs] using h

theorem quiet_at {s : State} {t tma : Nat} (h : (∀ d, d < 12 → (s.tile d).fenced = false) ∧ s.upsets = [] ∧ (s.tile t).held = [] ∧
    (∀ x ∈ (s.tile t).slices, x.2.parked = []) ∧ (s.tile t).taking = [] ∧ (s.tile t).inTxn (tma / 128) = false ∧
    (s.tile t).dirFind (tma / 128) = none) : QuietHome s t tma :=
  ⟨h.1, fun _ hu => absurd (h.2.1 ▸ hu) List.not_mem_nil, h.2.2⟩

theorem test_reads : (Obligations.NonCoherentReadsAreServedByTheHome → Runs (.rdLineNc (toHome .rdLineNc)) (floorState heldTile) ∧
      Runs (.rdSector (toHome .rdSector)) (floorState heldTile) ∧ Runs (.rdLineNc (toHome .rdLineNc)) (floorState floorTile)) ∧
    gives (exec (.rdLineNc (toHome .rdLineNc)) (floorState heldTile)) (fun t => decide (t.floor.map (fun x => (x.op, x.msg.data)) = [(.dataClean, 0x77)])) = true :=
  ⟨fun h => ⟨((h .rdLineNc (toHome .rdLineNc) (floorState heldTile) 0x3000 (by decide) (arrives_of (by decide +kernel)) (by decide) (ok_at (by decide +kernel)) (quiet_at (by decide +kernel))
        (by decide +kernel)).1 0 { data := 0x77 } (by decide +kernel)).imp fun _ k => k.1,
      ((h .rdSector (toHome .rdSector) (floorState heldTile) 0x3000 (by decide) (arrives_of (by decide +kernel)) (by decide) (ok_at (by decide +kernel)) (quiet_at (by decide +kernel))
        (by decide +kernel)).1 0 { data := 0x77 } (by decide +kernel)).imp fun _ k => k.1,
      ((h .rdLineNc (toHome .rdLineNc) (floorState floorTile) 0x3000 (by decide) (arrives_of (by decide +kernel)) (by decide) (ok_at (by decide +kernel)) (quiet_at (by decide +kernel))
        (by decide +kernel)).2 rfl (by decide +kernel) (by decide +kernel) (by decide +kernel) (by decide +kernel)).imp fun _ k => k.1⟩, by decide +kernel⟩

/-- ATOM_H's payload: an add (OP 0) of u32 (ATYPE 0) with RET. -/
def atomMsg : FloorMsg := { toHome .atomH with data := BitVec.ofNat 1024 (5 + 1 * 2 ^ 144) }

theorem test_writes : (Obligations.NonCoherentWritesArePerformedAndAcknowledged → Runs (.wrLine (toHome .wrLine)) (floorState heldTile) ∧
      Runs (.wrMasked (toHome .wrMasked)) (floorState heldTile) ∧ Runs (.wrSector (toHome .wrSector)) (floorState heldTile) ∧ Runs (.atomH atomMsg) (floorState heldTile)) ∧
    gives (exec (.wrLine (toHome .wrLine)) (floorState heldTile)) (fun t => decide ((((t.tile 0).slice 96).find 0 0).map (fun x => x.2.data) = some 0x55)) = true :=
  ⟨fun h => ⟨((h .wrLine (toHome .wrLine) (floorState heldTile) 0x3000 (arrives_of (by decide +kernel)) (by decide) (ok_at (by decide +kernel)) (quiet_at (by decide +kernel)) (by decide +kernel)
        (by decide)).1 .wrLine (by decide)
        rfl).imp fun _ k => k.1,
      ((h .wrMasked (toHome .wrMasked) (floorState heldTile) 0x3000 (arrives_of (by decide +kernel)) (by decide) (ok_at (by decide +kernel)) (quiet_at (by decide +kernel)) (by decide +kernel)
        (by decide)).1 .wrMasked (by decide)
        rfl).imp fun _ k => k.1,
      ((h .wrSector (toHome .wrSector) (floorState heldTile) 0x3000 (arrives_of (by decide +kernel)) (by decide) (ok_at (by decide +kernel)) (quiet_at (by decide +kernel)) (by decide +kernel)
        (by decide)).1 .wrSector (by decide)
        rfl).imp fun _ k => k.1,
      ((h .atomH atomMsg (floorState heldTile) 0x3000 (arrives_of (by decide +kernel)) (by decide) (ok_at (by decide +kernel)) (quiet_at (by decide +kernel)) (by decide +kernel) (by decide)).2 rfl
        (by decide +kernel)).elim fun t k => k.elim fun _ k => ⟨t, k.1⟩⟩, by decide +kernel⟩

/-- A register message of host core 0 (agent 256 of tile 0) for FLR_LLM_CTL of its own tile, once boot is complete. -/
def regMsg (op : FloorOp) : FloorMsg := { toHome op with srcAgent := 256, addr := BitVec.ofNat 52 (0x0F0000000000 + tileOff 0 0x4000), data := 1 }
def readyState : State := { floorState floorTile with boot := { stage := 15 }, dies := [(0, { pll := true })], velvet := { valid := true, powered := true } }

/-- While tile 0 is reset its window is closed (R421). -/
def lockedState : State := { readyState with tiles := [(0, { floorTile with resetStep := 1 })] }

theorem test_reg_messages : (Obligations.RegisterMessagesReadAndWriteRegisters → Runs (.regRd (regMsg .regRd)) readyState ∧ Runs (.regWr (regMsg .regWr)) readyState ∧
      Runs (.regRd (regMsg .regRd)) lockedState ∧ Runs (.regWr (regMsg .regWr)) lockedState) ∧
    gives (exec (.regWr (regMsg .regWr)) lockedState) (fun t => decide (t.floor.map (·.op) = [.ack]) && !(t.tile 0).llmEnable) = true ∧
    gives (exec (.regWr (regMsg .regWr)) readyState) (fun t => (t.tile 0).llmEnable) = true :=
  ⟨fun h => ⟨((h (regMsg .regRd) readyState (.hostCore 0) (tileOff 0 0x4000) 4 (by decide +kernel) (by decide +kernel) (by decide +kernel)).1 (arrives_of (by decide +kernel))
        (by decide +kernel)).elim fun t k => k.elim fun _ k => ⟨t, k.1⟩,
      ((h (regMsg .regWr) readyState (.hostCore 0) (tileOff 0 0x4000) 4 (by decide +kernel) (by decide +kernel) (by decide +kernel)).2.1 (arrives_of (by decide +kernel))
        (by decide +kernel)).imp fun _ k => k.1,
      ((h (regMsg .regRd) lockedState (.hostCore 0) (tileOff 0 0x4000) 4 (by decide +kernel) (by decide +kernel) (by decide +kernel)).2.2 .regRd .regRd false (.head _)
        (arrives_of (by decide +kernel)) (by decide +kernel)).imp fun _ k => k.1,
      ((h (regMsg .regWr) lockedState (.hostCore 0) (tileOff 0 0x4000) 4 (by decide +kernel) (by decide +kernel) (by decide +kernel)).2.2 .regWr .regWr true (.tail _ (.head _))
        (arrives_of (by decide +kernel)) (by decide +kernel)).imp fun _ k => k.1⟩, by decide +kernel⟩

/-- A request that has waited for 1 ms, and one that waits for a device in its critical stage. -/
def lateState : State := { floorState floorTile with floor4 := 8000000, outstanding := [({ op := .rdLineNc, msg := toHome .rdLineNc }, 0)] }
def stoppedState : State := { floorState { floorTile with held := [({ op := .rdLineNc, msg := toHome .rdLineNc }, 0, 1)] } with floor4 := 8000000 }

theorem test_timeouts : (Obligations.UnansweredRequestsTimeOut → Runs (.floorRequestTimeout 0 131 1) lateState ∧ Runs (.memStopped 0 131 1) stoppedState) ∧
    gives (exec (.floorRequestTimeout 0 131 1) lateState) (fun t => decide (t.floor.map (fun x => (x.op, x.msg.status)) = [(.ack, 3)])) = true ∧
    gives (exec (.memStopped 0 131 1) stoppedState) (fun t => decide (t.floor.map (fun x => (x.op, x.msg.status)) = [(.ack, 4)])) = true :=
  ⟨fun h => ⟨(h.1 0 131 1 lateState { op := .rdLineNc, msg := toHome .rdLineNc } 0 rfl rfl rfl rfl (by decide) (by decide +kernel) (by decide +kernel)).imp fun _ k => k.1,
    (h.2 0 131 1 stoppedState { op := .rdLineNc, msg := toHome .rdLineNc } 0 0 (by decide) (fun _ h => absurd h (by omega)) rfl rfl rfl rfl (by decide)).imp fun _ k => k.1⟩,
    by decide +kernel⟩

theorem test_grant : (Obligations.CoherentRequestsOfUnheldLinesAreGranted → Runs (.rdS (toHome .rdS)) (floorState heldTile) ∧ Runs (.rdX (toHome .rdX)) (floorState heldTile) ∧
      Runs (.upg (toHome .upg)) (floorState heldTile)) ∧
    gives (exec (.rdX (toHome .rdX)) (floorState heldTile)) (fun t => decide (t.floor.map (·.op) = [.compM, .dataClean]) &&
      decide (t.entryOf 0 0x3000 = some { line := 96, st := .x, owner := 3 })) = true :=
  ⟨fun h => ⟨(h .rdS .rdS (toHome .rdS) (floorState heldTile) 0x3000 3 0 { data := 0x77 } (by decide) rfl (arrives_of (by decide +kernel)) (by decide) rfl (ok_at (by decide +kernel))
        (quiet_at (by decide +kernel)) rfl (by decide +kernel) rfl (by decide +kernel)).imp fun _ k => k.1,
      (h .rdX .rdX (toHome .rdX) (floorState heldTile) 0x3000 3 0 { data := 0x77 } (by decide) rfl (arrives_of (by decide +kernel)) (by decide) rfl (ok_at (by decide +kernel))
        (quiet_at (by decide +kernel)) rfl (by decide +kernel) rfl (by decide +kernel)).imp fun _ k => k.1,
      (h .upg .upg (toHome .upg) (floorState heldTile) 0x3000 3 0 { data := 0x77 } (by decide) rfl (arrives_of (by decide +kernel)) (by decide) rfl (ok_at (by decide +kernel))
        (quiet_at (by decide +kernel)) rfl (by decide +kernel) rfl (by decide +kernel)).imp fun _ k => k.1⟩, by decide +kernel⟩

/-- Core 3's cache with line 96 in a state, or with a request for it. -/
def cacheState (c : Cache) : State := { floorState floorTile with caches := [(3, c)], dies := [(0, { pll := true })] }
def holding (st : LineState) : Cache := { lines := [(96 * 16, { line := 96, st := st, data := 0x77 })] }
/-- A home's transaction for line 96 that awaits caches 3 and 4. -/
def waitTxn : Txn := { line := 96, req := { op := .rdX, msg := { toHome .rdX with srcAgent := 133 } }, waiting := [3, 4], start := 0 }
def txnState (x : Txn) : State := floorState { heldTile with txns := [x] }

/-- Region 0 of die 0, in which cache 3 lies, is power-gated. -/
def sleepState : State := { cacheState (holding .m) with dies := [(0, { pll := true, regions := [(0, .powerGated)] })] }

theorem test_snoops : (Obligations.SnoopsAreAnsweredAndCollected → Runs (.snpS (toCache .snpS)) (cacheState (holding .m)) ∧ Runs (.snpX (toCache .snpX)) (cacheState (holding .m)) ∧
      Runs (.snpNc (toCache .snpNc)) (cacheState (holding .m)) ∧ Runs (.snpInv (toCache .snpInv)) (cacheState (holding .s)) ∧
      Runs (.snpInvWb (toCache .snpInvWb)) (cacheState (holding .m)) ∧ Runs (.snpAckI (toHome .snpAckI)) (floorState floorTile) ∧
      Runs (.snpAckI (toHome .snpAckI)) (txnState waitTxn) ∧ Runs (.snpS (toCache .snpS)) sleepState) ∧
    gives (exec (.snpS (toCache .snpS)) sleepState) (fun t => decide (kget .on (t.die 0).regions 0 = .waking 200000 false) && decide (t.caches = sleepState.caches)) = true ∧
    gives (exec (.snpS (toCache .snpS)) (cacheState (holding .m))) (fun t => decide (((t.cache 3).find 3 96).map (fun x => x.2.st) = some .o)) = true ∧
    gives (exec (.snpInvWb (toCache .snpInvWb)) (cacheState (holding .m))) (fun t => decide (t.floor.map (fun x => (x.op, x.msg.data)) = [(.dataDirty, 0x77)])) = true ∧
    gives (exec (.snpAckI (toHome .snpAckI)) (txnState waitTxn)) (fun t => decide ((t.tile 0).txns.map (·.waiting) = [[4]])) = true :=
  ⟨fun h => ⟨((h.1 .snpS .s .snpS (toCache .snpS) (cacheState (holding .m)) 3 (by decide) rfl (arrives_of (by decide +kernel)) rfl (by decide +kernel)).2 (by decide +kernel)).imp fun _ k => k.1,
      ((h.1 .snpX .x .snpX (toCache .snpX) (cacheState (holding .m)) 3 (by decide) rfl (arrives_of (by decide +kernel)) rfl (by decide +kernel)).2 (by decide +kernel)).imp fun _ k => k.1,
      ((h.1 .snpNc .nc .snpNc (toCache .snpNc) (cacheState (holding .m)) 3 (by decide) rfl (arrives_of (by decide +kernel)) rfl (by decide +kernel)).2 (by decide +kernel)).imp fun _ k => k.1,
      ((h.1 .snpInv .inv .snpInv (toCache .snpInv) (cacheState (holding .s)) 3 (by decide) rfl (arrives_of (by decide +kernel)) rfl (by decide +kernel)).2 (by decide +kernel)).imp fun _ k => k.1,
      ((h.1 .snpInvWb .invWb .snpInvWb (toCache .snpInvWb) (cacheState (holding .m)) 3 (by decide) rfl (arrives_of (by decide +kernel)) rfl (by decide +kernel)).2 (by decide +kernel)).imp fun _ k => k.1,
      ((h.2 .snpAckI .ackI .snpAckI (toHome .snpAckI) (floorState floorTile) 3 waitTxn 4 (by decide) rfl (arrives_of (by decide +kernel)) (by decide) rfl).1
        (by decide +kernel)).imp fun _ k => k.1,
      ((h.2 .snpAckI .ackI .snpAckI (toHome .snpAckI) (txnState waitTxn) 3 waitTxn 4 (by decide) rfl (arrives_of (by decide +kernel)) (by decide) rfl).2
        (by decide +kernel) rfl (by decide) (by decide)).elim fun t k => k.elim fun _ k => ⟨t, k.1⟩,
      ((h.1 .snpS .s .snpS (toCache .snpS) sleepState 3 (by decide) rfl (arrives_of (by decide +kernel)) rfl (by decide +kernel)).1 (by decide +kernel)).imp fun _ k => k.1⟩, by decide +kernel⟩

theorem test_data : (Obligations.WriteBacksGrantsAndDataReachTheirLine → Runs (.wb (toHome .wb)) (floorState heldTile) ∧
      Runs (.wbAck (toCache .wbAck)) (cacheState { wbuf := [{ line := 96 }] }) ∧
      Runs (.compM (toCache .compM)) (cacheState { holding .s with reqs := [{ line := 96, needData := true }] }) ∧
      Runs (.compM (toCache .compM)) (cacheState { holding .s with reqs := [{ line := 96, needData := true, data := some (0x99, 0) }] }) ∧
      Runs (.dataClean (toCache .dataClean)) (cacheState { holding .s with reqs := [{ line := 96, needData := true, grant := some .e }] }) ∧
      Runs (.atomOld (toCache .atomOld)) (floorState floorTile)) ∧
    gives (exec (.compM (toCache .compM)) (cacheState { holding .s with reqs := [{ line := 96, needData := true, data := some (0x99, 0) }] }))
      (fun t => decide (((t.cache 3).find 3 96).map (fun x => (x.2.st, x.2.data)) = some (.m, 0x99)) && decide (t.floor.map (·.op) = [.cack])) = true :=
  ⟨fun h => ⟨(h.1.1 (toHome .wb) (floorState heldTile) 3 0x3000 (arrives_of (by decide +kernel)) (by decide) rfl rfl (by decide +kernel) rfl
        (fun w l e => absurd e (by rw [show ((floorState heldTile).cache 3).find 3 (toHome .wb).line = none by decide +kernel]; simp))).imp fun _ k => k.1,
      (h.1.2 (toCache .wbAck) (cacheState { wbuf := [{ line := 96 }] }) 3 (arrives_of (by decide +kernel)) rfl).imp fun _ k => k.1,
      ((h.2.1 .compM .m .compM (toCache .compM) (cacheState { holding .s with reqs := [{ line := 96, needData := true }] }) 3 { line := 96, needData := true } 0
        { line := 96, st := .s, data := 0x77 } (by decide) rfl (arrives_of (by decide +kernel)) rfl rfl (by decide +kernel)).1 rfl rfl).imp fun _ k => k.1,
      ((h.2.1 .compM .m .compM (toCache .compM) (cacheState { holding .s with reqs := [{ line := 96, needData := true, data := some (0x99, 0) }] }) 3
        { line := 96, needData := true, data := some (0x99, 0) } 0 { line := 96, st := .s, data := 0x77 } (by decide) rfl (arrives_of (by decide +kernel)) rfl rfl
        (by decide +kernel)).2 (0x99, 0) rfl (by decide +kernel)).elim fun t k => k.elim fun _ k => ⟨t, k.1⟩,
      (h.2.2.1 .dataClean .dataClean (toCache .dataClean) (cacheState { holding .s with reqs := [{ line := 96, needData := true, grant := some .e }] }) 3
        { line := 96, needData := true, grant := some .e } .e 0 { line := 96, st := .s, data := 0x77 } (.inl rfl) rfl (arrives_of (by decide +kernel)) rfl rfl
        (by decide +kernel) rfl (by decide +kernel)).imp fun _ k => k.1,
      (h.2.2.2 (toCache .atomOld) (floorState floorTile) (arrives_of (by decide +kernel))).imp fun _ k => k.1⟩, by decide +kernel⟩

theorem empty_cache {s : State} {n l : Nat} (h : (s.cache n).lines = []) :
    ∀ w x, (s.cache n).find n l = some (w, x) → x.st ≠ .m ∧ x.st ≠ .o := by
  intro w x e
  obtain ⟨v, -, hv⟩ := List.exists_of_findSome?_eq_some e
  simp [h, kfind] at hv

/-- Line 96 in the directory with cache 3 or 4 as its owner, its line in a cache way or in memory only. -/
def ownedState (n : Nat) (k : Tile) : State := floorState { k with dir := [(96 * 16, { line := 96, st := .x, owner := n })] }

theorem test_write_back : (Obligations.WriteBacksGrantsAndDataReachTheirLine →
      (∃ t, exec (.wb (toHome .wb)) (ownedState 4 heldTile) = .next t ∧ t.entryOf 0 0x3000 = some { line := 96, st := .x, owner := 4 }) ∧
      (∃ t, exec (.wb (toHome .wb)) (ownedState 3 heldTile) = .next t ∧ ∃ l', kfind ((t.tile 0).slice 96).lines 0 = some l' ∧ l'.data = 0x55) ∧
      ∃ t, exec (.wb (toHome .wb)) (ownedState 3 floorTile) = .next t ∧ (t.rawLine (memKey 0 0x3000)).data = 0x55) ∧
    gives (exec (.wb (toHome .wb)) (ownedState 3 heldTile)) (fun t => decide (t.entryOf 0 0x3000 = none) &&
      decide ((((t.tile 0).slice 96).find 0 0).map (fun x => x.2.data) = some 0x55)) = true ∧
    gives (exec (.wb (toHome .wb)) (ownedState 4 heldTile)) (fun t => decide ((((t.tile 0).slice 96).find 0 0).map (fun x => x.2.data) = some 0x77)) = true := by
  refine ⟨fun h => ⟨?_, ?_, ?_⟩, by decide +kernel, by decide +kernel⟩
  · obtain ⟨t, e, -, k⟩ := h.1.1 (toHome .wb) (ownedState 4 heldTile) 3 0x3000 (arrives_of (by decide +kernel)) (by decide) rfl rfl
      (by decide +kernel) rfl (empty_cache rfl)
    exact ⟨t, e, ((k (by decide +kernel) (by decide +kernel) rfl 0 { line := 96, st := .x, owner := 4 } rfl rfl (by decide +kernel)).1 (by decide)).1⟩
  · obtain ⟨t, e, -, k⟩ := h.1.1 (toHome .wb) (ownedState 3 heldTile) 3 0x3000 (arrives_of (by decide +kernel)) (by decide) rfl rfl
      (by decide +kernel) rfl (empty_cache rfl)
    obtain ⟨-, w, -⟩ := (k (by decide +kernel) (by decide +kernel) rfl 0 { line := 96, st := .x, owner := 3 } rfl rfl (by decide +kernel)).2 rfl
    obtain ⟨-, l', a, -, -, b⟩ := w 0 { data := 0x77 } rfl rfl
    exact ⟨t, e, l', a, b⟩
  · obtain ⟨t, e, -, k⟩ := h.1.1 (toHome .wb) (ownedState 3 floorTile) 3 0x3000 (arrives_of (by decide +kernel)) (by decide) rfl rfl
      (by decide +kernel) rfl (empty_cache rfl)
    obtain ⟨-, -, w⟩ := (k (by decide +kernel) (by decide +kernel) rfl 0 { line := 96, st := .x, owner := 3 } rfl rfl (by decide +kernel)).2 rfl
    exact ⟨t, e, w rfl (fun _ => rfl) (by unfold PlainDram; decide +kernel) rfl⟩

-- An addition at the home to a line that only memory holds, and the same in a scratch way; a masked write of a line that is not held.
theorem test_atom_home : (Obligations.NonCoherentWritesArePerformedAndAcknowledged →
      (∃ t, exec (.atomH atomMsg) (floorState floorTile) = .next t ∧ (t.rawLine (memKey 0 0x3000)).data = 5) ∧
      ∃ t, exec (.wrMasked (toHome .wrMasked)) (floorState floorTile) = .next t ∧
        (t.rawLine (memKey 0 0x3000)).data = (((floorState floorTile).rawLine (memKey 0 0x3000)).merge (writeOf .wrMasked (toHome .wrMasked)).1 (writeOf .wrMasked (toHome .wrMasked)).2).data) ∧
    gives (exec (.atomH atomMsg) (floorState floorTile)) (fun t => decide ((t.rawLine (memKey 0 0x3000)).data = 5) &&
      decide (t.floor.map (fun x => (x.op, x.msg.data, x.msg.status)) = [(.atomOld, 0, 0)])) = true := by
  refine ⟨fun h => ⟨?_, ?_⟩, by decide +kernel⟩
  · obtain ⟨t, r, e, -, -, -, -, -, -, -, -, -, k⟩ := (h .atomH atomMsg (floorState floorTile) 0x3000 (arrives_of (by decide +kernel)) (by decide)
      (ok_at (by decide +kernel)) (quiet_at (by decide +kernel)) (by decide +kernel) (by decide)).2 rfl (by decide +kernel)
    exact ⟨t, e, (k (.inr ⟨rfl, by unfold PlainDram; decide +kernel, rfl⟩) rfl).2.1.trans (by decide +kernel)⟩
  · obtain ⟨t, e, -, -, -, -, k⟩ := (h .wrMasked (toHome .wrMasked) (floorState floorTile) 0x3000 (arrives_of (by decide +kernel)) (by decide)
      (ok_at (by decide +kernel)) (quiet_at (by decide +kernel)) (by decide +kernel) (by decide)).1 .wrMasked (by decide) rfl
    exact ⟨t, e, (k (.inr ⟨rfl, by unfold PlainDram; decide +kernel, rfl⟩) rfl).1⟩

/-- A transaction of core 3's RD_S whose data was granted; and one that waits for the recall of a line of the same directory set. -/
def doneTxn : Txn := { line := 96, req := { op := .rdS, msg := toHome .rdS }, granted := true }
def recallTxn : Txn := { line := 96, req := { op := .rdS, msg := toHome .rdS }, recallOf := some 131169 }
def recallState : State := floorState { heldTile with txns := [recallTxn], dir := [(96 * 16, { line := 131169, st := .x, owner := 5 })] }
/-- A purge of tile 1's lines, which its cache holds; and its answer, of cache 3. -/
def purgeState : State := cacheState { lines := [(96 * 16, { line := 96, home := 1 })] }
def purgeMsg : FloorMsg := { toCache .purge with addr := 1 }
def purgedMsg : FloorMsg := { toHome .purgeDone with dstTile := 12, dstAgent := 0, addr := 1 }
/-- Set 0 maps the second GiB to tile 1. -/
def twoTiles : State :=
  { floorState { floorTile with isets := [(0, { cfg := 0x10011, tiles := 1 }), (1, { cfg := 0x40010011, tiles := 0x11 })] } with
    partitions := [(0, { dies := 2 })],
    tiles := [(0, { floorTile with isets := [(0, { cfg := 0x10011, tiles := 1 }), (1, { cfg := 0x40010011, tiles := 0x11 })] }), (1, { up := true })] }
/-- Set 0 of 2 GiB is mirrored on tiles 1 and 0: address 0 lies at offset 0 of tile 1, which is fenced, and at 1 GiB of tile 0, slice 4. -/
def mirrorState : State :=
  { floorState { floorTile with isets := [(0, { cfg := 0x20015, tiles := 0x012 })] } with
    partitions := [(0, { dies := 2 })],
    tiles := [(0, { floorTile with isets := [(0, { cfg := 0x20015, tiles := 0x012 })] }), (1, { up := true, fenced := true })] }
def mirrorMsg : FloorMsg := { toHome .purgeWb with addr := 0, dstAgent := 4 }
/-- Slice 96 with a miss of set 0, and with a dirty victim. -/
def missState : State := floorState { floorTile with slices := [(96, { misses := [(0, { op := .rdLineNc, msg := toHome .rdLineNc })] })] }
def victimState : State := floorState { floorTile with slices := [(96, { victims := [(96, 0x77, 0)] })] }
def streamState : State := { floorState { floorTile with streamEntries := [(0, { expect := 5, count := 3 })] } with floor4 := 40000 }
def snoopLate : State := { floorState { heldTile with txns := [{ waitTxn with waiting := [3] }] } with floor4 := 8000000 }

theorem plain_at {s : State} {t tma : Nat} (h : s.dramErrs = [] ∧ s.mirrorOf t tma = none ∧ (s.tile t).hot.enable = false ∧ Memory.wf s.mem = true) :
    PlainDram s t tma := h

theorem test_homes_end : (Obligations.TransactionsFillsAndRecallsEnd → Runs (.cack (toHome .cack)) (txnState doneTxn) ∧ Runs (.directoryRecall 0 131169) recallState ∧
      Runs (.purge purgeMsg) purgeState ∧ Runs (.purgeDone purgedMsg) (floorState floorTile) ∧
      Runs (.purgeWb { toHome .purgeWb with addr := 0x40000000, part := 1 }) twoTiles ∧
      Runs (.purgeWb { toHome .purgeWb with addr := 0x40000000 }) twoTiles ∧ Runs (.purgeWb mirrorMsg) mirrorState ∧ Runs (.directoryFenceScan 0 1) (floorState { floorTile with scans := [1] })) ∧
    gives (exec (.cack (toHome .cack)) (txnState doneTxn)) (fun t => (t.tile 0).txns.isEmpty) = true ∧
    gives (exec (.directoryRecall 0 131169) recallState) (fun t => decide (t.entryOf 0 0x3000 = some { line := 96, st := .x, owner := 3 })) = true ∧
    gives (exec (.purgeWb mirrorMsg) mirrorState) (fun t => decide (t.floor.map (fun x => (x.op, x.msg.status)) = [(.ack, 0)]) &&
      decide ((t.rawLine (memKey 0 0x40000000)).data = 0x55)) = true ∧
    gives (exec (.purge purgeMsg) purgeState) (fun t => (t.cache 3).lines.isEmpty && decide (t.floor.map (·.op) = [.purgeDone])) = true :=
  ⟨fun h => ⟨(h.1.1 (toHome .cack) (txnState doneTxn) doneTxn (arrives_of (by decide +kernel)) (by decide) rfl rfl rfl rfl rfl rfl rfl (by decide +kernel)).imp fun _ k => k.1,
      (h.1.2.1 0 131169 recallState recallTxn (0, { line := 131169, st := .x, owner := 5 }) rfl (by decide +kernel) rfl rfl rfl rfl (by decide +kernel) (by decide +kernel) rfl
        (by decide) (by decide +kernel) (by decide +kernel) (by decide +kernel) (by decide +kernel)).imp fun _ k => k.1,
      (h.1.2.2.1 purgeMsg purgeState 3 (arrives_of (by decide +kernel)) rfl (by decide +kernel) (by decide +kernel)).imp fun _ k => k.1,
      (h.1.2.2.2.1 purgedMsg (floorState floorTile) 3 (arrives_of (by decide +kernel)) rfl (by decide +kernel)).imp fun _ k => k.1,
      ((h.1.2.2.2.2.1 { toHome .purgeWb with addr := 0x40000000, part := 1 } twoTiles 1 0 (arrives_of (by decide +kernel)) (ok_at (by decide +kernel))).1 (by decide +kernel)).imp
        fun _ k => k.1,
      ((h.1.2.2.2.2.1 { toHome .purgeWb with addr := 0x40000000 } twoTiles 1 0 (arrives_of (by decide +kernel)) (ok_at (by decide +kernel))).2.1 (by decide +kernel)
        (.inl (by decide))).imp fun _ k => k.1,
      ((h.1.2.2.2.2.1 mirrorMsg mirrorState 0 0x40000000 (arrives_of (by decide +kernel)) (ok_at (by decide +kernel))).2.2 (by decide +kernel) rfl
        (by decide +kernel)).imp fun _ k => k.1,
      (h.1.2.2.2.2.2 0 1 (floorState { floorTile with scans := [1] }) (by decide)).imp fun _ k => k.1⟩, by decide +kernel⟩

theorem test_fills_end : (Obligations.TransactionsFillsAndRecallsEnd → Runs (.lineFillComplete 0 96 0) missState ∧ Runs (.victimWriteback 0 96) victimState ∧
      Runs (.streamEntryReset 0 0) streamState ∧ Runs (.snoopTimeout 0 96) snoopLate) ∧
    gives (exec (.victimWriteback 0 96) victimState) (fun t => decide (cellGet t.mem (memKey 0 0x3000) = 0x77)) = true ∧
    gives (exec (.snoopTimeout 0 96) snoopLate) (fun t => decide ((t.tile 0).fence = some (1, 2000000))) = true :=
  ⟨fun h => ⟨(h.2.1 0 96 0 missState { op := .rdLineNc, msg := toHome .rdLineNc } (by decide +kernel) (by decide +kernel) (by decide +kernel) (by decide +kernel) rfl
        (by decide +kernel) (plain_at (by decide +kernel)) (by decide +kernel) rfl).imp fun _ k => k.1,
      (h.2.2.1 0 96 victimState (96, 0x77, 0) [] rfl (by decide +kernel) (by decide +kernel) rfl (plain_at (by decide +kernel))).imp fun _ k => k.1,
      (h.2.2.2.1 0 0 streamState { expect := 5, count := 3 } rfl (by decide +kernel)).imp fun _ k => k.1,
      (h.2.2.2.2 0 snoopLate { waitTxn with waiting := [3] } 3 rfl rfl rfl (by decide +kernel) rfl rfl).imp fun _ k => k.1⟩, by decide +kernel⟩

/-! ## Last-level memory, DRAM and translation -/

def convState (toScratch : Bool) : State :=
  { readyState with tiles := [(0, { floorTile with slices := [(96, { conv := some { way := 2, toScratch := toScratch } })] })], dies := [(0, { pll := true, arith64 := 64 * 1536 })] }

theorem may_write {s : State} {a : Agent} {off : Nat} (h : (s.accessReaches a && s.mayReach a off true) = true) : MayWrite s a off := by
  unfold MayWrite
  simpa using h

theorem test_llm : (Obligations.LastLevelMemoryFollowsItsControls → Runs (.flrLlmSliceCfg (.hostCore 0) 0 96 0xFFFF) readyState ∧
      Runs (.flrLlmCtl (.hostCore 0) 0 1) readyState ∧ Runs (.flrStreamCtl (.hostCore 0) 0 0x4021) readyState ∧ Runs (.wayToScratch 0 96) (convState true) ∧
      Runs (.scratchToCache 0 96) (convState false)) ∧
    gives (exec (.flrLlmSliceCfg (.hostCore 0) 0 96 0xFFFF) readyState) (fun t => decide (((t.tile 0).slice 96).target = 0xFFFF)) = true ∧
    gives (exec (.flrStreamCtl (.hostCore 0) 0 0x4021) readyState) (fun t => (t.tile 0).streamEnable && decide ((t.tile 0).threshold = 16) && decide ((t.tile 0).gapExp = 8)) = true ∧
    gives (exec (.wayToScratch 0 96) (convState true)) (fun t => decide (((t.tile 0).slice 96).scratch = 4)) = true :=
  ⟨fun h => ⟨(h.1 (.hostCore 0) 0 96 0xFFFF readyState (by decide) (may_write (by decide +kernel))).imp fun _ k => k.1,
      (h.2.1 (.hostCore 0) 0 1 readyState (by decide) (may_write (by decide +kernel))).imp fun _ k => k.1,
      (h.2.2.1 (.hostCore 0) 0 0x4021 readyState (by decide) (by decide) (by decide) (by decide) (may_write (by decide +kernel))).imp fun _ k => k.1,
      (h.2.2.2.1 0 96 (convState true) { way := 2, toScratch := true } rfl rfl (by decide) (by decide +kernel) (by decide +kernel) rfl (by decide +kernel)).imp fun _ k => k.1,
      (h.2.2.2.2 0 96 (convState false) { way := 2, toScratch := false } rfl rfl (by decide) (by decide +kernel) (by decide +kernel) rfl (by decide +kernel)).imp fun _ k => k.1⟩, by decide +kernel⟩

/-- Row 5 of bank 3 of the stack of tile 0 is a candidate, and one of its sectors (0x171D00) has an error that its code corrects. -/
def repairState (e : Ecc) : State :=
  { floorState { floorTile with drams := [(0, { candidates := [(3 * 2 ^ 20 + 5, false)], spares := [(3, 2)] })] } with dramErrs := [(0x171D00 / 32, e)] }

theorem repair_quiet (e : Ecc) (n : Nat) :
    ((repairState e).tile n).held = [] ∧ ((repairState e).tile n).draining = false ∧ ∀ y ∈ ((repairState e).tile n).slices, y.2.parked = [] := by
  by_cases h : n = 0
  · subst h; exact ⟨rfl, rfl, fun y hy => absurd hy List.not_mem_nil⟩
  · have : (repairState e).tile n = {} := by simp [State.tile, repairState, floorState, kget]; exact h
    rw [this]; exact ⟨rfl, rfl, fun y hy => absurd hy List.not_mem_nil⟩

theorem test_dram : (Obligations.DramDevicesFollowTheirEvents → Runs (.dramTempSample 0 .hbm 99) (floorState floorTile) ∧ Runs (.refresh 0 (.lp 1) 255) (floorState floorTile) ∧
      Runs (.scrub 0 .hbm 7 .clean .clean) (floorState floorTile) ∧ Runs (.scrub 0 .hbm 7 .uncorrectable .clean) (floorState floorTile) ∧
      Runs (.dramRepair 0 .hbm 3 5) (repairState .corrected) ∧ Runs (.dramRepair 0 .hbm 3 5) (repairState .uncorrectable)) ∧
    gives (exec (.scrub 0 .hbm 7 .uncorrectable .clean) (floorState floorTile)) (fun t => decide (t.poison = [7])) = true ∧
    gives (exec (.dramRepair 0 .hbm 3 5) (repairState .corrected)) (fun t => decide ((kget {} (t.tile 0).drams 0).repaired = [3 * 2 ^ 20 + 5]) &&
      t.dramErrs.isEmpty && t.poison.isEmpty) = true ∧
    gives (exec (.dramRepair 0 .hbm 3 5) (repairState .uncorrectable)) (fun t => decide (t.poison = [0x171D00 / 32])) = true :=
  ⟨fun h => ⟨(h.1 0 .hbm 99 (floorState floorTile) rfl rfl (by decide) (by decide +kernel)).imp fun _ k => k.1,
      (h.2.1 0 (.lp 1) 255 (floorState floorTile) (by decide +kernel) rfl rfl).imp fun _ k => k.1,
      (h.2.2.1 0 .hbm 7 .clean (floorState floorTile) rfl (by decide +kernel) (by decide +kernel) (by decide +kernel) (by decide +kernel)).1.imp fun _ k => k.1,
      (h.2.2.1 0 .hbm 7 .clean (floorState floorTile) rfl (by decide +kernel) (by decide +kernel) (by decide +kernel) (by decide +kernel)).2.imp fun _ k => k.1,
      (h.2.2.2 0 .hbm 3 5 (repairState .corrected) { candidates := [(3 * 2 ^ 20 + 5, false)], spares := [(3, 2)] } rfl (by decide) rfl (by decide +kernel) rfl
        (repair_quiet _)).imp fun _ k => k.1,
      (h.2.2.2 0 .hbm 3 5 (repairState .uncorrectable) { candidates := [(3 * 2 ^ 20 + 5, false)], spares := [(3, 2)] } rfl (by decide) rfl (by decide +kernel) rfl
        (repair_quiet _)).imp fun _ k => k.1⟩,
    by decide +kernel⟩

/-- Tile 0 with a translation of its unit; and with a root page table at 0x3000 whose entry 0 is a leaf with every permission. -/
def tlbState : State := floorState { floorTile with tlbSmall := [{ perms := 7, dirty := true }] }
def walkState : State := floorState { heldTile with slices := [(96, { lines := [(0, { data := 0xDF })] })] }
def walkEntry : TlbEntry := { pageLog2 := 48, perms := 7, dirty := true }
/-- An invalidation of context 1 on die 0 (SEQ 9), which is running. -/
def invCtl : BitVec 64 := BitVec.ofNat 64 (1 * 2 ^ 16 + 1 * 2 ^ 24 + 9 * 2 ^ 48)
def invState : State := { readyState with hub := { invs := [(0, invCtl)] }, tiles := [(0, { floorTile with tlbSmall := [{ context := 1 }, { context := 2 }] })] }

theorem test_translation : (Obligations.TranslationsAreWalkedAndInvalidated → Runs (.pageWalk 0 0 0 false 0 .load) tlbState ∧ Runs (.pageWalk 0 0 3 false 0 .load) walkState ∧
      Runs (.hubXlatInvCtl (.hostCore 0) true invCtl) readyState ∧ Runs .xlatInvalidationComplete invState) ∧
    gives (exec .xlatInvalidationComplete invState) (fun t => decide ((t.tile 0).tlbSmall.map (·.context) = [2]) && decide (t.hub.doneSeq = 9)) = true :=
  ⟨fun h => ⟨(h.1 0 0 0 false 0 .load tlbState { perms := 7, dirty := true } (by decide +kernel)).imp fun _ k => k.1,
      (h.2.1 0 0 3 false 0 .load walkState _ walkEntry (by decide +kernel) (by decide +kernel) (ok_of (by decide +kernel))).imp fun _ k => k.1,
      (h.2.2.1 (.hostCore 0) invCtl readyState (may_write (by decide +kernel)) (by decide +kernel) (by decide +kernel) (by decide +kernel) (by decide +kernel)).imp fun _ k => k.1,
      (h.2.2.2 invState 0 invCtl [] 0 rfl (by decide) (by decide +kernel) (by decide +kernel) (by decide +kernel)).imp fun _ k => k.1⟩, by decide +kernel⟩

/-! ## Links -/

/-- The module after boot, with link 0 as given. -/
def linkState (k : Link) : State := { readyState with links := [(0, k)], floor4 := 4 * 2 ^ 32, ticks := 2 ^ 31 }
def h0 : Agent := .hostCore 0

/-- The same in boot step 6, when links are inert and the warden reaches them. -/
def inertState : State := { linkState {} with boot := { stage := 6, wardens := [(0, 3)] } }

theorem test_link_control : (Obligations.LinksTrainAndObeyTheirControl → Runs (.lnkCtlEnable (.warden 0) 0 1) inertState ∧
      Runs (.lnkCtlEnable h0 0 1) (linkState {}) ∧
      Runs (.lnkCtlEnable h0 0 0) (linkState { state := .active, enable := true }) ∧ Runs (.retrain h0 0) (linkState { state := .active, enable := true }) ∧
      Runs (.laneEn h0 0 1) (linkState {}) ∧ Runs (.laneReenable h0 0) (linkState { decom := 3 })) ∧
    gives (exec (.lnkCtlEnable (.warden 0) 0 1) inertState) (fun t => (t.link 0).enable && decide ((t.link 0).state = .off)) = true ∧
    gives (exec (.lnkCtlEnable h0 0 1) (linkState {})) (fun t => decide ((t.link 0).state = .train)) = true ∧
    gives (exec (.lnkCtlEnable h0 0 0) (linkState { state := .active, enable := true })) (fun t => decide ((t.link 0).state = .off)) = true ∧
    gives (exec (.laneReenable h0 0) (linkState { decom := 3 })) (fun t => decide ((t.link 0).decom = 0)) = true :=
  ⟨fun h => ⟨((h.1 (.warden 0) 0 inertState (may_write (by decide +kernel))).1 rfl rfl rfl).imp fun _ k => k.1,
      ((h.1 h0 0 (linkState {}) (may_write (by decide +kernel))).2.1 rfl rfl (by decide) rfl).imp fun _ k => k.1,
      ((h.1 h0 0 (linkState { state := .active, enable := true }) (may_write (by decide +kernel))).2.2.1 (by decide) rfl).imp fun _ k => k.1,
      ((h.1 h0 0 (linkState { state := .active, enable := true }) (may_write (by decide +kernel))).2.2.2.1 rfl).imp fun _ k => k.1,
      ((h.1 h0 0 (linkState {}) (may_write (by decide +kernel))).2.2.2.2.1 1).imp fun _ k => k.1,
      ((h.1 h0 0 (linkState { decom := 3 }) (may_write (by decide +kernel))).2.2.2.2.2 rfl).imp fun _ k => k.1⟩, by decide +kernel⟩

/-- An identity block of Table 9.5 as a neighbour sends it. -/
def ident0 : IdBlock :=
  { magic := 0x4B4C4E31, version := 1, link := 0, lanes := 3, self := 1, pid := 0, slot := 0, flags := 0, rxNext := 0, revision := 0, restZero := true }

theorem test_training : (Obligations.LinksTrainAndObeyTheirControl → Runs (.equalisationComplete 0 3) (linkState { step := 1 }) ∧ Runs (.codewordLock 0) (linkState { step := 2 }) ∧
      Runs (.identityBlock 0 ident0) (linkState { state := .train, step := 3, good := 3, ident := some ident0, identRun := 1 }) ∧
      Runs (.identityBlockSend 0) (linkState { state := .train, step := 3 }) ∧ Runs (.trainingAttemptTimeout 0) (linkState { state := .train, step := 1 }) ∧
      Runs (.linkDownRetry 0) (linkState { state := .down, enable := true }) ∧ Runs (.retrainTimeout 0) (linkState { state := .retrain }) ∧
      Runs (.trainingPatternReceived 0) (linkState { state := .active })) ∧
    gives (exec (.equalisationComplete 0 3) (linkState { step := 1 })) (fun t => decide ((t.link 0).step = 2) && decide ((t.link 0).good = 3)) = true ∧
    gives (exec (.identityBlock 0 ident0) (linkState { state := .train, step := 3, good := 3, ident := some ident0, identRun := 1 }))
      (fun t => decide ((t.link 0).state = .isolated)) = true ∧
    gives (exec (.retrainTimeout 0) (linkState { state := .retrain })) (fun t => decide ((t.link 0).state = .down)) = true :=
  ⟨fun h => ⟨(h.2.1 0 3 (linkState { step := 1 }) rfl (by decide) (by decide +kernel)).imp fun _ k => k.1,
      (h.2.2.1 0 (linkState { step := 2 }) rfl).imp fun _ k => k.1,
      (h.2.2.2.1 0 ident0 (linkState { state := .train, step := 3, good := 3, ident := some ident0, identRun := 1 }) (by decide) rfl rfl (by decide) (by decide +kernel)).imp
        fun _ k => k.1,
      (h.2.2.2.2.1 0 (linkState { state := .train, step := 3 }) rfl rfl).imp fun _ k => k.1,
      (h.2.2.2.2.2.1 0 (linkState { state := .train, step := 1 }) (by decide +kernel) (by decide +kernel) (by decide)).imp fun _ k => k.1,
      (h.2.2.2.2.2.2.1 0 (linkState { state := .down, enable := true }) rfl rfl rfl (by decide) (by decide +kernel) (by decide +kernel)).imp fun _ k => k.1,
      (h.2.2.2.2.2.2.2.1 0 (linkState { state := .retrain }) rfl (by decide +kernel)).imp fun _ k => k.1,
      (h.2.2.2.2.2.2.2.2 0 (linkState { state := .active }) rfl).imp fun _ k => k.1⟩, by decide +kernel⟩

-- The check value of CRC-32C: that of the ASCII digits 1 to 9.
theorem test_crc32c : crc32c [0x31, 0x32, 0x33, 0x34, 0x35, 0x36, 0x37, 0x38, 0x39] = 0xE3069283 := by decide +kernel

/-- A block with a frame area of zeros, and one with a CRC that is not its own. -/
def zeroBlock : LinkBlock := { block0 with area := List.replicate 632 0 }
def badBlock : LinkBlock := { zeroBlock with crc := if zeroBlock.crcOf = 0 then 1 else 0 }

theorem bad_crc : badBlock.crc.toNat ≠ badBlock.crcOf := by
  have e : badBlock.crcOf = zeroBlock.crcOf := by
    unfold badBlock LinkBlock.crcOf LinkBlock.control LinkBlock.bytes
    rfl
  rw [e]
  unfold badBlock
  dsimp only
  split
  · simp_all
  · simp_all [eq_comm]

/-- A block with its own CRC; and the CRC of any block fits 32 bits. -/
def goodBlock (first : BitVec 7) (seq : BitVec 12) : LinkBlock :=
  let b := { zeroBlock with first := first, seq := seq }
  { b with crc := BitVec.ofNat 32 b.crcOf }

theorem good_crc (first : BitVec 7) (seq : BitVec 12) : (goodBlock first seq).crc.toNat = (goodBlock first seq).crcOf := by
  have e : (goodBlock first seq).crcOf = ({ zeroBlock with first := first, seq := seq } : LinkBlock).crcOf := by
    unfold goodBlock LinkBlock.crcOf LinkBlock.control LinkBlock.bytes
    rfl
  rw [e]
  unfold goodBlock
  dsimp only
  exact (BitVec.toNat_ofNat _ _).trans (Nat.mod_eq_of_lt (crc32c_lt _))

/-- An ACTIVE link with a frame to send. -/
def sendLink : Link := { state := .active, txq := [frame0 1 5] }

theorem test_blocks : (Obligations.LinkBlocksAreReceivedAndSent → Runs (.linkBlockReceived 0 { badBlock with decodes := false }) (linkState { state := .active }) ∧
      Runs (.linkBlockReceived 0 badBlock) (linkState { state := .active }) ∧ Runs (.linkBlockReceived 0 (goodBlock 127 0)) (linkState { state := .active }) ∧
      Runs (.linkBlockReceived 0 (goodBlock 126 0)) (linkState { state := .active }) ∧ Runs (.linkBlockReceived 0 (goodBlock 126 5)) (linkState { state := .active })) ∧
    gives (exec (.linkBlockReceived 0 { badBlock with decodes := false }) (linkState { state := .active })) (fun t => (t.link 0).nak && decide ((t.link 0).uncorr = 1)) = true :=
  ⟨fun h => ⟨(h.1 0 { badBlock with decodes := false } (linkState { state := .active }) rfl rfl (by decide +kernel) rfl (by decide)).imp fun _ k => k.1,
      (h.2.1 0 badBlock (linkState { state := .active }) rfl rfl (by decide +kernel) rfl rfl rfl (by decide +kernel) bad_crc).imp fun _ k => k.1,
      ((h.2.2.1 0 (goodBlock 127 0) (linkState { state := .active }) rfl rfl (by decide +kernel) rfl rfl rfl (by decide +kernel) (good_crc _ _) rfl rfl).1 rfl).imp fun _ k => k.1,
      ((h.2.2.1 0 (goodBlock 126 0) (linkState { state := .active }) rfl rfl (by decide +kernel) rfl rfl rfl (by decide +kernel) (good_crc _ _) rfl rfl).2.1 (by decide +kernel)
        (by decide +kernel) rfl).imp fun _ k => k.1,
      ((h.2.2.1 0 (goodBlock 126 5) (linkState { state := .active }) rfl rfl (by decide +kernel) rfl rfl rfl (by decide +kernel) (good_crc _ _) rfl rfl).2.2 (by decide +kernel)
        (by decide +kernel) (by decide +kernel) (by decide +kernel)).imp fun _ k => k.1⟩, by decide +kernel⟩

theorem test_blocks_sent : (Obligations.LinkBlocksAreReceivedAndSent → Runs (.linkBlockSend 0) (linkState { state := .active, resend := [(7, 0, [])] }) ∧
      Runs (.linkBlockSend 0) (linkState { state := .active, txSeq := 9 }) ∧ Runs (.linkBlockSend 0) (linkState sendLink)) ∧
    gives (exec (.linkBlockSend 0) (linkState { state := .active, txSeq := 9 })) (fun t => decide ((t.link 0).lastSent.map (fun b => (b.seq, b.first)) = some (9, 127))) = true ∧
    gives (exec (.linkBlockSend 0) (linkState sendLink)) (fun t => decide ((t.link 0).txSeq = 1) && decide ((t.link 0).txq = [])) = true :=
  ⟨fun h => ⟨(h.2.2.2.1 0 (linkState { state := .active, resend := [(7, 0, [])] }) 7 0 [] [] rfl rfl).elim fun t k => k.elim fun _ k => ⟨t, k.1⟩,
      (h.2.2.2.2.1 0 (linkState { state := .active, txSeq := 9 }) rfl rfl rfl rfl).elim fun t k => k.elim fun _ k => ⟨t, k.1⟩,
      (h.2.2.2.2.2 0 (linkState sendLink) (frame0 1 5) rfl rfl rfl rfl (by decide +kernel) (by decide +kernel) (by decide +kernel)).elim fun t k => k.elim fun _ k => ⟨t, k.1⟩⟩,
    by decide +kernel⟩

/-! ## Frames and collectives -/

/-- A frame of each TYPE of Table 9.8, well formed, for the module 5 of the same pod, or for the module itself. -/
def frameOf0 (typ : BitVec 8) (dst : BitVec 32) : Frame :=
  let n := ((frameKind typ.toNat).map fun x => x.2.headD 0).getD 0
  { frame0 typ dst with vc := BitVec.ofNat 2 (((frameKind typ.toNat).map (·.1)).getD 0), plen := BitVec.ofNat 6 n, payload := List.replicate (8 * n) 0 }

def routed (k : Link) : State := (linkState k).modTile 0 fun x => { x with modRoutes := [(5, 0x9)] }

theorem test_frames_pass : (Obligations.FramesOfInactiveLinksOrOtherModulesPass →
      (∀ typ ∈ ([1, 2, 3, 4, 8, 9, 10, 11, 12, 0x10, 0x11] : List (BitVec 8)), ∀ c, frameCmd typ = some c → Runs (c 0 (frameOf0 typ 0)) (linkState {})) ∧
      ∀ c, frameCmd 1 = some c → Runs (c 0 (frameOf0 1 5)) (routed { state := .active, rxq := [frameOf0 1 5] })) ∧
    gives (exec (.rrdFrame 0 (frameOf0 1 5)) (routed { state := .active, rxq := [frameOf0 1 5] })) (fun t => decide ((t.link 1).txq.map (·.hops) = [1])) = true := by
  refine ⟨fun h => ⟨fun typ ht c hc => ?_, fun c hc => ?_⟩, by decide +kernel⟩
  · exact (h.1 c 0 (frameOf0 typ 0) (linkState {}) hc (by decide) rfl (by clear hc; revert typ; decide +kernel)).imp fun _ k => k.1
  · exact (h.2 c 0 (frameOf0 1 5) (routed { state := .active, rxq := [frameOf0 1 5] }) 1 hc ⟨rfl, by decide +kernel⟩ (by decide +kernel) (by decide +kernel) (by decide)
      (by decide +kernel) (by decide)).imp fun _ k => k.1

/-- Frames of the module itself. -/
def ownFrame (fr : Frame) : State := linkState { state := .active, rxq := [fr] }
def rmsg0 : Frame := { frameOf0 4 0 with tag := 7 }

/-- Core 3 awaits the answer of module 5 to its read under tag 7 of tile 0. -/
def askedState (fr : Frame) : State :=
  { ownFrame fr with cores := [(3, { present := true, blocks := [(1, { blockOf [] with remote := 1 })] })]
                     tiles := [(0, { floorTile with remotes := [(7, asked)] })] }
where
  asked : Remote := { frame := frameOf0 1 5, core := 3, block := 1, group := 2, dst := some 10 }
/-- Its answer, of STATUS st. -/
def answer0 (st : BitVec 3) : Frame := { frameOf0 8 0 with src := 5, tag := 7, status := st }

theorem snd_at {α β : Type} {r : α × β} {v : β} (h : r.2 = v) : r = (r.1, v) := by rw [← h]

theorem test_frames_handled : (Obligations.FramesForTheModuleAreHandled → Runs (.rrdFrame 0 (frameOf0 1 0)) (ownFrame (frameOf0 1 0)) ∧
      Runs (.rrdData 0 (answer0 0)) (askedState (answer0 0)) ∧ Runs (.rrdData 0 (answer0 1)) (askedState (answer0 1)) ∧
      (∀ typ ∈ ([8, 9, 10, 11] : List (BitVec 8)), ∀ c, frameCmd typ = some c → Runs (c 0 (frameOf0 typ 0)) (ownFrame (frameOf0 typ 0))) ∧
      Runs (.linkNak 0 (frameOf0 0x0C 0)) (ownFrame (frameOf0 0x0C 0)) ∧ Runs (.collData 0 (frameOf0 0x10 0)) (ownFrame (frameOf0 0x10 0)) ∧
      Runs (.collData 0 (frameOf0 0x10 0)) { ownFrame (frameOf0 0x10 0) with colls := [{ queue := 1, running := true }] }) ∧
    gives (exec (.linkNak 0 (frameOf0 0x0C 0)) (ownFrame (frameOf0 0x0C 0))) (fun t => decide ((t.link 0).nakRx = 1)) = true ∧
    gives (exec (.rrdData 0 (answer0 0)) (askedState (answer0 0))) (fun t => decide ((t.block 3 1).remote = 0)) = true ∧
    causeOf (exec (.rrdData 0 (answer0 1)) (askedState (answer0 1))) = some 0x0E ∧
    gives (exec (.rwrAck 0 (frameOf0 9 0)) (ownFrame (frameOf0 9 0))) (fun t => decide ((t.link 0).stale = 1)) = true := by
  refine ⟨fun h => ⟨?_, ?_, ?_, fun typ ht c hc => ?_, ?_, ?_, ?_⟩, by decide +kernel⟩
  · exact (h.1 .rrdFrame 0 (frameOf0 1 0) (ownFrame (frameOf0 1 0)) 0 _ 0 0 0 [0] (by decide) rfl ⟨rfl, by decide +kernel⟩ (by decide +kernel)
      (by decide +kernel) (snd_at (by decide +kernel))).elim fun t k => k.elim fun _ k => ⟨t, k.1⟩
  · exact ((h.2.1 .rrdData 0 0 (answer0 0) (askedState (answer0 0)) 0 askedState.asked { blockOf [] with remote := 1 } (by decide) rfl ⟨rfl, by decide +kernel⟩
      (by decide +kernel) (by decide +kernel) rfl (by decide +kernel) (by decide +kernel) rfl (by decide +kernel) rfl rfl rfl (by unfold NoGather; decide +kernel)
      (fun _ => rfl) (fun _ => rfl)).1 rfl rfl (by intro r hr; cases hr; decide)).imp fun _ k => k.1
  · exact ((h.2.1 .rrdData 0 0 (answer0 1) (askedState (answer0 1)) 0 askedState.asked { blockOf [] with remote := 1 } (by decide) rfl ⟨rfl, by decide +kernel⟩
      (by decide +kernel) (by decide +kernel) rfl (by decide +kernel) (by decide +kernel) rfl (by decide +kernel) rfl rfl rfl (by unfold NoGather; decide +kernel)
      (fun _ => rfl) (fun _ => rfl)).2 (by decide) (by decide)).imp fun _ k => k.1
  · exact (h.2.2.1 c 0 (frameOf0 typ 0) (ownFrame (frameOf0 typ 0)) 0 ht hc ⟨rfl, by clear hc; revert typ; decide +kernel⟩ (by clear hc; revert typ; decide +kernel)
      (by clear hc; revert typ; decide +kernel) (by clear hc; revert typ; decide +kernel)).imp fun _ k => k.1
  · exact (h.2.2.2.1 0 (frameOf0 0x0C 0) (ownFrame (frameOf0 0x0C 0)) 0 rfl ⟨rfl, by decide +kernel⟩ (by decide +kernel) (by decide +kernel)).imp fun _ k => k.1
  · exact (h.2.2.2.2.1 .collData 0 (frameOf0 0x10 0) (ownFrame (frameOf0 0x10 0)) 0 (by decide) rfl ⟨rfl, by decide +kernel⟩ (by decide +kernel) (by decide +kernel) rfl
      (by decide +kernel) rfl (by decide +kernel)).imp fun _ k => k.1
  · exact (h.2.2.2.2.2 .collData 0 (frameOf0 0x10 0) _ 0 { queue := 1, running := true } (by decide) rfl ⟨rfl, by decide +kernel⟩ (by decide +kernel) (by decide +kernel)
      (by decide +kernel) rfl rfl (by decide +kernel) (by decide +kernel) rfl rfl).imp fun _ k => k.1

/-- A message to module 5 that is unanswered, or was answered FULL, for tag 7 of tile 0. -/
def farFrame : Frame := frameOf0 4 5
def remoteState (r : Remote) : State :=
  { routed {} with cores := [(3, { present := true, blocks := [(1, { blockOf [] with remote := 1 })] })]
                   tiles := [(0, { floorTile with modRoutes := [(5, 0x9)], remotes := [(7, r)] })] }
def lateRemote : Remote := { frame := farFrame, core := 3, block := 1, group := 2, sent := some 0 }
def slowState : State := { linkState {} with power := { dies := [(0, { n := 64, m := 16 })] }, partitions := [(0, { dies := 1, slow := 2, lowerSince := some 0 })] }

theorem test_remote_timers : (Obligations.RemoteTransactionsTimeOutAndRetry → Runs (.remoteTimeout 0 7) (remoteState lateRemote) ∧
      Runs (.rmsgRetry 0 7) (remoteState { lateRemote with retryAt := some 0 }) ∧ Runs (.slowLevelFall 0) slowState) ∧
    causeOf (exec (.remoteTimeout 0 7) (remoteState lateRemote)) = some 0x0E ∧
    gives (exec (.rmsgRetry 0 7) (remoteState { lateRemote with retryAt := some 0 })) (fun t => decide ((t.link 1).txq.map (·.typ) = [4])) = true :=
  ⟨fun h => ⟨(h.1 0 7 (remoteState lateRemote) lateRemote { blockOf [] with remote := 1 } 0 (by decide +kernel) rfl rfl rfl rfl rfl (by decide +kernel)).imp fun _ k => k.1,
      (h.2.1 0 7 (remoteState { lateRemote with retryAt := some 0 }) { lateRemote with retryAt := some 0 } 0 1 rfl rfl rfl (by decide +kernel) (by decide +kernel)
        (by decide +kernel) rfl).elim fun t k => k.elim fun _ k => ⟨t, k.1⟩,
      (h.2.2 0 slowState 0 (by decide +kernel) rfl (by decide +kernel)).imp fun _ k => k.1⟩, by decide +kernel⟩

/-- A collective of queue 1 in a partition of one die: ended, running and without frames, and waiting to start. -/
def collState (c : Coll) : State := { readyState with colls := [c], ticks := 2 ^ 31, queues := [(1, { live := true, context := 1, run := some { stage := .running } })]
                                                      contexts := [(1, { live := true, first := some 0 })] }

theorem attempt_ok {e : Attempt State} (h : (match e with | .ok _ => true | .error _ => false) = true) :
    e = .ok (match e with | .ok u => u | .error u => u) := by
  cases e with
  | ok _ => rfl
  | error _ => exact absurd h Bool.false_ne_true

theorem test_collectives : (Obligations.CollectivesStartAndEnd → Runs (.collectiveComplete 1) (collState { queue := 1, running := true, code := some 2 }) ∧
      Runs (.collectiveComplete 1) (collState { queue := 1, code := some 0 }) ∧
      Runs (.collectiveTimeout 1 0) (collState { queue := 1, running := true }) ∧ Runs (.collectiveStart 1) (collState { queue := 1 })) ∧
    gives (exec (.collectiveComplete 1) (collState { queue := 1, running := true, code := some 2 })) (fun t => t.colls.isEmpty && decide ((t.run 1).map (fun r => (r.stage, r.status, r.detail)) = some (.ending, 9, 2))) = true ∧
    gives (exec (.collectiveTimeout 1 0) (collState { queue := 1, running := true })) (fun t => decide (t.colls.map (·.code) = [some 2])) = true :=
  ⟨fun h => ⟨(h.1 1 (collState { queue := 1, running := true, code := some 2 }) { queue := 1, running := true, code := some 2 } 2 _ { stage := .running } rfl rfl
        (attempt_ok (by decide +kernel)) (by decide +kernel) rfl rfl).elim fun t k => k.elim fun _ k => ⟨t, k.1⟩,
      (h.1 1 (collState { queue := 1, code := some 0 }) { queue := 1, code := some 0 } 0 _ { stage := .running } rfl rfl
        (attempt_ok (by decide +kernel)) (by decide +kernel) rfl rfl).elim fun t k => k.elim fun _ k => ⟨t, k.1⟩,
      (h.2.1 1 0 (collState { queue := 1, running := true }) { queue := 1, running := true } rfl rfl rfl (by decide) (by decide) rfl
        (by decide +kernel)).elim fun t k => k.elim fun _ k => ⟨t, k.1⟩,
      (h.2.2 1 (collState { queue := 1 }) { queue := 1 } _ rfl (by decide +kernel) (by decide +kernel) (ok_of (by decide +kernel))).elim fun t k => k.elim fun _ k => ⟨t, k.1⟩⟩,
    by decide +kernel⟩

/-! ## The PCI Express function and the host cores -/

def host0 : HostFn := { linkUp := true, inReset := false, mse := true, bme := true }
/-- The module after boot whose window maps the first 4 GiB for partition 0, or the page of the management reserve. -/
def hostState (h : HostFn) : State := { readyState with host := h, ticks := 2 ^ 31 }
def winState : State := hostState { host0 with win := 1 }
def reserveState : State := { hostState { host0 with win := 0x40000000001 } with mem := [⟨reserveKey 0, 5⟩] }
def hw (off : Nat) (bs : List Byte) : HostWrite := { offset := off, bytes := bs, ep := false }
def winReq : Req := { tile := 0, part := 0, cls := 5 }
def hubReq : Req := { tile := 0, part := 0, cls := 5, hub := true }

/-- Line 96 of the window's memory is in a transaction, so that its accesses wait; and a read, or a write, that waits for it. -/
def busyState : State := { winState with tiles := [(0, { heldTile with txns := [waitTxn] })] }
def waitingWrite : WindowOp := .write (some 0) 0x3000 [7] false
def heldState : State := Held busyState [waitingWrite]

theorem error_at {σ ε α : Type} [DecidableEq ε] {r : σ × Except ε α} {e : ε}
    (h : (match r.2 with | .error x => decide (x = e) | .ok _ => false) = true) : r = (r.1, .error e) := by
  rcases r with ⟨a, x | y⟩
  · simp only [decide_eq_true_eq] at h
    rw [h]
  · simp at h

theorem attempt_waits {e : Attempt State} (h : (match e with | .ok _ => true | .error _ => false) = false) :
    e = .error (match e with | .ok u => u | .error u => u) := by
  cases e with
  | ok _ => exact absurd h.symm Bool.false_ne_true
  | error _ => rfl

theorem test_window : (Obligations.HostWindowAccessesMemory → Runs (.bar2Write (hw 0x3000 [7])) winState ∧ Runs (.bar2Write (hw 0xC0000000 [9])) reserveState ∧
      Runs (.bar2Read 0x3000 4) winState ∧ Runs (.bar2Atomicop 0xC0000000 0 4 1 0) reserveState ∧ Runs (.bar2Read 0 4) (hostState host0) ∧
      Runs (.bar2Write (hw 0 [7])) (hostState host0) ∧ Runs (.bar2Read 0x3000 4) busyState ∧ Runs (.bar2Write (hw 0x3000 [7])) busyState ∧
      Runs (.bar4Doorbell (hw 4096 (leBytes 8 64))) heldState ∧ Runs (.hubWinCtl .commandProcessor 0 0x123) readyState) ∧
    gives (exec (.bar2Atomicop 0xC0000000 0 4 1 0) reserveState) (fun t => decide (cellGet t.mem (reserveKey 0) = 6) && decide (t.host.completions = [.data [5, 0, 0, 0] false])) = true ∧
    gives (exec (.bar4Doorbell (hw 4096 (leBytes 8 64))) heldState) (fun t => decide (t.host.held = [waitingWrite, .bell 1 64])) = true ∧
    gives (exec (.bar2Read 0 4) (hostState host0)) (fun t => decide (t.host.completions = [.abort]) && decide (t.host.violations = 1)) = true :=
  ⟨fun h => ⟨⟨_, h.1 (hw 0x3000 [7]) winState winReq 0x3000 _ (by unfold InWindow; decide +kernel) (by decide) (ok_of (by decide +kernel))⟩,
      ⟨_, h.2.1 (hw 0xC0000000 [9]) reserveState hubReq reserveBase (by unfold InWindow; decide +kernel) (by decide) rfl (by decide +kernel) (by unfold State.reserveSound; decide +kernel)⟩,
      (h.2.2.1 0x3000 4 winState winReq 0x3000 _ (cleanBytes [0, 0, 0, 0]) (by unfold InWindow; decide +kernel) (ok_of (by decide +kernel))).imp fun _ k => k.1,
      (h.2.2.2.1 0xC0000000 0 4 1 0 reserveState hubReq reserveBase (by unfold InWindow; decide +kernel) (.inl rfl) rfl (by decide +kernel) (by unfold State.reserveSound; decide +kernel)).imp fun _ k => k.1,
      (h.2.2.2.2.2.2.2.1 0 4 (hostState host0) rfl (by decide) (by decide) (by decide) (by decide +kernel)).imp fun _ k => k.1,
      (h.2.2.2.2.2.2.2.2.1 (hw 0 [7]) (hostState host0) rfl (by decide) (by decide) (by decide) (by decide) (by decide +kernel)).imp fun _ k => k.1,
      ⟨_, h.2.2.2.2.1 0x3000 4 busyState winReq 0x3000 _ (by unfold InWindow; decide +kernel) (error_at (by decide +kernel))⟩,
      ⟨_, h.2.2.2.2.2.1 (hw 0x3000 [7]) busyState winReq 0x3000 _ (by unfold InWindow; decide +kernel) (by decide) (error_at (by decide +kernel))⟩,
      ⟨_, h.2.2.2.2.2.2.1 (hw 4096 (leBytes 8 64)) waitingWrite heldState _ rfl rfl (attempt_waits (by decide +kernel)) rfl rfl rfl rfl (by decide)⟩,
      (h.2.2.2.2.2.2.2.2.2 .commandProcessor 0 0x123 readyState (may_write (by decide +kernel))).imp fun _ k => k.1⟩, by decide +kernel⟩

/-- Queue 1 of a context of the host; ring 0 with a record to post; a message due; a posted write; a ring that owes a LINK_EPOCH. -/
def bellState : State := { hostState host0 with queues := [(1, { live := true, context := 1 })], contexts := [(1, { live := true })] }
def ringState (r : HostRing) : State := hostState { host0 with rings := [(0, r)] }
def postState : State := ringState { enable := true, base := 0x1000, write := 3, read := 3, backlog := [0] }
/-- The module ring with a message, after one was lost: it posts the message, and a RING_LOSS takes its room. -/
def lossState : State := hostState { host0 with rings := [(32, { enable := true, base := 0x1000, backlog := [0], lost := 3 })] }
def msiState : State := ringState { enable := true, msiDue := true }
def postedState : State := hostState { host0 with posted := [.record 0 3 0x1000 0] }

theorem test_rings : (Obligations.HostRingsPostRecordsAndMessages → Runs (.bar4Doorbell (hw 4096 (leBytes 8 64))) bellState ∧
      Runs (.bar4Doorbell (hw 4096 (leBytes 8 65))) bellState ∧ Runs (.bar4Doorbell (hw 4096 (leBytes 8 0))) bellState ∧ Runs (.hubHcrCtl .commandProcessor 32 0x4D) readyState ∧ Runs (.recordPost 0) postState ∧
      Runs (.recordPost 32) lossState ∧
      Runs (.msixMessage 1) msiState ∧ Runs .postedWriteDelivered postedState ∧ Runs .linkEpoch (ringState { enable := true, owes := true }) ∧
      Runs (.hostProtocolViolation { row := 1, read := true, header := 0, offset := 0, len := 4 }) (hostState host0)) ∧
    gives (exec (.bar4Doorbell (hw 4096 (leBytes 8 64))) bellState) (fun t => decide ((t.queue 1).doorbell = 64)) = true ∧
    gives (exec (.bar4Doorbell (hw 4096 (leBytes 8 65))) bellState) (fun t => (t.queue 1).error) = true ∧
    gives (exec (.recordPost 0) postState) (fun t => decide ((t.ring 0).write = 4) && decide (t.host.posted = [.record 0 3 0x1060 3])) = true ∧
    gives (exec (.recordPost 32) lossState) (fun t => decide ((t.ring 32).lost = 0) && decide ((t.ring 32).backlog.length = 1)) = true ∧
    gives (exec (.msixMessage 1) msiState) (fun t => decide (t.host.posted = [.msix 1 0 0])) = true :=
  ⟨fun h => ⟨((h.1 (hw 4096 (leBytes 8 64)) bellState 1 rfl rfl (by decide +kernel) rfl rfl (by decide) rfl (by decide +kernel)).2.1 (by decide +kernel) (by decide +kernel)).imp fun _ k => k.1,
      ((h.1 (hw 4096 (leBytes 8 65)) bellState 1 rfl rfl (by decide +kernel) rfl rfl (by decide) rfl (by decide +kernel)).2.2 (by decide +kernel) (by decide +kernel)).imp fun _ k => k.1,
      ((h.1 (hw 4096 (leBytes 8 0)) bellState 1 rfl rfl (by decide +kernel) rfl rfl (by decide) rfl (by decide +kernel)).1 (by decide +kernel)).imp fun _ k => k.1,
      (h.2.1 .commandProcessor 32 0x4D readyState (may_write (by decide +kernel)) (by decide) (by decide)).elim fun t k => k.elim fun _ k => ⟨t, k.1⟩,
      (h.2.2.1 0 postState 0 [] (by decide +kernel) rfl).elim fun t k => k.elim fun _ k => ⟨t, k.1⟩,
      (h.2.2.1 32 lossState 0 [] (by decide +kernel) rfl).elim fun t k => k.elim fun _ k => ⟨t, k.1⟩,
      (h.2.2.2.1 1 msiState (by decide +kernel) rfl (by decide +kernel) (by decide +kernel)).imp fun _ k => k.1,
      (h.2.2.2.2.1 postedState (.record 0 3 0x1000 0) [] rfl).imp fun _ k => k.1,
      (h.2.2.2.2.2.1 (ringState { enable := true, owes := true }) rfl).imp fun _ k => k.1,
      (h.2.2.2.2.2.2 { row := 1, read := true, header := 0, offset := 0, len := 4 } (hostState host0) rfl rfl (by decide)).imp fun _ k => k.1⟩, by decide +kernel⟩

/-- The function as the tests of its link and its resets need it. -/
def sideState (v : Velvet) : State := { hostState host0 with velvet := v }
def velvet0 : Velvet := { powered := true, valid := true }
def resetState : State := hostState { resetting := true, resetCause := 2 }

theorem test_host_resets : (Obligations.HostFunctionFollowsItsLinkAndResets → Runs .dlDown (hostState host0) ∧
      Runs .dlUp { hostState { inReset := false } with velvet := { velvet0 with perstN := true } } ∧ Runs (.pcieConfigWrite true true false) (hostState host0) ∧
      Runs .functionLevelReset (hostState host0) ∧ Runs .hotReset (hostState host0) ∧ Runs .hostLinkDownTimeout (hostState { host0 with linkUp := false, downAt := some 0 }) ∧
      Runs .perstNAssert (sideState { velvet0 with perstN := true, raw := [(0, true)] }) ∧ Runs .perstNDeassert (sideState velvet0) ∧ Runs .hostResetComplete resetState) ∧
    gives (exec .functionLevelReset (hostState host0)) (fun t => t.host.resetting && decide (t.host.epoch = 1)) = true ∧
    gives (exec .dlDown (hostState host0)) (fun t => decide (t.host.epoch = 1) && !t.host.linkUp) = true ∧
    gives (exec .hostResetComplete resetState) (fun t => decide (t.host.lastReset = 2) && !t.host.resetting) = true :=
  ⟨fun h => ⟨(h.1 (hostState host0) rfl).imp fun _ k => k.1,
      ⟨_, h.2.1 { hostState { inReset := false } with velvet := { velvet0 with perstN := true } } rfl rfl rfl⟩,
      ⟨_, h.2.2.1 true true false (hostState host0) rfl rfl⟩, (h.2.2.2.1 (hostState host0) rfl rfl).imp fun _ k => k.1,
      (h.2.2.2.2.1 (hostState host0) rfl rfl).imp fun _ k => k.1,
      (h.2.2.2.2.2.1 (hostState { host0 with linkUp := false, downAt := some 0 }) 0 rfl rfl (by decide +kernel)).imp fun _ k => k.1,
      (h.2.2.2.2.2.2.1 (sideState { velvet0 with perstN := true, raw := [(0, true)] }) (by unfold Calm; decide +kernel) rfl rfl).imp fun _ k => k.1,
      (h.2.2.2.2.2.2.2.1 (sideState velvet0) (by unfold Calm; decide +kernel) rfl rfl).imp fun _ k => k.1,
      (h.2.2.2.2.2.2.2.2 resetState rfl (by decide +kernel)).imp fun _ k => k.1⟩, by decide +kernel⟩

/-- Host core 0 runs, and its cache (1536) holds line 96 modified. -/
def hcState : State :=
  { readyState with power := { dies := [(0, { n := 64, m := 16 })] }, caches := [(1536, { lines := [(96 * 16, { line := 96, st := .m, data := 0x77 })], reserved := some 96 })] }

/-- Virtual address 0x3000 without translation (satp 0), or through the empty page table of frame 0 (mode 10 is Sv57). -/
def virt0 (satp : BitVec 64) : HostVirt := { va := 0x3000, satp := satp, user := false, sum := false, mxr := false, adHw := false }

theorem test_host_cores : (Obligations.HostCoresAccessMemory → Runs (.hostCoreMemoryAccess 0 .fence false ⟨0x3000, none⟩ 2 0) hcState ∧
      Runs (.hostCoreMemoryAccess 0 .wrsNto false ⟨0x3000, none⟩ 2 0) { hcState with caches := [] } ∧ Runs (.hostCoreMemoryAccess 0 .load false ⟨0x3000, none⟩ 2 0) hcState ∧
      Runs (.hostCoreMemoryAccess 0 .store false ⟨0x3000, none⟩ 2 5) hcState ∧ Runs (.hostCoreMemoryAccess 0 .lr false ⟨0x3002, none⟩ 2 0) hcState ∧
      Runs (.hostCoreMemoryAccess 0 (.amo 1) false ⟨0x3000, none⟩ 2 5) hcState ∧ Runs (.hostCoreMemoryAccess 0 .lr false ⟨0x3000, none⟩ 2 0) hcState ∧
      Runs (.hostCoreMemoryAccess 0 .sc false ⟨0x3080, none⟩ 2 5) hcState ∧ Runs (.hostCoreMemoryAccess 0 .sc false ⟨0x3000, none⟩ 2 5) hcState ∧
      Runs (.hostCoreMemoryAccess 0 .load false ⟨0, some (virt0 0xA000000000000000)⟩ 2 5) hcState ∧ Runs (.hostCoreMemoryAccess 0 .load false ⟨0, some (virt0 0)⟩ 2 5) hcState ∧
      Runs (.hostCoreMemoryAccess 0 .store false ⟨0, some (virt0 0)⟩ 2 5) hcState) ∧
    gives (exec (.hostCoreMemoryAccess 0 .load false ⟨0, some (virt0 0)⟩ 2 5) hcState) (fun t => decide (t.hub.lastRead = 0x77)) = true ∧
    gives (exec (.hostCoreMemoryAccess 0 .load false ⟨0x3000, none⟩ 2 0) hcState) (fun t => decide (t.hub.lastRead = 0x77)) = true ∧
    gives (exec (.hostCoreMemoryAccess 0 .sc false ⟨0x3000, none⟩ 2 5) hcState) (fun t => decide (t.hub.lastRead = 0) &&
      decide (((t.cache 1536).find 1536 96).map (fun x => x.2.data) = some 5)) = true ∧
    gives (exec (.hostCoreMemoryAccess 0 .sc false ⟨0x3080, none⟩ 2 5) hcState) (fun t => decide (t.hub.lastRead = 1)) = true :=
  ⟨fun h => ⟨((h 0 false 0x3000 2 0 hcState).1 (by decide +kernel)).imp fun _ k => k.1,
      ((h 0 false 0x3000 2 0 { hcState with caches := [] }).2.1 (by decide +kernel) rfl).imp fun _ k => k.1,
      ((h 0 false 0x3000 2 0 hcState).2.2.1 _ 0x77 (by unfold HostAccess; decide +kernel) (ok_of (by decide +kernel))).imp fun _ k => k.1,
      ((h 0 false 0x3000 2 5 hcState).2.2.2.1 _ (by unfold HostAccess; decide +kernel) (ok_of (by decide +kernel))).imp fun _ k => k.1,
      ((h 0 false 0x3002 2 0 hcState).2.2.2.2.1 .lr (by decide) (by unfold HostAccess; decide +kernel) (by decide)).imp fun _ k => k.1,
      ((h 0 false 0x3000 2 5 hcState).2.2.2.2.2.1 1 _ { data := 0x77, poison := 0 } (by unfold HostAccess; decide +kernel) (by decide) (by decide) (ok_of (by decide +kernel))
        (by decide +kernel)).imp fun _ k => k.1,
      ((h 0 false 0x3000 2 0 hcState).2.2.2.2.2.2.1 _ 0x77 (by unfold HostAccess; decide +kernel) (by decide) (by decide) (ok_of (by decide +kernel))).imp fun _ k => k.1,
      ((h 0 false 0x3080 2 5 hcState).2.2.2.2.2.2.2.1 (by unfold HostAccess; decide +kernel) (by decide) (by decide) (by decide +kernel)).imp fun _ k => k.1,
      ((h 0 false 0x3000 2 5 hcState).2.2.2.2.2.2.2.2.1 _ (by unfold HostAccess; decide +kernel) (by decide) (by decide) (by decide +kernel)
        (ok_of (by decide +kernel))).imp fun _ k => k.1,
      (((h 0 false 0 2 5 hcState).2.2.2.2.2.2.2.2.2 (virt0 0xA000000000000000) .load _ (by decide +kernel) (by decide) (by decide) (by decide)).1 4
        (error_at (by decide +kernel))).imp fun _ k => k.1,
      (((h 0 false 0 2 5 hcState).2.2.2.2.2.2.2.2.2 (virt0 0) .load _ (by decide +kernel) (by decide) (by decide) (by decide)).2.1 [(0x3000, 4, 0)] 0x77 _
        (ok_of (by decide +kernel)) rfl (by decide) (ok_of (by decide +kernel))).imp fun _ k => k.1,
      (((h 0 false 0 2 5 hcState).2.2.2.2.2.2.2.2.2 (virt0 0) .store _ (by decide +kernel) (by decide) (by decide) (by decide)).2.2 [(0x3000, 4, 0)] _
        (ok_of (by decide +kernel)) rfl (by decide) (ok_of (by decide +kernel))).imp fun _ k => k.1⟩, by decide +kernel⟩

/-! ## Commands -/

/-- A packet (Table 11.2) of fields: byte offset, width and value. -/
def packet0 (l : List (Nat × Nat × Nat)) : BitVec 512 := BitVec.ofNat 512 (pack l)

/-- Queue 1 of context c with a command; the partition of die 0 is its own, and contexts 0 and 1 exist. -/
def runState (c : Nat) (r : Run) : State :=
  { readyState with ticks := 2 ^ 31, partitions := [(0, { dies := 1, current := some 1 })], contexts := [(0, { live := true, key := some 0 }), (1, { live := true, first := some 0, sliceUs := 100, key := some 0, priv := 0xFFFF })]
                    queues := [(1, { live := true, context := c, ringBase := 0x10000, statusBase := 0x20000, readIndexAddr := 0x30000, limitMs := 1, run := some r })] }
def cmdState (c : Nat) (l : List (Nat × Nat × Nat)) : State := runState c { packet := packet0 l }
/-- The run that cmdState's queue has. -/
def cmd0 (l : List (Nat × Nat × Nat)) : Run := { packet := packet0 l }
/-- The end of queue 1's command: status, detail and result. -/
def endOf (o : Host.Outcome State Fault Refusal) (status detail result : Nat) : Bool :=
  gives o fun t => decide (((t.run 1).map fun r => (r.stage, r.status.toNat, r.detail.toNat, r.result.toNat)) = some (.ending, status, detail, result))

/-- A queue with a doorbell rung for one packet, which stands in memory (a NOP), or is empty. -/
def fetchState (c : Nat) (bs : List Byte) : State :=
  let s := runState c {}
  (s.modQueue 1 fun k => { k with run := none, doorbell := 1 }).cpWrite c 0x10000 bs |>.1

theorem err_of {α ε : Type} [DecidableEq ε] {x : State × Except ε α} {e : ε} (h : (match x.2 with | .ok _ => false | .error d => decide (d = e)) = true) :
    x = (x.1, .error e) := by
  rcases x with ⟨u, y⟩
  cases y with
  | error d => simp only [decide_eq_true_eq] at h; rw [h]
  | ok x => simp at h

/-- The packet's second sector is poisoned. -/
def spoiltFetch : State := { fetchState 1 (leBytes 64 1) with poison := [memKey 0 0x10020 / 32] }

theorem test_fetch : (Obligations.CommandsAreFetchedRunAndCompleted →
      Runs (.doorbellWrite (.hostCore 0) 1 0 8 1) (runState 1 {}) ∧ Runs (.doorbellWrite (.hostCore 0) 1 8 8 1) (runState 1 {}) ∧
      Runs (.doorbellWrite .trayHost 1 0 8 1) (runState 1 {}) ∧ Runs (.commandFetch 1) (fetchState 1 (leBytes 64 1)) ∧ Runs (.commandFetch 1) (fetchState 1 (leBytes 64 0)) ∧
      Runs (.commandFetch 1) spoiltFetch ∧
      Runs (.emptySlotRetry 1) ((fetchState 1 []).modQueue 1 fun k => { k with emptyAt := some 0 })) ∧
    gives (exec (.doorbellWrite (.hostCore 0) 1 0 8 1) (runState 1 {})) (fun t => decide ((t.queue 1).doorbell = 1)) = true ∧
    gives (exec (.commandFetch 1) (fetchState 1 (leBytes 64 1))) (fun t => decide ((t.run 1).map (·.stage) = some .fetched)) = true ∧
    gives (exec (.commandFetch 1) (fetchState 1 (leBytes 64 0x99))) (fun t => decide ((t.run 1).map (·.status) = some 3)) = true ∧
    gives (exec (.commandFetch 1) (fetchState 1 (leBytes 64 0))) (fun t => decide ((t.queue 1).emptyAt = some t.ticks)) = true :=
  ⟨fun h => ⟨(h.1 0 1 1 (runState 1 {}) rfl (by decide) (by decide +kernel)).imp fun _ k => k.1,
      (h.2.1 0 1 8 8 1 (runState 1 {}) (by decide)).imp fun _ k => k.1,
      ⟨_, h.2.2.1 .trayHost 1 0 8 1 (runState 1 {}) (fun _ => Agent.noConfusion)⟩,
      ((h.2.2.2.1 1 (fetchState 1 (leBytes 64 1)) _ [1, 0] (by decide +kernel) (by decide +kernel) (by decide +kernel) (by decide +kernel)
        (ok_of (by decide +kernel))).2.1 (by decide +kernel) _ (leBytes 64 1) (ok_of (by decide +kernel))).elim fun t k => k.elim fun _ k => ⟨t, k.1⟩,
      ((h.2.2.2.1 1 (fetchState 1 (leBytes 64 0)) _ [0, 0] (by decide +kernel) (by decide +kernel) (by decide +kernel) (by decide +kernel)
        (ok_of (by decide +kernel))).1 (by decide +kernel)).imp fun _ k => k.1,
      ((h.2.2.2.1 1 spoiltFetch _ [1, 0] (by decide +kernel) (by decide +kernel) (by decide +kernel) (by decide +kernel)
        (ok_of (by decide +kernel))).2.2 (by decide +kernel) _ (.poison 0x10000) (by decide) (err_of (by decide +kernel))).imp fun _ k => k.1,
      (h.2.2.2.2.2.1 1 ((fetchState 1 []).modQueue 1 fun k => { k with emptyAt := some 0 }) 0 (by decide +kernel) (by decide +kernel)).imp fun _ k => k.1⟩, by decide +kernel⟩

/-- A queue that reads its packets where there is no memory. -/
def lostState : State := (fetchState 1 []).modQueue 1 fun k => { k with ringBase := 2 ^ 51 }

theorem test_lost : (Obligations.CommandsAreFetchedRunAndCompleted → Runs (.commandFetch 1) lostState) ∧
    gives (exec (.commandFetch 1) lostState) (fun t => (t.queue 1).error) = true :=
  ⟨fun h => (h.2.2.2.2.1 1 lostState _ (.failed (2 ^ 51)) (by decide +kernel) (by decide +kernel) (by decide +kernel) (by decide +kernel) (by decide)
      (err_of (by decide +kernel))).imp fun _ k => k.1, by decide +kernel⟩

def waitFor (v : Nat) : List (Nat × Nat × Nat) := [(0, 2, 4), (0x10, 8, 0x40000), (0x18, 8, v)]

theorem test_nop_wait : (Obligations.CommandsAreFetchedRunAndCompleted → Runs (.nopCommand 1) (cmdState 1 [(0, 2, 1), (0x20, 1, 7)]) ∧
      Runs (.nopCommand 1) (cmdState 1 [(0, 2, 1)]) ∧ Runs (.wait 1) (cmdState 1 (waitFor 0)) ∧
      Runs (.waitPoll 1) (runState 1 { cmd0 (waitFor 5) with stage := .running })) ∧
    endOf (exec (.nopCommand 1) (cmdState 1 [(0, 2, 1), (0x20, 1, 7)])) 4 0x20 0 = true ∧ endOf (exec (.nopCommand 1) (cmdState 1 [(0, 2, 1)])) 0 0 0 = true ∧
    endOf (exec (.wait 1) (cmdState 1 (waitFor 0))) 0 0 0 = true ∧
    gives (exec (.waitPoll 1) (runState 1 { cmd0 (waitFor 5) with stage := .running })) (fun t => decide ((t.run 1).map (·.stage) = some .running)) = true :=
  ⟨fun h => ⟨((h.2.2.2.2.2.2.1 1 (cmdState 1 [(0, 2, 1), (0x20, 1, 7)]) (cmd0 [(0, 2, 1), (0x20, 1, 7)]) (by decide +kernel)).1 0x20 (by decide +kernel)).imp fun _ k => k.1,
      ⟨_, (h.2.2.2.2.2.2.1 1 (cmdState 1 [(0, 2, 1)]) (cmd0 [(0, 2, 1)]) (by decide +kernel)).2 (by decide +kernel)⟩,
      (h.2.2.2.2.2.2.2.1 1 (cmdState 1 (waitFor 0)) (cmd0 (waitFor 0)) _ (leBytes 8 0) (by decide +kernel) (by decide +kernel) (ok_of (by decide +kernel))).imp fun _ k => k.1,
      (h.2.2.2.2.2.2.2.2.1 1 (runState 1 { cmd0 (waitFor 5) with stage := .running }) { cmd0 (waitFor 5) with stage := .running } _ (leBytes 8 0) (by decide +kernel) rfl
        (by decide +kernel) (by decide +kernel) (ok_of (by decide +kernel))).imp fun _ k => k.1⟩, by decide +kernel⟩

def countsTo (c : Nat) : List (Nat × Nat × Nat) := [(0, 2, 0x104), (0x10, 1, c), (0x18, 8, 0x40000)]
def lateRun : Run := { cmd0 (waitFor 5) with stage := .running, start := some 0 }
def endedRun : Run := { cmd0 [(0, 2, 2)] with stage := .ending }

theorem test_counts : (Obligations.CommandsAreFetchedRunAndCompleted → Runs (.countsRead 1) (cmdState 1 (countsTo 1)) ∧
      Runs (.counterRead 1) (cmdState 1 [(0, 2, 0x105)]) ∧ Runs (.commandLimitExpiry 1) (runState 1 lateRun)) ∧
    endOf (exec (.countsRead 1) (cmdState 1 (countsTo 1))) 0 0 0 = true ∧ endOf (exec (.countsRead 1) (cmdState 1 (countsTo 0))) 0x0C 0 0 = true ∧
    endOf (exec (.counterRead 1) ((cmdState 1 [(0, 2, 0x105)]).modContext 1 fun c => { c with counter := 9 })) 0 0 9 = true ∧
    endOf (exec (.commandLimitExpiry 1) (runState 1 lateRun)) 2 0 0 = true :=
  ⟨fun h => ⟨⟨_, h.2.2.2.2.2.2.2.2.2.2.1 1 (cmdState 1 (countsTo 1)) (cmd0 (countsTo 1)) _ (by decide +kernel) (.inr (by decide +kernel)) (by decide +kernel) (by decide +kernel)
        (ok_of (by decide +kernel))⟩,
      ⟨_, h.2.2.2.2.2.2.2.2.2.2.2.1 1 (cmdState 1 [(0, 2, 0x105)]) (cmd0 [(0, 2, 0x105)]) (by decide +kernel) (by decide +kernel)⟩,
      (h.2.2.2.2.2.2.2.2.2.2.2.2.1 1 (runState 1 lateRun) lateRun 0 (by decide +kernel) rfl rfl (by decide +kernel)).elim fun t k => k.elim fun _ k => ⟨t, k.1⟩⟩,
    by decide +kernel⟩

/-- The state after writes that succeed. -/
def wroteOf (o : Attempt (State × Option Nat)) : State := match o with
  | .ok x => x.1
  | .error _ => {}

theorem wrote_of {o : Attempt (State × Option Nat)} (h : (match o with | .ok x => x.2.isNone | .error _ => false) = true) : o = .ok (wroteOf o, none) := by
  rcases o with _ | ⟨u, _ | a⟩
  · exact absurd h Bool.false_ne_true
  · rfl
  · exact absurd h Bool.false_ne_true

theorem test_complete : (Obligations.CommandsAreFetchedRunAndCompleted → Runs (.commandComplete 1) (runState 1 endedRun)) ∧
    gives (exec (.commandComplete 1) (runState 1 endedRun)) (fun t => decide ((t.queue 1).read = 1) && decide ((t.context 1).jobsDone = 1) && (t.queue 1).run.isNone) = true ∧
    gives (exec (.commandComplete 1) (runState 1 endedRun)) (fun t => okAs (t.cpRead 1 0x20000 4) [0, 0, 2, 0] && okAs (t.cpRead 1 0x30000 8) (leBytes 8 1)) = true :=
  ⟨fun h => (h.2.2.2.2.2.2.2.2.2.2.2.2.2 1 (runState 1 endedRun) endedRun _ (by decide +kernel) (by decide +kernel) (by decide +kernel) rfl (by decide +kernel) rfl rfl rfl rfl rfl
      (by decide +kernel) rfl (wrote_of (by decide +kernel)) (by decide +kernel)).imp fun _ k => k.1, by decide +kernel⟩

/-- A collective of one rank that stands in memory: COUNT 1, an AllReduce of u32 with a peer table of one entry. -/
def descriptor0 : List Byte := leBytes 64 (pack [(0, 2, 4), (8, 4, 1), (0xC, 4, 1), (0x14, 2, 1), (0x18, 2, 1), (0x20, 8, 0x50000), (0x30, 8, 0x51000), (0x38, 8, 0x52000)])
def collCmd (pa : Nat) : List (Nat × Nat × Nat) := [(0, 2, 5), (0x10, 8, pa)]
def collCmdState (pa : Nat) : State := ((cmdState 1 (collCmd pa)).cpWrite 1 0x40000 descriptor0).1

/-- The same with a peer whose address is not within 21 bits. -/
def badPeerState : State := ((collCmdState 0x40000).cpWrite 1 0x52000 [0, 0, 0x20, 0]).1

theorem test_collective : (Obligations.CommandsAreFetchedRunAndCompleted → Runs (.collective 1) (collCmdState 0x40001) ∧ Runs (.collective 1) (collCmdState 0x40000) ∧
      Runs (.collective 1) badPeerState) ∧
    endOf (exec (.collective 1) badPeerState) 9 7 0 = true ∧
    endOf (exec (.collective 1) (collCmdState 0x40001)) 9 7 0 = true ∧
    gives (exec (.collective 1) (collCmdState 0x40000)) (fun t => decide (t.colls.map (·.running) = [true])) = true :=
  ⟨fun h => ⟨((h.2.2.2.2.2.2.2.2.2.1 1 (collCmdState 0x40001) (cmd0 (collCmd 0x40001)) {} [] {} [] (by decide +kernel) (by decide +kernel) (by decide +kernel)).1
        (by decide +kernel)).imp fun _ k => k.1,
      (((h.2.2.2.2.2.2.2.2.2.1 1 (collCmdState 0x40000) (cmd0 (collCmd 0x40000)) _ descriptor0 _ [0, 0, 0, 0] (by decide +kernel) (by decide +kernel) (by decide +kernel)).2
        (by decide +kernel) (ok_of (by decide +kernel)) (by decide +kernel) (ok_of (by decide +kernel))).1 (by decide +kernel)).elim fun t k => k.elim fun _ k => ⟨t, k.1⟩,
      ⟨_, ((h.2.2.2.2.2.2.2.2.2.1 1 badPeerState (cmd0 (collCmd 0x40000)) _ descriptor0 _ [0, 0, 0x20, 0] (by decide +kernel) (by decide +kernel) (by decide +kernel)).2
        (by decide +kernel) (ok_of (by decide +kernel)) (by decide +kernel) (ok_of (by decide +kernel))).2 0 (by decide +kernel) (by decide +kernel)⟩⟩, by decide +kernel⟩

/-! ## Contexts, queues and the KV ledger -/

def makeContext : List (Nat × Nat × Nat) := [(0, 2, 0x100), (0x10, 1, 2), (0x18, 4, 100)]
def endContext (c : Nat) : List (Nat × Nat × Nat) := [(0, 2, 0x101), (0x10, 1, c)]
def makeQueue (n : Nat) : List (Nat × Nat × Nat) :=
  [(0, 2, 0x102), (0x10, 1, 1), (0x11, 1, n), (0x12, 1, 6), (0x14, 4, 1), (0x18, 8, 0x60000), (0x20, 8, 0x61000), (0x28, 8, 0x62000), (0x30, 8, 10 * 2 ^ 60)]
def endQueue (n : Nat) : List (Nat × Nat × Nat) := [(0, 2, 0x103), (0x10, 1, n)]

theorem test_contexts : (Obligations.ContextsQueuesAndPoolsAreMadeAndDestroyed → Runs (.contextCreate 1) (cmdState 0 makeContext) ∧
      Runs (.contextDestroy 1) (cmdState 0 (endContext 1)) ∧ Runs (.queueCreate 1) (cmdState 1 (makeQueue 2)) ∧ Runs (.queueDestroy 1) (cmdState 1 (endQueue 1))) ∧
    gives (exec (.contextCreate 1) (cmdState 0 makeContext)) (fun t => (t.context 2).live && decide ((t.context 2).sliceUs = 100)) = true ∧
    endOf (exec (.contextCreate 1) (cmdState 1 makeContext)) 0x0C 0 0 = true ∧
    gives (exec (.contextDestroy 1) (cmdState 0 (endContext 1))) (fun t => decide ((t.context 1).ending = some 1)) = true ∧
    gives (exec (.queueCreate 1) (cmdState 1 (makeQueue 2))) (fun t => (t.queue 2).live && decide ((t.queue 2).ringBase = 0x60000)) = true ∧
    gives (exec (.queueDestroy 1) (cmdState 1 (endQueue 1))) (fun t => (t.queue 1).stopping) = true :=
  ⟨fun h => ⟨(h.1 1 (cmdState 0 makeContext) (cmd0 makeContext) (by decide +kernel) (by decide +kernel) (by decide +kernel) (by decide +kernel) (by decide +kernel)
        (by decide +kernel)).imp fun _ k => k.1,
      (h.2.1 1 (cmdState 0 (endContext 1)) (cmd0 (endContext 1)) (by decide +kernel) (by decide +kernel) (by decide +kernel) (by decide +kernel)
        (by decide +kernel)).elim fun t k => k.elim fun _ k => ⟨t, k.1⟩,
      (h.2.2.1 1 (cmdState 1 (makeQueue 2)) (cmd0 (makeQueue 2)) _ (leBytes 8 0) (by decide +kernel) (by decide +kernel) (by decide +kernel) (by decide +kernel)
        (by decide +kernel) (by decide +kernel) (ok_of (by decide +kernel)) (by decide +kernel)).elim fun t k => k.elim fun _ k => ⟨t, k.1⟩,
      (h.2.2.2.1 1 (cmdState 1 (endQueue 1)) (cmd0 (endQueue 1)) (by decide +kernel) (by decide +kernel) (by decide +kernel) (by decide +kernel)
        (by decide +kernel)).imp fun _ k => k.1⟩, by decide +kernel⟩

/-- A pool of 8 blocks of 4 KiB for 2 sequences of 4 blocks at most, and a step of two operations: JOINs of 3 and of 6 blocks. -/
def makePool : List (Nat × Nat × Nat) :=
  [(0, 2, 0x200), (0x10, 1, 3), (0x11, 1, 12), (0x12, 2, 4), (0x14, 4, 2), (0x18, 4, 8), (0x20, 8, 0x80000), (0x28, 8, 0x90000), (0x30, 8, 0xA0000)]
def pool0 : KvPool := { owner := 1, blockLog2 := 12, maxBlocks := 4, maxSeqs := 2, blocks := 8, blockBase := 0x80000, tableBase := 0x90000, bitmapBase := 0xA0000 }
def poolState (l : List (Nat × Nat × Nat)) : State := { cmdState 1 l with pools := [(3, pool0)] }
def endPool : List (Nat × Nat × Nat) := [(0, 2, 0x202), (0x10, 1, 3)]
def kvCmd : List (Nat × Nat × Nat) := [(0, 2, 0x201), (0x10, 1, 3), (0x14, 4, 2), (0x18, 8, 0x40000)]
def kvOps : List Byte := leBytes 32 (pack [(0, 1, 3), (4, 4, 0), (8, 4, 3), (16, 1, 3), (20, 4, 1), (24, 4, 4)])
def kvState : State := ((poolState kvCmd).cpWrite 1 0x40000 kvOps).1

theorem test_pools : (Obligations.ContextsQueuesAndPoolsAreMadeAndDestroyed → Runs (.kvPoolCreate 1) (cmdState 1 makePool) ∧ Runs (.kvPoolDestroy 1) (poolState endPool)) ∧
    gives (exec (.kvPoolCreate 1) (cmdState 1 makePool)) (fun t => decide (t.pools = [(3, pool0)])) = true ∧
    gives (exec (.kvPoolDestroy 1) (poolState endPool)) (fun t => t.pools.isEmpty) = true :=
  ⟨fun h => ⟨(h.2.2.2.2.1 1 (cmdState 1 makePool) (cmd0 makePool) _ (by decide +kernel) (by decide +kernel) (by decide +kernel) (by decide +kernel) (by decide +kernel)
        (ok_of (by decide +kernel))).imp fun _ k => k.1,
      ⟨_, h.2.2.2.2.2.1 1 (poolState endPool) (cmd0 endPool) (by decide +kernel) (by decide +kernel) (by decide +kernel) (by decide +kernel) (by decide +kernel)⟩⟩, by decide +kernel⟩

theorem test_kv_step : (Obligations.ContextsQueuesAndPoolsAreMadeAndDestroyed → Runs (.kvStep 1) kvState) ∧ endOf (exec (.kvStep 1) kvState) 0 0 1 = true ∧
    gives (exec (.kvStep 1) kvState) (fun t => okAs (t.cpRead 1 0xA0000 1) [0x7F] && okAs (t.cpRead 1 0x90000 8) [1, 0, 0, 0, 3, 0, 0, 0]) = true :=
  ⟨fun h => (h.2.2.2.2.2.2 1 kvState (cmd0 kvCmd) _ kvOps _ [[0], List.replicate 32 0, List.replicate 32 0] (by decide +kernel) (by decide +kernel) (by decide +kernel) (by decide +kernel)
      (by decide +kernel) (ok_of (by decide +kernel)) (ok_of (by decide +kernel)) (fun i o hi => by
        have hm := List.mem_of_getElem? hi
        clear hi
        revert o
        decide +kernel) _ (ok_of (by decide +kernel))).imp fun _ k => k.1, by decide +kernel⟩

/-! ## KERNEL and LAYER -/

/-- Virtual page 0x70 of context 1 is physical page 0x70, where a code object's header stands. -/
def page0 : TlbEntry := { context := 1, asid := 0, global_ := true, pageLog2 := 12, vpage := 0x70, base := 0x70000, perms := 7, pbmt := 0, dirty := true }
def codeState (r : Run) : State :=
  let s : State := { runState 1 r with cores := (List.range 8).map fun c => (c, ({ present := true } : Core)) }
  ((s.modTile 0 fun k => { k with tlbSmall := [page0] }).cpWrite 1 0x70000 (leBytes 64 (header0 0).toNat)).1

def kernelCmd (x : Nat) : List (Nat × Nat × Nat) := [(0, 2, 2), (0x10, 8, 0x70000), (0x20, 4, x), (0x24, 2, 1), (0x26, 2, 1)]
def waiting (l : List (Nat × Nat × Nat)) : Run := { cmd0 l with stage := .waitSlice }
def badCode : List (Nat × Nat × Nat) := [(0, 2, 2), (0x10, 8, 0x70001), (0x20, 4, 1), (0x24, 2, 1), (0x26, 2, 1)]

/-- The state that takeSlice gives. -/
def some0 (o : Option State) : State := o.getD {}
theorem some_of {o : Option State} (h : o.isSome = true) : o = some (some0 o) := by
  cases o with
  | none => simp at h
  | some x => rfl

theorem test_kernel : (Obligations.KernelsAndLayersLaunchInTheirSlice → Runs (.kernel 1) (cmdState 1 (kernelCmd 1)) ∧ Runs (.kernel 1) (codeState (waiting (kernelCmd 1))) ∧
      Runs (.kernel 1) { codeState (waiting (kernelCmd 1)) with cores := [] } ∧ Runs (.kernel 1) (codeState (waiting badCode)) ∧
      ∃ t, (codeState (waiting (kernelCmd 1))).beginSliced 1 0 (waiting (kernelCmd 1)) = some t) ∧
    gives (exec (.kernel 1) (cmdState 1 (kernelCmd 1))) (fun t => decide ((t.run 1).map (·.stage) = some .waitSlice)) = true ∧
    endOf (exec (.kernel 1) (cmdState 1 (kernelCmd 0))) 4 0x20 0 = true ∧
    gives (exec (.kernel 1) (codeState (waiting (kernelCmd 1)))) (fun t => decide ((t.run 1).map (fun r => (r.stage, r.launches.map (·.code))) = some (.running, [0x70000]))) = true ∧
    endOf (exec (.kernel 1) { codeState (waiting (kernelCmd 1)) with cores := [] }) 7 0 0 = true ∧ endOf (exec (.kernel 1) (codeState (waiting badCode))) 5 1 0 = true :=
  ⟨fun h => ⟨⟨_, h.1 1 (cmdState 1 (kernelCmd 1)) (cmd0 (kernelCmd 1)) 2 (.inl rfl) (by decide +kernel) (by decide +kernel) (by decide +kernel)⟩,
      ⟨_, (h.2.1 1 (codeState (waiting (kernelCmd 1))) (waiting (kernelCmd 1)) 0 _ _ (header0 0) (by decide +kernel) (some_of (by decide +kernel)) (ok_of (by decide +kernel))).2
        (by decide +kernel)⟩,
      ⟨_, (h.2.1 1 { codeState (waiting (kernelCmd 1)) with cores := [] } (waiting (kernelCmd 1)) 0 _ _ (header0 0) (by decide +kernel) (some_of (by decide +kernel))
        (ok_of (by decide +kernel))).1 (by decide +kernel)⟩,
      ⟨_, h.2.2.1 1 (codeState (waiting badCode)) (waiting badCode) 0 _ _ 1 (by decide +kernel) (some_of (by decide +kernel)) (err_of (by decide +kernel))⟩,
      (h.2.2.2.1 1 (codeState (waiting (kernelCmd 1))) (waiting (kernelCmd 1)) 0 _ _ (by decide +kernel) rfl (some_of (by decide +kernel)) (some_getD (d := {}) (by decide +kernel))).imp
        fun _ k => k.1⟩,
    by decide +kernel⟩

/-- A LAYER of one kernel, without and with a step table of one entry, on cells 0 to 0. -/
def layerCmd (tab : Nat) : List (Nat × Nat × Nat) := [(0, 2, 3), (0x10, 8, 0x71000), (0x18, 2, 1), (0x20, 8, tab)]
def listEntry : List Byte := leBytes 32 (pack [(0, 8, 0x70000), (0x10, 4, 1), (0x14, 2, 1), (0x16, 2, 1)])
def tableHead : List Byte := leBytes 16 (pack [(0, 4, 0x50545331), (4, 2, 1), (6, 2, 1), (8, 2, 1)])
def tableEntry : List Byte := leBytes 16 (pack [(2, 1, 1), (3, 1, 1), (6, 2, 1)])
def layerState (tab : Nat) : State := ((codeState (waiting (layerCmd tab))).cpWrite 1 0x71000 (listEntry ++ List.replicate 32 0 ++ tableHead ++ tableEntry)).1
def listEntries : List (BitVec 256 × BitVec 512) := [(BitVec.ofNat 256 (leNat listEntry), header0 0)]

theorem test_layer : (Obligations.KernelsAndLayersLaunchInTheirSlice → Runs (.layer 1) (cmdState 1 (layerCmd 0)) ∧ Runs (.layer 1) (layerState 0) ∧
      Runs (.layer 1) (layerState 0x71040)) ∧
    gives (exec (.layer 1) (layerState 0)) (fun t => decide ((t.run 1).map (fun r => (r.stage, r.launches.map (·.code))) = some (.running, [0x70000]))) = true ∧
    gives (exec (.layer 1) (layerState 0x71040)) (fun t => decide ((t.run 1).map (fun r => (r.stage, r.launches.length, r.steps.length)) = some (.running, 0, 1))) = true :=
  ⟨fun h => ⟨⟨_, h.1 1 (cmdState 1 (layerCmd 0)) (cmd0 (layerCmd 0)) 3 (.inr rfl) (by decide +kernel) (by decide +kernel) (by decide +kernel)⟩,
      ((h.2.2.2.2.1 1 (layerState 0) (waiting (layerCmd 0)) 0 _ _ listEntry _ ((BitVec.ofNat 256 (leNat listEntry), header0 0)) [] (by decide +kernel)
        (some_of (by decide +kernel)) (ok_of (by decide +kernel))).1 (by decide +kernel) (ok_of (by decide +kernel)) (by decide +kernel)).imp fun _ k => k.1,
      ⟨_, (h.2.2.2.2.1 1 (layerState 0x71040) (waiting (layerCmd 0x71040)) 0 _ _ listEntry _ ((BitVec.ofNat 256 (leNat listEntry), header0 0)) [] (by decide +kernel)
        (some_of (by decide +kernel)) (ok_of (by decide +kernel))).2 (by decide +kernel) _ tableHead _ tableEntry (ok_of (by decide +kernel)) (by decide +kernel)
        (ok_of (by decide +kernel)) (ok_of (by decide +kernel)) (by decide +kernel)⟩⟩, by decide +kernel⟩

def entry0 : BitVec 128 := BitVec.ofNat 128 (leNat tableEntry)
def nextRun : Run := { cmd0 (layerCmd 0) with stage := .running, kernels := listEntries }
def stepRun : Run := { nextRun with steps := [entry0] }

theorem test_advance : (Obligations.KernelsAndLayersLaunchInTheirSlice → Runs (.layerKernelAdvance 1) (codeState nextRun) ∧ Runs (.stepEntryStart 1 0) (codeState stepRun)) ∧
    gives (exec (.layerKernelAdvance 1) (codeState nextRun)) (fun t => decide ((t.run 1).map (·.launches.length) = some 1)) = true ∧
    gives (exec (.stepEntryStart 1 0) (codeState stepRun)) (fun t => decide ((t.run 1).map (fun r => r.launches.map fun l => (l.entry, l.stepPhase)) = some [(some 0, 1)])) = true :=
  ⟨fun h => ⟨⟨_, h.2.2.2.2.2.1 1 (codeState nextRun) nextRun 0 ((BitVec.ofNat 256 (leNat listEntry), header0 0)) (by decide +kernel) rfl (by decide +kernel) (by decide +kernel)
        (by decide +kernel) (by decide +kernel)⟩,
      ⟨_, h.2.2.2.2.2.2.1 1 0 (codeState stepRun) stepRun 0 entry0 ((BitVec.ofNat 256 (leNat listEntry), header0 0)) (by decide +kernel) (by decide +kernel) (by decide +kernel)
        (by decide +kernel) (by decide +kernel) (by decide +kernel)⟩⟩, by decide +kernel⟩

/-- Two contexts of one partition; the second waits for its slice. -/
def sliceState (late : Bool) : State :=
  { runState 2 (waiting (kernelCmd 1)) with
    contexts := [(1, { live := true, first := some 0, sliceUs := 100 }), (2, { live := true, first := some 0, sliceUs := 100 })]
    partitions := [(0, { dies := 1, current := some 1, sliceOver := late })] }

/-- No other context waits; and no context is current, the second having waited longer. -/
def aloneState : State := { sliceState false with queues := [] }
def freeState : State :=
  { sliceState false with
    partitions := [(0, { dies := 1 })]
    queues := (sliceState false).queues ++ [(2, { live := true, context := 1, run := some { waiting (kernelCmd 1) with readAt := 9 } })] }

theorem test_slices : (Obligations.KernelsAndLayersLaunchInTheirSlice → Runs (.sliceEnd 0) (sliceState false) ∧ Runs (.sliceEnd 0) aloneState ∧ Runs (.contextSwitch 0) freeState ∧ Runs (.contextSwitch 0) (sliceState true)) ∧
    gives (exec (.sliceEnd 0) (sliceState false)) (fun t => (t.partition 0).sliceOver) = true ∧
    gives (exec (.contextSwitch 0) freeState) (fun t => decide ((t.partition 0).current = some 2)) = true ∧
    gives (exec (.contextSwitch 0) (sliceState true)) (fun t => decide ((t.partition 0).current = some 2)) = true :=
  ⟨fun h => ⟨(h.2.2.2.2.2.2.2.1 0 (sliceState false) 1 (by decide +kernel) (by decide +kernel) (by decide +kernel)).imp fun _ k => k.1,
      (h.2.2.2.2.2.2.2.1 0 aloneState 1 (by decide +kernel) (by decide +kernel) (by decide +kernel)).imp fun _ k => k.1,
      (h.2.2.2.2.2.2.2.2.2 0 freeState 2 (by decide +kernel) (by decide +kernel) (by decide +kernel) (by decide +kernel)).imp fun _ k => k.1,
      (h.2.2.2.2.2.2.2.2.1 0 (sliceState true) 1 2 [] [1] (by decide +kernel) (by decide +kernel) (by decide +kernel) (by decide +kernel) (by decide) (by decide +kernel)
        (by simp)).imp fun _ k => k.1⟩, by decide +kernel⟩

/-! ## Critical commands -/

/-- A packet whose first 48 bytes are the fields given, under a tag. -/
def sealedBy (tag : BitVec 128) (l : List (Nat × Nat × Nat)) : Run := { packet := tag ++ BitVec.ofNat 384 (pack l) }
def plainRun (l : List (Nat × Nat × Nat)) : Run := sealedBy 0 l

theorem fld_sealed (tag : BitVec 128) (b : BitVec 384) (lo w : Nat) (h : lo + w ≤ 384) : fld (tag ++ b : BitVec 512) lo w = fldN b.toNat lo w := by
  unfold fld fldN
  apply Nat.eq_of_testBit_eq
  intro i
  simp only [Nat.testBit_mod_two_pow, Nat.testBit_shiftRight]
  by_cases hi : i < w
  · have e : (tag ++ b : BitVec 512).toNat.testBit (lo + i) = b.toNat.testBit (lo + i) := by
      rw [BitVec.testBit_toNat, BitVec.testBit_toNat, BitVec.getLsbD_append, if_pos (by omega)]
    simp [hi, e]
  · simp [hi]

theorem byteFld_sealed (tag : BitVec 128) (b : BitVec 384) (off w : Nat) (h : off + w ≤ 48) :
    byteFld (tag ++ b : BitVec 512) off w = byteFld ((0 : BitVec 128) ++ b : BitVec 512) off w := by
  unfold byteFld
  rw [fld_sealed _ _ _ _ (by omega), fld_sealed _ _ _ _ (by omega)]

/-- What is read of a packet's first 48 bytes does not depend on its tag. -/
theorem p_sealed (tag : BitVec 128) (l : List (Nat × Nat × Nat)) (off w : Nat) (h : off + w ≤ 48) : (sealedBy tag l).p off w = (plainRun l).p off w :=
  byteFld_sealed tag _ off w h

theorem opcode_sealed (tag : BitVec 128) (l : List (Nat × Nat × Nat)) : (sealedBy tag l).opcode = (plainRun l).opcode := by
  unfold Run.opcode plainRun sealedBy
  rw [fld_sealed _ _ _ _ (by omega), fld_sealed _ _ _ _ (by omega)]

theorem badParam_sealed (tag : BitVec 128) (b : BitVec 384) (ps : List Param) (n : Nat) : ∀ off, off + n ≤ 48 →
    badParam (tag ++ b : BitVec 512) ps n off = badParam ((0 : BitVec 128) ++ b : BitVec 512) ps n off := by
  induction n with
  | zero => intro _ _; rw [badParam, badParam]
  | succ n ih =>
    intro off h
    rw [badParam, badParam, ih (off + 1) (by omega), byteFld_sealed tag b off 1 (by omega)]

theorem badField_sealed (tag : BitVec 128) (l : List (Nat × Nat × Nat)) (ps : List Param) (h : 0x0800 ≤ (plainRun l).opcode) :
    (sealedBy tag l).badField ps = (plainRun l).badField ps := by
  unfold Run.badField
  rw [opcode_sealed, p_sealed _ _ _ _ (by omega), p_sealed _ _ _ _ (by omega), p_sealed _ _ _ _ (by omega)]
  simp only [h, ↓reduceIte]
  rw [show (sealedBy tag l).packet = tag ++ BitVec.ofNat 384 (pack l) from rfl, show (plainRun l).packet = (0 : BitVec 128) ++ BitVec.ofNat 384 (pack l) from rfl,
    badParam_sealed _ _ _ _ _ (by omega)]

/-- The tag stands in the last 16 bytes. -/
theorem tag_sealed (tag : BitVec 128) (l : List (Nat × Nat × Nat)) : (sealedBy tag l).p 0x30 16 = tag.toNat := by
  unfold Run.p byteFld fld fldN sealedBy
  apply Nat.eq_of_testBit_eq
  intro i
  simp only [Nat.testBit_mod_two_pow, Nat.testBit_shiftRight, BitVec.testBit_toNat]
  by_cases hi : i < 128
  · rw [BitVec.getLsbD_append, if_neg (by omega)]
    simp [hi]
  · simp [hi, BitVec.getLsbD_of_ge tag i (by omega)]

/-- The message of context c's command (Table 11.9) in the tests' machine. -/
def message0 (c : Nat) (l : List (Nat × Nat × Nat)) (payload : Option (List Byte)) : List Byte := readyState.message c (plainRun l).packet payload
def tag0 (c : Nat) (l : List (Nat × Nat × Nat)) (payload : Option (List Byte)) : BitVec 128 := tagOf 0 (message0 c l payload) "FT2-CMD"
/-- A tag that is not it. -/
def wrongTag (c : Nat) (l : List (Nat × Nat × Nat)) : BitVec 128 := if tag0 c l none = 0 then 1 else 0
def authRun (c : Nat) (l : List (Nat × Nat × Nat)) (payload : Option (List Byte)) : Run := sealedBy (tag0 c l payload) l

theorem message_sealed (s : State) (c : Nat) (tag : BitVec 128) (l : List (Nat × Nat × Nat)) (payload : Option (List Byte))
    (h : s.boot.config.serial = readyState.boot.config.serial) : s.message c (sealedBy tag l).packet payload = message0 c l payload := by
  unfold message0 State.message plainRun sealedBy
  rw [h, fld_sealed _ _ _ _ (by omega), fld_sealed _ _ _ _ (by omega)]

theorem wrong_tag (s : State) (c : Nat) (l : List (Nat × Nat × Nat)) (h : s.boot.config.serial = readyState.boot.config.serial) :
    (tagOf 0 (s.message c (sealedBy (wrongTag c l) l).packet none) "FT2-CMD").toNat ≠ (sealedBy (wrongTag c l) l).p 0x30 16 := by
  rw [message_sealed _ _ _ _ _ h, tag_sealed]
  show (tag0 c l none).toNat ≠ (wrongTag c l).toNat
  unfold wrongTag
  split
  · simp_all
  · intro e
    exact absurd (BitVec.eq_of_toNat_eq e) (by assumption)

theorem right_tag (s : State) (c : Nat) (l : List (Nat × Nat × Nat)) (payload : Option (List Byte)) (h : s.boot.config.serial = readyState.boot.config.serial) :
    (tagOf 0 (s.message c (authRun c l payload).packet payload) "FT2-CMD").toNat = (authRun c l payload).p 0x30 16 := by
  unfold authRun
  rw [message_sealed _ _ _ _ _ h, tag_sealed]
  rfl

theorem authentic_of (s : State) (q c : Nat) (l : List (Nat × Nat × Nat)) (payload : Option (List Byte)) (h : s.boot.config.serial = readyState.boot.config.serial)
    (hc : (s.queue q).context = c) (hl : (s.context c).lockedAt = none) (hk : (s.context c).key = some 0) (hn : (s.counterOf c).toNat < (plainRun l).p 0x28 8) :
    Authentic s q (authRun c l payload) payload := by
  unfold Authentic
  simp only [hc]
  refine ⟨hl, ?_, 0, hk, right_tag s c l payload h⟩
  unfold authRun
  rw [p_sealed _ _ _ _ (by omega)]
  exact hn

theorem fetched_sealed {s : State} {q op : Nat} {tag : BitVec 128} {l : List (Nat × Nat × Nat)} (hr : s.run q = some (sealedBy tag l)) (hs : s.serves q = true)
    (ho : (plainRun l).opcode = op) : s.fetched q op = some (sealedBy tag l) := by
  unfold State.fetched
  rw [hr]
  simp only [opcode_sealed, ho, hs]
  simp [sealedBy]

theorem auth_p (c : Nat) (l : List (Nat × Nat × Nat)) (payload : Option (List Byte)) (off w : Nat) (h : off + w ≤ 48) :
    (authRun c l payload).p off w = (plainRun l).p off w := p_sealed _ l off w h

theorem auth_badField (c : Nat) (l : List (Nat × Nat × Nat)) (payload : Option (List Byte)) (ps : List Param) (h : 0x0800 ≤ (plainRun l).opcode) :
    (authRun c l payload).badField ps = (plainRun l).badField ps := badField_sealed _ l ps h

def critState (c : Nat) (l : List (Nat × Nat × Nat)) : State := runState c (authRun c l none)
theorem auth_fetched {s : State} {op c : Nat} {l : List (Nat × Nat × Nat)} {payload : Option (List Byte)} (hr : s.run 1 = some (authRun c l payload))
    (hs : s.serves 1 = true) (ho : (plainRun l).opcode = op) : s.fetched 1 op = some (authRun c l payload) := fetched_sealed hr hs ho

def limitCmd : List (Nat × Nat × Nat) := [(0, 2, 0x800), (0x10, 2, 2000), (0x28, 8, 1)]
def staleCmd : List (Nat × Nat × Nat) := [(0, 2, 0x800), (0x10, 2, 2000)]
def wrongState : State := runState 1 (sealedBy (wrongTag 1 limitCmd) limitCmd)
def addressCmd : List (Nat × Nat × Nat) := [(0, 2, 0x802), (0x10, 2, 5), (0x12, 1, 6), (0x28, 8, 1)]

theorem test_authentication : Obligations.CriticalCommandsAuthenticateAndTakeEffect → Runs (.powerLimit 1) wrongState ∧ Runs (.powerLimit 1) (critState 1 staleCmd) :=
  fun h => ⟨((h.1 1 wrongState (sealedBy (wrongTag 1 limitCmd) limitCmd) 0 0x800 .powerLimit (by unfold CriticalPlain; simp)
        (fetched_sealed rfl (by decide +kernel) (by decide +kernel)) (by decide +kernel) (by decide +kernel) (by decide +kernel)).1
        (wrong_tag wrongState 1 limitCmd (by decide +kernel))).imp fun _ k => k.1,
      ((h.1 1 (critState 1 staleCmd) (authRun 1 staleCmd none) 0 0x800 .powerLimit (by unfold CriticalPlain; simp)
        (auth_fetched rfl (by decide +kernel) (by decide +kernel)) (by decide +kernel) (by decide +kernel) (by decide +kernel)).2 (right_tag (critState 1 staleCmd) 1 staleCmd none (by decide +kernel))
        (by rw [auth_p _ _ _ _ _ (by decide)]; decide +kernel)).imp fun _ k => k.1⟩

theorem test_power_limit : Obligations.CriticalCommandsAuthenticateAndTakeEffect → Runs (.powerLimit 1) (critState 1 limitCmd) ∧ Runs (.systemAddress 1) (critState 1 addressCmd) :=
  fun h => ⟨(h.2.1 1 (critState 1 limitCmd) (authRun 1 limitCmd none) (auth_fetched rfl (by decide +kernel) (by decide +kernel)) (by decide +kernel)
        (authentic_of _ 1 1 limitCmd none (by decide +kernel) (by decide +kernel) (by decide +kernel) (by decide +kernel) (by decide +kernel)) (by decide +kernel)
        (by rw [auth_badField _ _ _ _ (by decide +kernel)]; simp only [auth_p, Nat.reduceAdd, Nat.reduceLeDiff]; decide +kernel)).imp fun _ k => k.1,
      (h.2.2.2.2.1 1 (critState 1 addressCmd) (authRun 1 addressCmd none) (auth_fetched rfl (by decide +kernel) (by decide +kernel)) (by decide +kernel)
        (authentic_of _ 1 1 addressCmd none (by decide +kernel) (by decide +kernel) (by decide +kernel) (by decide +kernel) (by decide +kernel)) (by decide +kernel)
        (by rw [auth_badField _ _ _ _ (by decide +kernel)]; simp only [auth_p, Nat.reduceAdd, Nat.reduceLeDiff]; decide +kernel)).imp fun _ k => k.1⟩

def pidCmd : List (Nat × Nat × Nat) := [(0, 2, 0x801), (0x11, 1, 1), (0x12, 1, 1), (0x14, 4, 9), (0x28, 8, 1)]
def layoutCmd : List (Nat × Nat × Nat) := [(0, 2, 0x801), (0x11, 1, 1), (0x28, 8, 1)]
def setsCmd : List (Nat × Nat × Nat) := [(0, 2, 0x801), (0x11, 1, 1), (0x13, 1, 1), (0x18, 8, reserveBase), (0x28, 8, 1)]
def noContexts (s : State) : State := { s with contexts := [(0, { live := true, key := some 0 })] }
/-- One entry of a PARTITION_SET: the interleave set 31, not valid. -/
def setEntry0 : List Byte := leBytes 32 (pack [(8, 1, 1), (0x1C, 1, 31)])
def setsState : State := { noContexts (runState 0 (authRun 0 setsCmd (some setEntry0))) with mem := [⟨reserveKey 8, 1⟩, ⟨reserveKey 0x1C, 31⟩] }

theorem test_partition_set : Obligations.CriticalCommandsAuthenticateAndTakeEffect → Runs (.partitionSet 1) (critState 0 pidCmd) ∧
    Runs (.partitionSet 1) (noContexts (critState 0 layoutCmd)) :=
  fun h => ⟨⟨_, (h.2.2.1 1 (critState 0 pidCmd) (authRun 0 pidCmd none) (auth_fetched rfl (by decide +kernel) (by decide +kernel)) (by decide +kernel) (by rw [auth_p _ _ _ _ _ (by decide)]; decide +kernel)
        (authentic_of _ 1 0 pidCmd none (by decide +kernel) (by decide +kernel) (by decide +kernel) (by decide +kernel) (by decide +kernel)) (by decide +kernel)
        (by rw [auth_badField _ _ _ _ (by decide +kernel)]; simp only [auth_p, Nat.reduceAdd, Nat.reduceLeDiff]; decide +kernel) (by decide +kernel)).1
        (by rw [auth_p _ _ _ _ _ (by decide)]; decide +kernel) (by rw [auth_p _ _ _ _ _ (by decide)]; decide +kernel)
        (by simp only [auth_p, Nat.reduceAdd, Nat.reduceLeDiff]; decide +kernel)⟩,
      ⟨_, (h.2.2.1 1 (noContexts (critState 0 layoutCmd)) (authRun 0 layoutCmd none) (auth_fetched rfl (by decide +kernel) (by decide +kernel)) (by decide +kernel)
        (by rw [auth_p _ _ _ _ _ (by decide)]; decide +kernel)
        (authentic_of _ 1 0 layoutCmd none (by decide +kernel) (by decide +kernel) (by decide +kernel) (by decide +kernel) (by decide +kernel)) (by decide +kernel)
        (by rw [auth_badField _ _ _ _ (by decide +kernel)]; simp only [auth_p, Nat.reduceAdd, Nat.reduceLeDiff]; decide +kernel) (by decide +kernel)).2
        (by rw [auth_p _ _ _ _ _ (by decide)]; decide +kernel) (by simp only [auth_p, Nat.reduceAdd, Nat.reduceLeDiff]; decide +kernel) (by decide +kernel)⟩⟩

def resetCmd (scope target : Nat) : List (Nat × Nat × Nat) := [(0, 2, 0x803), (0x10, 1, scope), (0x11, 1, target), (0x28, 8, 1)]
def relockCmd : List (Nat × Nat × Nat) := [(0, 2, 0x806), (0x28, 8, 1)]

theorem test_reset_command : Obligations.CriticalCommandsAuthenticateAndTakeEffect → Runs (.reset 1) (critState 0 (resetCmd 5 0)) ∧
    Runs (.reset 1) (critState 0 (resetCmd 2 0)) ∧ Runs (.reset 1) (critState 0 (resetCmd 3 0)) ∧ Runs (.debugUnlock 1) (critState 1 relockCmd) :=
  fun h => ⟨⟨_, (h.2.2.2.2.2.1 1 (critState 0 (resetCmd 5 0)) (authRun 0 (resetCmd 5 0) none) (auth_fetched rfl (by decide +kernel) (by decide +kernel)) (by decide +kernel)
        (authentic_of _ 1 0 (resetCmd 5 0) none (by decide +kernel) (by decide +kernel) (by decide +kernel) (by decide +kernel) (by decide +kernel)) (by decide +kernel)).1
        (.inr (by rw [auth_p _ _ _ _ _ (by decide)]; decide +kernel))
        (by rw [auth_badField _ _ _ _ (by decide +kernel)]; simp only [auth_p, Nat.reduceAdd, Nat.reduceLeDiff]; decide +kernel)⟩,
      ((h.2.2.2.2.2.1 1 (critState 0 (resetCmd 2 0)) (authRun 0 (resetCmd 2 0) none) (auth_fetched rfl (by decide +kernel) (by decide +kernel)) (by decide +kernel)
        (authentic_of _ 1 0 (resetCmd 2 0) none (by decide +kernel) (by decide +kernel) (by decide +kernel) (by decide +kernel) (by decide +kernel)) (by decide +kernel)).2.1
        (by rw [auth_p _ _ _ _ _ (by decide)]; decide +kernel) (by rw [auth_p _ _ _ _ _ (by decide)]; decide +kernel)
        (by rw [auth_badField _ _ _ _ (by decide +kernel)]; decide +kernel) (by simp only [auth_p, Nat.reduceAdd, Nat.reduceLeDiff]; decide +kernel)
        (by simp only [auth_p, Nat.reduceAdd, Nat.reduceLeDiff]; decide +kernel)).imp fun _ k => k.1,
      ((h.2.2.2.2.2.1 1 (critState 0 (resetCmd 3 0)) (authRun 0 (resetCmd 3 0) none) (auth_fetched rfl (by decide +kernel) (by decide +kernel)) (by decide +kernel)
        (authentic_of _ 1 0 (resetCmd 3 0) none (by decide +kernel) (by decide +kernel) (by decide +kernel) (by decide +kernel) (by decide +kernel)) (by decide +kernel)).2.2
        (by rw [auth_p _ _ _ _ _ (by decide)]; decide +kernel) (by simp only [auth_p, Nat.reduceAdd, Nat.reduceLeDiff]; decide +kernel)
        (by rw [auth_badField _ _ _ _ (by decide +kernel)]; decide +kernel) (by simp only [auth_p, Nat.reduceAdd, Nat.reduceLeDiff]; decide +kernel)).imp fun _ k => k.1,
      (h.2.2.2.2.2.2.2.2.1 1 (critState 1 relockCmd) (authRun 1 relockCmd none) (auth_fetched rfl (by decide +kernel) (by decide +kernel)) (by decide +kernel)
        (by rw [auth_p _ _ _ _ _ (by decide)]; decide +kernel) (by rw [auth_p _ _ _ _ _ (by decide)]; decide +kernel)
        (authentic_of _ 1 1 relockCmd none (by decide +kernel) (by decide +kernel) (by decide +kernel) (by decide +kernel) (by decide +kernel)) (by decide +kernel)
        (by rw [auth_badField _ _ _ _ (by decide +kernel)]; decide +kernel)).imp fun _ k => k.1⟩

def lockoutState : State := { runState 1 {} with contexts := [(3, { live := true, lockedAt := some 0 })] }

theorem test_lockout_end : (Obligations.CriticalCommandsAuthenticateAndTakeEffect → Runs (.authLockoutEnd 3) lockoutState) ∧
    gives (exec (.authLockoutEnd 3) lockoutState) (fun t => (t.context 3).lockedAt.isNone) = true :=
  ⟨fun h => (h.2.2.2.2.2.2.2.2.2.2.1 3 lockoutState 0 (by decide +kernel) (by decide +kernel)).imp fun _ k => k.1, by decide +kernel⟩

/-- A FIRMWARE_UPDATE whose image is being written to slot 1. -/
def updateRun : Run := { packet := packet0 [(0, 2, 0x804)], stage := .running }
def updateState : State := (runState 1 updateRun).modBoot fun b => { b with updates := [(1, (1, { svn := 3 }))] }

theorem test_firmware_written : (Obligations.CriticalCommandsAuthenticateAndTakeEffect → Runs (.commandComplete 1) updateState) ∧
    gives (exec (.commandComplete 1) updateState) (fun t =>
      decide (t.flash.slot 1 = .pending 0) && decide ((t.flash.fw.find? fun x => x.1 = 1).map (·.2.svn) = some 3) && t.boot.updates.isEmpty) = true :=
  ⟨fun h => ⟨_, h.2.2.2.2.2.2.2.2.2.2.2 1 updateState updateRun 1 { svn := 3 } _ rfl rfl (by decide +kernel) rfl rfl (by decide +kernel) (by decide +kernel) (by decide +kernel)
      (attempt_ok (by decide +kernel))⟩, by decide +kernel⟩

theorem test_partition_sets : Obligations.CriticalCommandsAuthenticateAndTakeEffect → Runs (.partitionSet 1) setsState :=
  fun h => ⟨_, h.2.2.2.1 1 setsState (authRun 0 setsCmd (some setEntry0)) _ setEntry0 [(31, 0, 1, List.replicate 12 0)] (auth_fetched rfl (by decide +kernel) (by decide +kernel)) (by decide +kernel)
      (by rw [auth_p _ _ _ _ _ (by decide)]; decide +kernel) (by simp only [auth_p, Nat.reduceAdd, Nat.reduceLeDiff]; exact ok_of (by decide +kernel))
      (by decide +kernel) (by decide +kernel)
      (authentic_of _ 1 0 setsCmd (some setEntry0) (by decide +kernel) (by decide +kernel) (by decide +kernel) (by decide +kernel) (by decide +kernel)) (by decide +kernel)
      (by rw [auth_p _ _ _ _ _ (by decide)]; decide +kernel) (by simp only [auth_p, Nat.reduceAdd, Nat.reduceLeDiff]; decide +kernel)
      (by rw [auth_badField _ _ _ _ (by decide +kernel)]; simp only [auth_p, Nat.reduceAdd, Nat.reduceLeDiff]; decide +kernel) (by decide +kernel) (by decide +kernel)
      (by simp only [auth_p, Nat.reduceAdd, Nat.reduceLeDiff]; decide +kernel)⟩

def keyCmd : List (Nat × Nat × Nat) := [(0, 2, 0x805), (0x10, 1, 1), (0x18, 8, reserveBase), (0x28, 8, 1)]
def keyState : State := runState 0 (authRun 0 keyCmd (some (List.replicate 32 0)))

theorem test_key_rotate : Obligations.CriticalCommandsAuthenticateAndTakeEffect → Runs (.keyRotate 1) keyState :=
  fun h => ⟨_, h.2.2.2.2.2.2.2.1 1 keyState (authRun 0 keyCmd (some (List.replicate 32 0))) _ (List.replicate 32 0) 0
      (auth_fetched rfl (by decide +kernel) (by decide +kernel)) (by decide +kernel) (by decide +kernel) (by simp only [auth_p, Nat.reduceAdd, Nat.reduceLeDiff]; exact ok_of (by decide +kernel))
      (by decide +kernel) (by decide +kernel)
      (authentic_of _ 1 0 keyCmd (some (List.replicate 32 0)) (by decide +kernel) (by decide +kernel) (by decide +kernel) (by decide +kernel) (by decide +kernel)) (by decide +kernel)
      (by rw [auth_badField _ _ _ _ (by decide +kernel)]; simp only [auth_p, Nat.reduceAdd, Nat.reduceLeDiff]; decide +kernel)
      (by simp only [auth_p, Nat.reduceAdd, Nat.reduceLeDiff]; decide +kernel) (by decide +kernel)
      (by simp only [State.authOk, auth_p, Nat.reduceAdd, Nat.reduceLeDiff]; decide +kernel) (by simp only [State.authOk, auth_p, Nat.reduceAdd, Nat.reduceLeDiff]; decide +kernel)⟩

/-! An image and a token are accepted when their signatures verify, which is a free function's answer (log 8): these two witnesses
suppose it, and meet every other premise. -/

/-- What the command processor reads at the start of the management reserve. -/
theorem reserve_read (s : State) (n : Nat) (h : n ≤ 0x10000) (hp : s.poison = []) (hu : s.upsets = []) :
    s.cpRead 0 reserveBase n = (s, .ok ((List.range n).map fun i => cellGet s.mem (reserveKey i))) := by
  have hq : s.cpReq 0 reserveBase = some { tile := 0, part := 0, cls := 6, hub := true } := by simp [State.cpReq]
  have hb : inReserve { tile := 0, part := 0, cls := 6, hub := true } reserveBase n = true := by simp [inReserve, h]
  have hs : s.settleReserve 0 n = s := by cases s; subst hu; rfl
  have hk : gibPieces (n / 2 ^ 30 + 2) reserveBase n = [(reserveBase, n)] := by
    have h1 : Nat.min n (2 ^ 30 - reserveBase % 2 ^ 30) = n := Nat.min_eq_left (Nat.le_trans h (by decide))
    simp only [gibPieces, h1, Nat.le_refl, if_true]
  have hr : s.cpReadPart 0 reserveBase n = (s, .ok ((List.range n).map fun i => cellGet s.mem (reserveKey i))) := by
    unfold State.cpReadPart State.readBulk
    simp [hq, hb, hp, hs, Bulk.data, Bulk.poisoned, Function.comp_def]
  unfold State.cpRead
  rw [hk]
  simp only [State.cpReadParts, hr, List.append_nil]

/-- The SHA3-256 digest of no bytes, as FIPS 202 gives it. -/
def emptyDigest : List Byte :=
  [0xA7, 0xFF, 0xC6, 0xF8, 0xBF, 0x1E, 0xD7, 0x66, 0x51, 0xC1, 0x47, 0x56, 0xA0, 0x61, 0xD6, 0x62, 0xF5, 0x80, 0xFF, 0x4D, 0xE4, 0x3B, 0x49, 0xFA, 0x82, 0xD8,
   0x0A, 0x4B, 0x80, 0xF8, 0x43, 0x4A]
def imageCells : List Host.Cell :=
  [⟨reserveKey 0, 0x46⟩, ⟨reserveKey 1, 0x54⟩, ⟨reserveKey 2, 0x49⟩, ⟨reserveKey 3, 0x4D⟩, ⟨reserveKey 4, 1⟩, ⟨reserveKey 7, 0x10⟩] ++
  (List.range 32).map fun i => ⟨reserveKey (0x30 + i), (emptyDigest[i]?).getD 0⟩
def imageBytes : List Byte := (List.range 4096).map fun i => cellGet imageCells (reserveKey i)
def imageCmd : List (Nat × Nat × Nat) := [(0, 2, 0x804), (0x18, 8, reserveBase), (0x20, 4, 4096), (0x28, 8, 1)]
def imageState : State := { runState 1 (authRun 0 imageCmd (some imageBytes)) with mem := imageCells }.modQueue 1 fun k => { k with context := 0 }

theorem test_firmware_update (i : FlashImage)
    (hv : ((imageState.staged 0x0804 imageBytes).authOk 1 (authRun 0 imageCmd (some imageBytes))).verifyImage imageBytes = some (1, i)) :
    Obligations.CriticalCommandsAuthenticateAndTakeEffect → Runs (.firmwareUpdate 1) imageState :=
  by
  have e0 : (imageState.queue (1 : Fin 256).val).context = 0 := by decide +kernel
  have e1 : (plainRun imageCmd).p 0x18 8 = reserveBase := by decide +kernel
  have e2 : (plainRun imageCmd).p 0x20 4 = 4096 := by decide +kernel
  exact fun h => ⟨_, (h.2.2.2.2.2.2.1 1 imageState (authRun 0 imageCmd (some imageBytes)) _ imageBytes 1 i (auth_fetched rfl (by decide +kernel) (by decide +kernel)) (by decide +kernel)
      (by rw [auth_p _ _ _ _ _ (by decide)]; decide +kernel) (by decide +kernel)
      (by simp only [auth_p, Nat.reduceAdd, Nat.reduceLeDiff, e0, e1, e2]; exact reserve_read _ _ (by decide) (by decide +kernel) (by decide +kernel)) (by decide +kernel)
      (authentic_of _ 1 0 imageCmd (some imageBytes) (by decide +kernel) (by decide +kernel) (by decide +kernel) (by decide +kernel) (by decide +kernel)) (by decide +kernel)
      (by decide +kernel) (by rw [auth_badField _ _ _ _ (by decide +kernel)]; decide +kernel) (by decide +kernel)
      hv (fun e => absurd e (by decide))).2⟩

/-- A token for scope 1. -/
def tokenCells : List Host.Cell := [⟨reserveKey 0, 0x54⟩, ⟨reserveKey 1, 0x42⟩, ⟨reserveKey 2, 0x44⟩, ⟨reserveKey 3, 0x47⟩, ⟨reserveKey 4, 1⟩]
def tokenBytes : List Byte := (List.range 0xF14).map fun i => cellGet tokenCells (reserveKey i)
def tokenCmd : List (Nat × Nat × Nat) := [(0, 2, 0x806), (0x10, 1, 1), (0x18, 8, reserveBase), (0x20, 4, 0xF14), (0x28, 8, 1)]
def tokenState : State := { runState 1 (authRun 0 tokenCmd (some tokenBytes)) with mem := tokenCells }.modQueue 1 fun k => { k with context := 0 }

theorem test_debug_unlock (hv : (tokenState.authOk 1 (authRun 0 tokenCmd (some tokenBytes))).tokenOk tokenBytes 1 = true) :
    Obligations.CriticalCommandsAuthenticateAndTakeEffect → Runs (.debugUnlock 1) tokenState :=
  by
  have e0 : (tokenState.queue (1 : Fin 256).val).context = 0 := by decide +kernel
  have e1 : (plainRun tokenCmd).p 0x18 8 = reserveBase := by decide +kernel
  have e2 : (plainRun tokenCmd).p 0x20 4 = 0xF14 := by decide +kernel
  have e3 : (plainRun tokenCmd).p 0x10 1 = 1 := by decide +kernel
  exact fun h => ⟨_, h.2.2.2.2.2.2.2.2.2.1 1 tokenState (authRun 0 tokenCmd (some tokenBytes)) _ tokenBytes (auth_fetched rfl (by decide +kernel) (by decide +kernel)) (by decide +kernel)
      (by rw [auth_p _ _ _ _ _ (by decide)]; decide +kernel) (by rw [auth_p _ _ _ _ _ (by decide)]; decide +kernel) (by rw [auth_p _ _ _ _ _ (by decide)]; decide +kernel)
      (by decide +kernel) (by simp only [auth_p, Nat.reduceAdd, Nat.reduceLeDiff, e0, e1, e2]; exact reserve_read _ _ (by decide) (by decide +kernel) (by decide +kernel)) (by decide +kernel)
      (authentic_of _ 1 0 tokenCmd (some tokenBytes) (by decide +kernel) (by decide +kernel) (by decide +kernel) (by decide +kernel) (by decide +kernel)) (by decide +kernel)
      (by rw [auth_badField _ _ _ _ (by decide +kernel)]; decide +kernel)
      (by simp only [auth_p, Nat.reduceAdd, Nat.reduceLeDiff, e3]; exact hv) (by rw [auth_p _ _ _ _ _ (by decide), e3]; rfl)⟩

/-! ## Power, thermal and boot -/

def powerState (p : Power) : State := { readyState with power := p, ticks := 2 ^ 31 }
def frame1 : Telemetry := { present := true, crcOk := true, milliVolt := 0, milliAmp := 0 }

theorem test_telemetry : (Obligations.PowerFollowsItsMeasurements → Runs (.telemetryFrame 3 frame1) (powerState {}) ∧
      Runs (.telemetryFrame 3 { frame1 with present := false }) (powerState {}) ∧ Runs (.activityModelUpdate [activity0 0]) (powerState {}) ∧
      Runs .controlLoopUpdate (powerState {}) ∧ Runs (.fastPath 4500) (powerState {}) ∧ Runs (.fastPath 3000) (powerState { fastHeld := true, lowRun := 24 }) ∧
      Runs (.fastPath 4200) (powerState {}) ∧ Runs .lendUpdate (powerState {}) ∧ Runs (.regPhase 1 (railN 1)) (powerState {}) ∧
      Runs (.regPhase 1 0) (powerState {}) ∧ Runs (.regPhase 73 0) (powerState {})) ∧
    gives (exec (.fastPath 3000) (powerState { fastHeld := true, lowRun := 24 })) (fun t => !t.power.fastHeld) = true ∧
    gives (exec (.fastPath 4500) (powerState { dies := [(0, { n := 64, m := 16 })] })) (fun t => t.power.fastHeld && decide ((t.pwr 0).fastCap = 56) && decide (t.power.lastCode = 0x203)) = true ∧
    gives (exec (.regPhase 1 0) (powerState {})) (fun t => decide ((t.tile 0).fence = some (5, t.floorCycles))) = true :=
  ⟨fun h => ⟨(h.1 3 frame1 (powerState {}) (by decide +kernel) rfl rfl (by simp [frame1]) (by decide +kernel)).imp fun _ k => k.1,
      (h.2.1 3 { frame1 with present := false } (powerState {}) (by decide +kernel) (.inl rfl)).imp fun _ k => k.1,
      (h.2.2.1 [activity0 0] (powerState {}) (by decide +kernel) rfl (by simp)).imp fun _ k => k.1,
      (h.2.2.2.1 (powerState {}) ⟨by decide +kernel, rfl⟩).imp fun _ k => k.1,
      (h.2.2.2.2.1 4500 (powerState {}) ⟨by decide +kernel, rfl⟩ (by decide)).imp fun _ k => k.1,
      (h.2.2.2.2.2.1 3000 (powerState { fastHeld := true, lowRun := 24 }) ⟨by decide +kernel, rfl⟩ (by decide) rfl (by decide)).imp fun _ k => k.1,
      ⟨_, h.2.2.2.2.2.2.1 4200 (powerState {}) ⟨by decide +kernel, rfl⟩ (by decide) (by decide)⟩,
      (h.2.2.2.2.2.2.2.1 (powerState {}) ⟨by decide +kernel, rfl⟩).imp fun _ k => k.1,
      ((h.2.2.2.2.2.2.2.2 1 (railN 1) (powerState {}) (by decide +kernel) (by decide) (by decide +kernel)).1 (by decide +kernel)).imp fun _ k => k.1,
      ((h.2.2.2.2.2.2.2.2 1 0 (powerState {}) (by decide +kernel) (by decide) (by decide +kernel)).2.1 (by decide +kernel) 0 (by decide +kernel) (by decide +kernel)
        (by decide +kernel) (by decide +kernel)).imp fun _ k => k.1,
      ((h.2.2.2.2.2.2.2.2 73 0 (powerState {}) (by decide +kernel) (by decide) (by decide +kernel)).2.2 (by decide +kernel) (by decide +kernel)).imp fun _ k => k.1⟩,
    by decide +kernel⟩

def diePower : Power := { dies := [(0, { n := 64, m := 16 })] }
def trippedState : State := { powerState { tripped := true } with velvet := { velvet0 with thermTrip := true, perstSince := some 0 } }
def lineState (v : Velvet) (p : Power) : State := { powerState p with velvet := v }
def stopState : State := { lineState { velvet0 with coolOk := true, coolOkSince := some 0 } { coolStop := true } with
  queues := [(1, { live := true, run := some { stage := .running } })] }

theorem test_temperatures : (Obligations.ThermalAndSidebandInputsAct → Runs (.dieTempSample (.die 0 2) 100) (powerState diePower) ∧
      Runs (.dieTempSample (.die 0 2) 115) (powerState diePower) ∧ Runs (.dieTempSample (.tile 0 1) 90) (powerState diePower) ∧
      Runs (.dieTempSample (.hub 0) 90) (powerState {}) ∧ Runs (.dieTempSample (.hub 0) 115) (powerState {}) ∧ Runs .thermTripClear trippedState ∧
      Runs (.coolantSample 400 50) (powerState {})) ∧
    gives (exec (.dieTempSample (.die 0 2) 115) (powerState diePower)) (fun t => t.power.tripped && t.velvet.thermTrip && decide ((t.pwr 0).n = 0)) = true ∧
    gives (exec (.dieTempSample (.die 0 2) 114) (powerState diePower)) (fun t => !t.power.tripped) = true ∧
    gives (exec (.coolantSample 451 50) (powerState {})) (fun t => decide (t.power.coolantStage = 2)) = true ∧
    gives (exec .thermTripClear trippedState) (fun t => decide (t.boot.stage = 2) && !t.velvet.thermTrip) = true :=
  ⟨fun h => ⟨(h.1 0 2 100 (powerState diePower) ⟨by decide +kernel, rfl⟩ (by decide +kernel) (by decide)).imp fun _ k => k.1,
      (h.2.1 0 2 115 (powerState diePower) ⟨by decide +kernel, rfl⟩ (by decide +kernel) (by decide)).imp fun _ k => k.1,
      (h.2.2.1 0 1 90 (powerState diePower) ⟨by decide +kernel, rfl⟩ (by decide +kernel) (by decide)).imp fun _ k => k.1,
      ⟨_, (h.2.2.2.1 0 90 (powerState {}) (by decide +kernel)).1 (by decide)⟩,
      ((h.2.2.2.1 0 115 (powerState {}) (by decide +kernel)).2 (by decide) rfl).imp fun _ k => k.1,
      (h.2.2.2.2.1 trippedState 0 rfl rfl (by decide +kernel) rfl (by decide +kernel)).imp fun _ k => k.1,
      (h.2.2.2.2.2.1 400 50 (powerState {}) ⟨by decide +kernel, rfl⟩).imp fun _ k => k.1⟩, by decide +kernel⟩

theorem test_inputs : (Obligations.ThermalAndSidebandInputsAct → Runs (.brake true) (lineState velvet0 {}) ∧ Runs (.coolStop false) (lineState { velvet0 with coolOk := true, raw := [(1, true)] } {}) ∧
      Runs .coolResume stopState ∧ Runs (.standby h0) (powerState {}) ∧ Runs (.standby h0) { powerState {} with partitions := [(0, { pid := 1 })] } ∧
      Runs (.wake h0) (powerState { standby := true })) ∧
    gives (exec (.coolStop false) (lineState { velvet0 with coolOk := true, raw := [(1, true)] } {})) (fun t => t.power.coolStop && decide (t.power.lastCode = 0x208)) = true ∧
    gives (exec .coolResume stopState) (fun t => !t.power.coolStop && decide ((t.run 1).map (·.status) = some 0x12)) = true ∧
    gives (exec (.standby h0) (powerState {})) (fun t => t.power.standby && !(t.die 0).pll) = true :=
  ⟨fun h => ⟨(h.2.2.2.2.2.2.1 true (lineState velvet0 {}) (by unfold Calm; decide +kernel) (by decide +kernel) (by decide +kernel)).imp fun _ k => k.1,
      (h.2.2.2.2.2.2.2.1 false (lineState { velvet0 with coolOk := true, raw := [(1, true)] } {}) (by unfold Calm; decide +kernel) (by decide +kernel)
        (by decide +kernel)).imp fun _ k => k.1,
      (h.2.2.2.2.2.2.2.2.1 stopState 0 rfl rfl rfl (by decide +kernel) (by decide +kernel) rfl).imp fun _ k => k.1,
      ((h.2.2.2.2.2.2.2.2.2.1 h0 (powerState {}) (may_write (by decide +kernel)) (by decide +kernel) (by decide +kernel) rfl).1 (by decide +kernel)).imp fun _ k => k.1,
      ((h.2.2.2.2.2.2.2.2.2.1 h0 { powerState {} with partitions := [(0, { pid := 1 })] } (may_write (by decide +kernel)) (by decide +kernel) (by decide +kernel) rfl).2
        (by decide +kernel)).imp fun _ k => k.1,
      (h.2.2.2.2.2.2.2.2.2.2 h0 (powerState { standby := true }) (may_write (by decide +kernel)) (by decide +kernel) (by decide +kernel) rfl).imp fun _ k => k.1⟩,
    by decide +kernel⟩

/-- Module flash with one valid copy of each record, and some images. -/
def recordFlash (fw cfg : KMap FlashImage) : Flash :=
  { fw := fw, cfg := cfg, slots := [(0, .active)], boots := [(0, bootCopy 0 { slots := [(0, .active)] })]
    keys := [(0, keyCopy 0 (0, 0)), (2, keyCopy 0 (0, 0))], repairCopies := [(0, repairCopy 0 [])] }
def readFlash (fw cfg : KMap FlashImage) : Flash := { recordFlash fw cfg with used := [(0, (0, 0)), (1, (0, 0)), (2, (0, 0)), (3, (0, 0))] }

theorem boot_good (q : Nat) (r : BootRecord) : (bootCopy q r).good "FT2-BR" BootRecord.bytes = true := decide_eq_true rfl
theorem key_good (q : Nat) (r : BitVec 64 × BitVec 256) : (keyCopy q r).good "FT2-KEY" keyBytes = true := decide_eq_true rfl
theorem repair_good (q : Nat) (l : List (Nat × Nat)) : (repairCopy q l).good "FT2-REP" repairBytes = true := decide_eq_true rfl

/-- Valid copies are read as they stand. -/
theorem records_read (fw cfg : KMap FlashImage) : (recordFlash fw cfg).readRecords [] = some (readFlash fw cfg) := by
  have b : (recordFlash fw cfg).readBoot = some { recordFlash fw cfg with used := [(0, (0, 0))] } := by
    simp only [Flash.readBoot, recordFlash, List.filter, boot_good]; rfl
  have k0 : ({ recordFlash fw cfg with used := [(0, (0, 0))] } : Flash).readKey 0 = some { recordFlash fw cfg with used := [(0, (0, 0)), (1, (0, 0))] } := by
    simp only [Flash.readKey, recordFlash, List.filter, key_good]; rfl
  have k1 : ({ recordFlash fw cfg with used := [(0, (0, 0)), (1, (0, 0))] } : Flash).readKey 1 = some { recordFlash fw cfg with used := [(0, (0, 0)), (1, (0, 0)), (2, (0, 0))] } := by
    simp only [Flash.readKey, recordFlash, List.filter, key_good]; rfl
  have p : ({ recordFlash fw cfg with used := [(0, (0, 0)), (1, (0, 0)), (2, (0, 0))] } : Flash).readRepairs = some (readFlash fw cfg) := by
    simp only [Flash.readRepairs, recordFlash, List.filter, repair_good]; rfl
  simp only [Flash.readRecords, List.foldl, b, k0, k1, p, Option.bind]

/-- A copy with a changed bit is not read. -/
theorem spoilt_unread (fw cfg : KMap FlashImage) : (recordFlash fw cfg).readRecords [(0, 0)] = none := by
  have e (c : RecCopy BootRecord) (h : c.good "FT2-BR" BootRecord.bytes = true) : ({ c with tag := ~~~c.tag } : RecCopy BootRecord).good "FT2-BR" BootRecord.bytes = false := by
    simp only [RecCopy.good, decide_eq_true_eq, decide_eq_false_iff_not] at h ⊢
    rw [← h]
    exact fun k => absurd (congrArg (fun v => v.getLsbD 0) k) (by simp)
  have b : ((recordFlash fw cfg).spoil (0 : Fin 4) (0 : Fin 2)).readBoot = none := by
    simp only [Flash.spoil, recordFlash, Flash.readBoot, List.map, List.filter, if_true, e _ (boot_good _ _), Fin.val_zero, latest, Option.map]
  simp only [Flash.readRecords, List.foldl, b, Option.bind]

def bootConfig : ConfigImage := { pairs := [(0, 0)], floorMin := 0, mandatory := 0, identityKey := Config.mldsaPublic (identitySeedOf 0) }
def flash0 : Flash := recordFlash [(0, {})] [(0, { config := bootConfig })]
def flash1 : Flash := readFlash [(0, {})] [(0, { config := bootConfig })]
def bootVelvet : Velvet := { velvet0 with restored := true, coolOkSince := some 0 }
def bootState (b : Boot) : State := { velvet := bootVelvet, flash := flash0, boot := { b with config := bootConfig }, ticks := 2 ^ 31 }
def report1 : BootReport := { report0 with dieCaps := [(0, 0)] }

theorem config_selected (n : Nat) : flash1.selectCfg n = some 0 := by
  have a : bootConfig.accepted = true := decide_eq_true rfl
  have v : flash1.cfgValid 0 = true := by
    have k : kfind flash1.cfg 0 = some { config := bootConfig } := rfl
    simp only [Flash.cfgValid, k, a]; rfl
  have w : flash1.cfgValid 1 = false := rfl
  simp only [Flash.selectCfg, v, w]

def powered1 : State := { ({} : State) with velvet := { powered := true }, ticks := 1000000 }

theorem test_power_on : (Obligations.BootProceedsStageByStage → Runs .powerOn {} ∧ Runs .inputPowerValid powered1 ∧ Runs .inputPowerValid { powered1 with ticks := 999999 } ∧
      Runs .brownOut readyState ∧ Runs .inputPowerAbsent readyState ∧ Runs .hubPowerFail (bootState { stage := 2 })) ∧
    gives (exec .inputPowerValid powered1) (fun t => decide (t.boot.stage = 1) && t.velvet.valid) = true ∧
    gives (exec .inputPowerValid { powered1 with ticks := 999999 }) (fun t => !t.velvet.valid) = true ∧
    gives (exec .brownOut readyState) (fun t => decide (t.boot.stage = 0) && !t.velvet.valid && t.velvet.brownOut) = true :=
  ⟨fun h => ⟨⟨_, h.1 {} rfl⟩, (h.2.1 powered1 rfl rfl (by decide) rfl (by decide)).imp fun _ k => k.1,
      ⟨_, h.2.2.1 { powered1 with ticks := 999999 } rfl rfl (by decide)⟩,
      (h.2.2.2.1 readyState rfl).imp fun _ k => k.1, (h.2.2.2.2.1 readyState).imp fun _ k => k.1,
      (h.2.2.2.2.2.1 (bootState { stage := 2 }) rfl rfl).imp fun _ k => k.1⟩, by decide +kernel⟩

def noFirmware : State := { bootState { stage := 3 } with flash := recordFlash [] [] }
def noConfig : State := { bootState { stage := 3 } with flash := recordFlash [(0, {})] [] }

theorem test_boot_early : (Obligations.BootProceedsStageByStage → Runs (.bootStage report0) trippedState ∧
      Runs (.bootStage report0) (bootState { stage := 1 }) ∧ Runs (.bootStage report0) (bootState { stage := 2 }) ∧
      Runs (.bootStage { report0 with flashOk := false }) (bootState { stage := 3 }) ∧ Runs (.bootStage { report0 with rootOk := false }) (bootState { stage := 3 }) ∧
      Runs (.bootStage { report0 with badTags := [(0, 0)] }) (bootState { stage := 3 }) ∧ Runs (.bootStage report0) noFirmware ∧ Runs (.bootStage report0) noConfig ∧
      Runs (.bootStage report0) (bootState { stage := 3 }) ∧ Runs (.bootStage report0) (bootState { stage := 3, hold := true })) ∧
    gives (exec (.bootStage { report0 with rootOk := false }) (bootState { stage := 3 })) (fun t => decide (t.boot.error = 4)) = true ∧
    gives (exec (.bootStage report0) trippedState) (fun t => decide (t = trippedState)) = true :=
  ⟨fun h =>
    have b := h.2.2.2.2.2.2.2.1
    ⟨⟨_, h.2.2.2.2.2.2.1 report0 trippedState rfl rfl⟩,
      ⟨_, (b report0 (bootState { stage := 1 }) rfl rfl rfl rfl).1 rfl⟩,
      ((b report0 (bootState { stage := 2 }) rfl rfl rfl rfl).2.1 rfl).imp fun _ k => k.1,
      (((b { report0 with flashOk := false } (bootState { stage := 3 }) rfl rfl rfl rfl).2.2.1 rfl rfl).1 rfl).imp fun _ k => k.1,
      (((b { report0 with rootOk := false } (bootState { stage := 3 }) rfl rfl rfl rfl).2.2.1 rfl rfl).2 rfl rfl).imp fun _ k => k.1,
      (((b { report0 with badTags := [(0, 0)] } (bootState { stage := 3 }) rfl rfl rfl rfl).2.2.2.1 rfl rfl rfl rfl rfl rfl).1 (spoilt_unread _ _)).imp fun _ k => k.1,
      ((((b report0 noFirmware rfl rfl rfl rfl).2.2.2.1 rfl rfl rfl rfl rfl rfl).2 _ (records_read _ _)).1 rfl).imp fun _ k => k.1,
      (((((b report0 noConfig rfl rfl rfl rfl).2.2.2.1 rfl rfl rfl rfl rfl rfl).2 _ (records_read _ _)).2 0 (readFlash [(0, {})] []) rfl).1 rfl).imp fun _ k => k.1,
      (((((b report0 (bootState { stage := 3 }) rfl rfl rfl rfl).2.2.2.1 rfl rfl rfl rfl rfl rfl).2 flash1 (records_read _ _)).2 0 flash1 rfl).2 0 (config_selected _)).imp fun _ k => k.1,
      ((b report0 (bootState { stage := 3, hold := true }) rfl rfl rfl rfl).2.2.2.2.1 rfl rfl (by decide +kernel)).imp fun _ k => k.1⟩, by decide +kernel⟩

theorem test_boot_late : (Obligations.BootProceedsStageByStage →
      Runs (.bootStage report0) (bootState { stage := 4 }) ∧
      Runs (.bootStage report0) { bootState { stage := 4 } with boot := { stage := 4, config := { bootConfig with floorMin := 1 } } } ∧
      Runs (.bootStage report1) (bootState { stage := 4 }) ∧ Runs (.bootStage report1) (bootState { stage := 5, admitted := 1 }) ∧ Runs (.bootStage report1) (bootState { stage := 6 }) ∧
      Runs (.bootStage report1) (bootState { stage := 7 }) ∧ Runs .bootWatchdog (bootState { stage := 3, watchdog := some 0 }) ∧
      Runs (.bootStage report0) { bootState { stage := 3 } with velvet := { bootVelvet with brownOut := true } }) ∧
    gives (exec (.bootStage report1) (bootState { stage := 4 })) (fun t => decide (t.boot.stage = 5) && decide (t.boot.admitted = 1)) = true ∧
    gives (exec .bootWatchdog (bootState { stage := 3, watchdog := some 0 })) (fun t => decide (t.boot.stage = 2) && decide (t.flash.log = [(2, 3)])) = true :=
  ⟨fun h =>
    have b := h.2.2.2.2.2.2.2.1
    ⟨((b report0 (bootState { stage := 4 }) rfl rfl rfl rfl).2.2.2.2.2.1 rfl).imp fun _ k => k.1,
      ((b report0 { bootState { stage := 4 } with boot := { stage := 4, config := { bootConfig with floorMin := 1 } } } rfl rfl rfl rfl).2.2.2.2.2.2.1 rfl
        (.inl (by decide +kernel))).imp fun _ k => k.1,
      ((b report1 (bootState { stage := 4 }) rfl rfl rfl rfl).2.2.2.2.2.2.2.1 rfl (by decide +kernel) (by decide +kernel) ⟨0, by decide, (0, 0), by decide +kernel, by decide +kernel⟩).imp
        fun _ k => k.1,
      ((b report1 (bootState { stage := 5, admitted := 1 }) rfl rfl rfl rfl).2.2.2.2.2.2.2.2.1 rfl ⟨0, by decide, by decide +kernel, by simp [report1, report0]⟩).imp fun _ k => k.1,
      ((b report1 (bootState { stage := 6 }) rfl rfl rfl rfl).2.2.2.2.2.2.2.2.2.1 rfl).imp fun _ k => k.1,
      ((b report1 (bootState { stage := 7 }) rfl rfl rfl rfl).2.2.2.2.2.2.2.2.2.2 rfl).imp fun _ k => k.1,
      (h.2.2.2.2.2.2.2.2.1 (bootState { stage := 3, watchdog := some 0 }) 0 rfl (by decide +kernel) rfl rfl rfl).imp fun _ k => k.1,
      (h.2.2.2.2.2.2.2.2.2 report0 { bootState { stage := 3 } with velvet := { bootVelvet with brownOut := true } } rfl rfl rfl rfl rfl rfl rfl rfl
        (by have k := records_read [(0, {})] [(0, { config := bootConfig })]; exact (congrArg Option.isSome k).trans rfl) rfl).imp fun _ k => k.1⟩, by decide +kernel⟩

def wardenState (b : Boot) (v : Velvet) : State := { readyState with boot := { b with stage := 15 }, velvet := { v with valid := true, powered := true }, ticks := 2 ^ 31, floor4 := 4 * 2 ^ 32 }
def leaseState : State := wardenState { wardens := [(0, 3), (1, 2)] } { epoch := 5 }
def leaseWindow (w : Handling) : State := { leaseState with hub := { windows := [w] }, tiles := [(0, { up := true })] }
def dieWindow : Handling := { unit := 0x0B000000, opened := 0 }
def railWindow (n : Nat) : Handling := { unit := 0x0A000003, opened := 0, escalations := n }

theorem test_leases : (Obligations.WardensAndRecoveryFollowTheirEvents → Runs (.leaseRenew 0 5) leaseState ∧ Runs (.leaseRenew 0 4) leaseState ∧ Runs (.leaseClaim 1 6) leaseState ∧
      Runs .leaseLost leaseState ∧ Runs (.go h0 1) leaseState ∧ Runs .attestationDone (wardenState { attBusy := some 0 } {})) ∧
    gives (exec (.leaseRenew 0 4) leaseState) (fun t => decide (kget 0 t.boot.wardens 0 = (4 : BitVec 3))) = true ∧
    gives (exec (.leaseClaim 1 6) leaseState) (fun t => decide (t.velvet.holder = 1) && decide (t.velvet.epoch = 6) && decide (kget 0 t.boot.wardens 0 = (4 : BitVec 3))) = true ∧
    gives (exec .leaseLost leaseState) (fun t => decide (t.boot.stage = 2)) = true ∧ gives (exec (.go h0 1) leaseState) (fun t => t.boot.attBusy.isSome) = true :=
  ⟨fun h => ⟨⟨_, (h.1 0 5 leaseState (by decide +kernel)).1 (by decide +kernel)⟩, ((h.1 0 4 leaseState (by decide +kernel)).2.1 (by decide +kernel) (fun _ => rfl)).imp fun _ k => k.1,
      (h.2.1 1 6 leaseState (by decide +kernel) (by decide +kernel) (by decide +kernel) (fun _ => by decide +kernel)).imp fun _ k => k.1,
      (h.2.2.1 leaseState (by decide) rfl (by decide +kernel)).imp fun _ k => k.1,
      (h.2.2.2.1 h0 1 leaseState (may_write (by decide +kernel)) (by decide) rfl).imp fun _ k => k.1,
      ⟨_, h.2.2.2.2.1 (wardenState { attBusy := some 0 } {}) 0 rfl⟩⟩, by decide +kernel⟩

/-- A renewal refused while a window of a die or of a rail is open. -/
theorem test_refused_lease : (Obligations.WardensAndRecoveryFollowTheirEvents → Runs (.leaseRenew 0 4) (leaseWindow dieWindow) ∧ Runs (.leaseRenew 0 4) (leaseWindow (railWindow 0)) ∧
      Runs (.leaseRenew 0 4) (leaseWindow (railWindow 1)) ∧ Runs (.leaseClaim 1 6) (leaseWindow dieWindow)) ∧
    gives (exec (.leaseRenew 0 4) (leaseWindow dieWindow)) (fun t => decide ((t.tile 0).fence.map (·.1) = some 3)) = true ∧
    gives (exec (.leaseRenew 0 4) (leaseWindow (railWindow 0))) (fun t => decide (t.velvet.holder = 1) && decide (t.velvet.epoch = 6)) = true ∧
    gives (exec (.leaseRenew 0 4) (leaseWindow (railWindow 1))) (fun t => decide (t.boot.stage = 2)) = true :=
  ⟨fun h =>
    have k (w : Handling) (hw : w ∈ (leaseWindow w).wardenWindows) := (h.1 0 4 (leaseWindow w) rfl).2.2 rfl (by decide : (4 : BitVec 32) ≠ 5) w hw rfl
    ⟨((k dieWindow (by decide +kernel)).1 0 (by decide +kernel) rfl rfl).imp fun _ k => k.1,
      ((k (railWindow 0) (by decide +kernel)).2.1 (by decide +kernel) rfl (by decide +kernel)).imp fun _ k => k.1,
      ((k (railWindow 1) (by decide +kernel)).2.2 (by decide +kernel) (by decide)).imp fun _ k => k.1,
      (h.2.1 1 6 (leaseWindow dieWindow) (by decide +kernel) (by decide +kernel) (by decide +kernel) (fun _ => by decide +kernel)).imp fun _ k => k.1⟩, by decide +kernel⟩

def beatState (rs : List Nat) : State :=
  { wardenState { cpRestarts := rs, cpUpAt := 2 ^ 31 - 5, wardens := [(0, 3)] } {} with queues := [(1, { live := true, run := some { stage := .running } })] }
def resetTile (k : Tile) : State := { wardenState { config := bootConfig } {} with tiles := [(0, k)] }
def windowState (w : Handling) (b : Boot) : State := { wardenState b {} with hub := { windows := [w] }, tiles := [(0, { up := true })] }

theorem test_recovery : (Obligations.WardensAndRecoveryFollowTheirEvents → Runs .cpHeartbeatMissed (beatState []) ∧ Runs .cpHeartbeatMissed (wardenState {} {}) ∧ Runs .cpHeartbeatMissed (beatState [0]) ∧
      Runs (.heartbeatTimeout 0) (resetTile { up := true }) ∧ Runs (.diePllFailure 0) { wardenState {} {} with dies := [(0, { pll := true })] } ∧
      Runs (.fenceTakesEffect 0) (resetTile { up := true, fence := some (2, 0) })) ∧
    gives (exec .cpHeartbeatMissed (beatState [])) (fun t => decide ((t.run 1).map (·.status) = some 0x13)) = true ∧
    gives (exec .cpHeartbeatMissed (beatState [0])) (fun t => decide (t.boot.stage = 2)) = true ∧
    gives (exec (.heartbeatTimeout 0) (resetTile { up := true })) (fun t => decide ((t.tile 0).fence.map (·.1) = some 2)) = true ∧
    gives (exec (.fenceTakesEffect 0) (resetTile { up := true, fence := some (2, 0) })) (fun t => (t.tile 0).fenced) = true :=
  ⟨fun h => ⟨(h.2.2.2.2.2.1 (beatState []) (by decide +kernel) (by decide +kernel) (by decide) rfl).imp fun _ k => k.1,
      ⟨_, h.2.2.2.2.2.2.1 (wardenState {} {}) (by decide +kernel) (by decide +kernel)⟩,
      (h.2.2.2.2.2.2.2.1 (beatState [0]) (by decide +kernel) (by decide +kernel) (by decide) (by decide) (by decide)).imp fun _ k => k.1,
      (h.2.2.2.2.2.2.2.2.1 0 (resetTile { up := true }) rfl rfl rfl).imp fun _ k => k.1,
      (h.2.2.2.2.2.2.2.2.2.1 0 { wardenState {} {} with dies := [(0, { pll := true })] } rfl).imp fun _ k => k.1,
      (h.2.2.2.2.2.2.2.2.2.2.1 0 (resetTile { up := true, fence := some (2, 0) }) 2 0 rfl (by decide +kernel)).imp fun _ k => k.1⟩, by decide +kernel⟩

theorem test_die_reset : (Obligations.WardensAndRecoveryFollowTheirEvents → (∀ n ∈ [2, 3], Runs (.dieResetStep 0 0 ⟨true, [5], [2]⟩) (resetTile { resetStep := n, fenced := true })) ∧
      Runs (.dieResetStep 0 0 ⟨false, [], []⟩) (resetTile { resetStep := 4, fenced := true }) ∧ Runs (.dieResetStep 0 0 ⟨true, [5], [2]⟩) (resetTile { resetStep := 4, fenced := true }) ∧
      Runs (.dieResetStep 0 0 ⟨true, [5], [2]⟩) (resetTile { resetStep := 5, fenced := true, up := true })) ∧
    gives (exec (.dieResetStep 0 0 ⟨true, [5], [2]⟩) (resetTile { resetStep := 4, fenced := true })) (fun t => (t.tile 0).up && decide ((t.tile 0).resetStep = 5) && (t.tile 0).ucieDisabled.getLsbD 5 && decide ((t.tile 0).ucieRate 2 = 16)) = true ∧
    gives (exec (.dieResetStep 0 0 ⟨true, [5], [2]⟩) (resetTile { resetStep := 5, fenced := true, up := true })) (fun t => !(t.tile 0).fenced) = true :=
  ⟨fun h => ⟨fun n hn => by
        simp only [List.mem_cons, List.not_mem_nil, or_false] at hn
        rcases hn with rfl | rfl
        · exact ((h.2.2.2.2.2.2.2.2.2.2.2.1 0 0 true [5] [2] (resetTile { resetStep := 2, fenced := true })).1 rfl).imp fun _ k => k.1
        · exact ((h.2.2.2.2.2.2.2.2.2.2.2.1 0 0 true [5] [2] (resetTile { resetStep := 3, fenced := true })).2.1 rfl).imp fun _ k => k.1,
      ((h.2.2.2.2.2.2.2.2.2.2.2.1 0 0 false [] [] (resetTile { resetStep := 4, fenced := true })).2.2.1 rfl (.inl rfl)).imp fun _ k => k.1,
      ((h.2.2.2.2.2.2.2.2.2.2.2.1 0 0 true [5] [2] (resetTile { resetStep := 4, fenced := true })).2.2.2.1 rfl rfl (by decide +kernel)).imp fun _ k => k.1,
      ((h.2.2.2.2.2.2.2.2.2.2.2.1 0 0 true [5] [2] (resetTile { resetStep := 5, fenced := true, up := true })).2.2.2.2 rfl (by decide +kernel)).imp fun _ k => k.1⟩, by decide +kernel⟩

theorem test_escalation : (Obligations.WardensAndRecoveryFollowTheirEvents → Runs (.handlingWindowTimeout 0x0B000000) (windowState dieWindow {}) ∧
      Runs (.handlingWindowTimeout 0x0A000003) (windowState (railWindow 0) { wardens := [(1, 2)] }) ∧ Runs (.handlingWindowTimeout 0x0A000003) (windowState (railWindow 1) {})) ∧
    gives (exec (.handlingWindowTimeout 0x0B000000) (windowState dieWindow {})) (fun t => decide ((t.tile 0).fence.map (·.1) = some 3)) = true ∧
    gives (exec (.handlingWindowTimeout 0x0A000003) (windowState (railWindow 0) { wardens := [(1, 2)] })) (fun t => decide (t.velvet.holder = 1)) = true ∧
    gives (exec (.handlingWindowTimeout 0x0A000003) (windowState (railWindow 1) {})) (fun t => decide (t.boot.stage = 2)) = true :=
  ⟨fun h => ⟨(h.2.2.2.2.2.2.2.2.2.2.2.2.1 0 (windowState dieWindow {}) dieWindow [] rfl (by decide +kernel) (by decide +kernel) (by decide +kernel) rfl rfl).imp fun _ k => k.1,
      ((h.2.2.2.2.2.2.2.2.2.2.2.2.2 3 (windowState (railWindow 0) { wardens := [(1, 2)] }) (railWindow 0) [] rfl (by decide +kernel) (by decide +kernel) (by decide +kernel)).1
        rfl (by decide +kernel) (by decide +kernel)).imp fun _ k => k.1,
      ((h.2.2.2.2.2.2.2.2.2.2.2.2.2 3 (windowState (railWindow 1) {}) (railWindow 1) [] rfl (by decide +kernel) (by decide +kernel) (by decide +kernel)).2
        (by decide)).imp fun _ k => k.1⟩, by decide +kernel⟩

/-! ## Registers -/

/-- The module after boot with a configuration check of the hub window as given. -/
def crcState (c : CrcRegs) : State := { readyState with hub := { crc := c }, ticks := 2 ^ 31 }
def confCrcOf (c : CrcRegs) : Nat := (crcState c).confCrc .hub

theorem test_register_writes : (Obligations.RegistersFollowTheirWrites → Runs (.registerWrite h0 0x50108 true 7) readyState ∧
      Runs (.registerWrite h0 (BitVec.ofNat 26 (tileOff 0 0x4014)) false 5) readyState ∧ Runs (.registerWrite h0 0x100 false 1) readyState ∧
      Runs (.registerWrite h0 0 false 1) readyState ∧ Runs (.registerWrite .commandProcessor 0x1C00000 false 1) readyState ∧
      Runs (.registerAccessTimeout h0 (.tile 3)) readyState) ∧
    gives (exec (.registerWrite h0 0x50108 true 7) readyState) (fun t => decide (t.boot.nonce = 7 <<< 64)) = true ∧
    gives (exec (.registerWrite h0 (BitVec.ofNat 26 (tileOff 0 0x4014)) false 5) readyState) (fun t => decide (kget 0 (t.tile 0).classMask 1 = 5)) = true ∧
    gives (exec (.registerWrite h0 0 false 1) readyState) (fun t => decide (t.hub.crc.reject = 1) && decide (t.hub.lastAccess = 2)) = true ∧
    gives (exec (.registerWrite .commandProcessor 0x1C00000 false 1) readyState) (fun t => decide (t.hub.lastAccess = 1)) = true :=
  ⟨fun h => ⟨(h.2.1 h0 0x50108 7 1 readyState (by decide) (by decide) (may_write (by decide +kernel))).imp fun _ k => k.1,
      (h.2.2.1 h0 (BitVec.ofNat 26 (tileOff 0 0x4014)) 5 0 1 readyState (by decide) (by decide +kernel) (may_write (by decide +kernel))).imp fun _ k => k.1,
      ⟨_, h.2.2.2.1 h0 0x100 false 1 readyState _ (may_write (by decide +kernel)) (by decide) (by decide) rfl (by decide +kernel)
        (by decide +kernel) (by decide)⟩,
      (h.2.2.2.2.1 h0 0 1 readyState (may_write (by decide +kernel)) (by decide) (by decide) (by decide +kernel)).imp fun _ k => k.1,
      ⟨_, h.2.2.2.2.2.1 .commandProcessor 0x1C00000 false 1 readyState (by decide +kernel) (by decide) (by decide +kernel) (.inl (by decide +kernel))⟩,
      ⟨_, (h.2.2.2.2.2.2.1 h0 3 readyState (by decide +kernel)).1⟩⟩, by decide +kernel⟩

/-- The hub after five changes of a sideband input, none of them acknowledged. -/
def fiveState : State := { readyState with hub := { sideSeq := 5 } }

theorem test_register_aliases : (Obligations.RegistersFollowTheirWrites → Runs (.bitAliasWrite h0 0x400000 4 1) readyState ∧ Runs (.bitAliasWrite h0 0x400000 8 1) readyState ∧
      Runs (.sqAcknowledge h0 0x20020 0) readyState ∧ Runs (.sqAcknowledge h0 0x200 5) fiveState ∧ Runs (.sqAcknowledge h0 0x30018 0) readyState ∧ Runs (.commit h0 .hub) (crcState {}) ∧ Runs (.ref h0 .hub 9) readyState) ∧
    gives (exec (.bitAliasWrite h0 0x400000 4 1) readyState) (fun t => t.power.lendAcross) = true ∧
    gives (exec (.bitAliasWrite h0 0x400000 8 1) readyState) (fun t => !t.power.lendAcross && decide (t.hub.crc.reject = 1)) = true ∧
    gives (exec (.sqAcknowledge h0 0x200 5) fiveState) (fun t => decide (t.hub.sideAcked = 5)) = true ∧
    gives (exec (.ref h0 .hub 9) readyState) (fun t => decide (t.hub.crc.ref = 9)) = true :=
  ⟨fun h => ⟨(h.2.2.2.2.2.2.2.1 h0 1 readyState (may_write (by decide +kernel))).imp fun _ k => k.1,
      (h.2.2.2.2.2.2.2.2.1 h0 0x400000 8 1 readyState (by decide +kernel) (by decide +kernel) (by decide)).imp fun _ k => k.1,
      (h.2.2.2.2.2.2.2.2.2.1 h0 0 readyState (may_write (by decide +kernel))).imp fun _ k => k.1,
      (h.2.2.2.2.2.2.2.2.2.2.1 h0 5 fiveState (may_write (by decide +kernel))).imp fun _ k => k.1,
      (h.2.2.2.2.2.2.2.2.2.2.2.1 h0 0 readyState (may_write (by decide +kernel))).imp fun _ k => k.1,
      (h.2.2.2.2.2.2.2.2.2.2.2.2.1 h0 .hub (crcState {}) (may_write (by decide +kernel)) (by decide +kernel)).imp fun _ k => k.1,
      (h.2.2.2.2.2.2.2.2.2.2.2.2.2.1 h0 .hub 9 readyState (may_write (by decide +kernel))).imp fun _ k => k.1⟩, by decide +kernel⟩

theorem test_crc_sweep : (Obligations.RegistersFollowTheirWrites → Runs (.crcSweep .hub) (crcState { pending := true, commitAt := 0 }) ∧
      Runs (.crcSweep .hub) (crcState { check := true, ref := BitVec.ofNat 32 (confCrcOf { check := true }) }) ∧
      Runs (.crcSweep .hub) (crcState { check := true, ref := BitVec.ofNat 32 (confCrcOf { check := true } + 1), action := 0 }) ∧ Runs (.crcSweep .hub) (crcState { dirty := true })) ∧
    gives (exec (.crcSweep .hub) (crcState { check := true, ref := BitVec.ofNat 32 (confCrcOf { check := true } + 1), action := 0 })) (fun t => t.hub.crc.mismatch) = true ∧
    gives (exec (.crcSweep .hub) (crcState { pending := true, commitAt := 0 })) (fun t => !t.hub.crc.pending) = true :=
  ⟨fun h => ⟨((h.2.2.2.2.2.2.2.2.2.2.2.2.2.2 .hub (crcState { pending := true, commitAt := 0 }) (by decide +kernel)).1 rfl rfl (by decide +kernel)).imp fun _ k => k.1,
      ((h.2.2.2.2.2.2.2.2.2.2.2.2.2.2 .hub (crcState { check := true, ref := BitVec.ofNat 32 (confCrcOf { check := true }) }) (by decide +kernel)).2.1 rfl rfl rfl
        (by decide +kernel)).imp fun _ k => k.1,
      ((h.2.2.2.2.2.2.2.2.2.2.2.2.2.2 .hub (crcState { check := true, ref := BitVec.ofNat 32 (confCrcOf { check := true } + 1), action := 0 }) (by decide +kernel)).2.2.1 rfl rfl rfl
        (by decide +kernel) rfl rfl).imp fun _ k => k.1,
      ((h.2.2.2.2.2.2.2.2.2.2.2.2.2.2 .hub (crcState { dirty := true }) (by decide +kernel)).2.2.2 rfl (.inr rfl)).imp fun _ k => k.1⟩, by decide +kernel⟩

/-- HOT_CTL with a SIZE_LOG2 in its range of 8 to 20, and below it. -/
def hotOff : BitVec 26 := BitVec.ofNat 26 (tileOff 0 0x6008)

theorem test_fields : (Obligations.RegistersFollowTheirWrites → Runs (.registerWrite h0 hotOff false 0x11) readyState ∧ Runs (.registerWrite h0 hotOff false 0x4A) readyState) ∧
    gives (exec (.registerWrite h0 hotOff false 0x11) readyState) (fun t =>
      (t.tile 0).hot.enable && decide ((t.tile 0).hot.sizeLog2 = 8) && (t.tile 0).crc.dirty && decide (t.hub.lastAccess = 0)) = true ∧
    gives (exec (.registerWrite h0 hotOff false 0x4A) readyState) (fun t =>
      decide ((t.tile 0).hot.sizeLog2 = (readyState.tile 0).hot.sizeLog2) && decide ((t.tile 0).hot.rate = 1) && decide ((t.tile 0).crc.reject = 1) && decide (t.hub.lastAccess = 2)) = true :=
  ⟨fun h =>
    have k (v : BitVec 64) := h.1 h0 hotOff false v (.tile 0) 0x6008 .hotCtl readyState (may_write (by decide +kernel)) (by decide +kernel) (by decide +kernel) rfl rfl
      (by decide +kernel) (fun f hf hc => absurd ((by decide : ∀ f ∈ Reg.hotCtl.fields, f.code = .rw) f hf) hc)
    ⟨(k 0x11).imp fun _ k => k.1, (k 0x4A).imp fun _ k => k.1⟩, by decide +kernel⟩

/-! ## The management bus and JTAG -/

def boardState (scope : BitVec 2) : State := { readyState with boot := { stage := 15, boardKey := some 0, debugScope := scope }, ticks := 2 ^ 31 }
/-- The tag of a request of the board controller, and one that is not. -/
def boardTag0 (op : Byte) (ps : List Byte) : Nat := ((boardState 0).boardTag 0 (plainRequest op ps ++ leBytes 8 1) ps.length).toNat
def wrongBoardTag : Nat := if boardTag0 0x11 [] = 0 then 1 else 0

theorem board_tag (s : State) (key : BitVec 256) (op : Byte) (ps : List Byte) (counter tag : Nat) :
    s.boardTag key (signedRequest op ps counter tag) ps.length = s.boardTag key (plainRequest op ps ++ leBytes 8 counter) ps.length := by
  unfold State.boardTag signedRequest
  have e : (plainRequest op ps ++ leBytes 8 counter).length = 12 + ps.length := by
    simp [plainRequest, leBytes]
    omega
  rw [List.take_append_of_le_length (by omega)]

theorem board_signed (op : Byte) (ps : List Byte) : BoardSigned (boardState 0) op ps 1 (boardTag0 op ps) := by
  unfold BoardSigned
  refine ⟨by decide +kernel, by decide +kernel, by decide +kernel, by decide, BitVec.isLt _, 0, rfl, ?_⟩
  rw [board_tag]
  rfl

theorem wrong_board_tag : ((boardState 0).boardTag 0 (signedRequest 0x11 [] 1 wrongBoardTag) 0).toNat ≠ wrongBoardTag := by
  have e : (boardState 0).boardTag 0 (signedRequest 0x11 [] 1 wrongBoardTag) 0 = (boardState 0).boardTag 0 (plainRequest 0x11 [] ++ leBytes 8 1) 0 :=
    board_tag (boardState 0) 0 0x11 [] 1 wrongBoardTag
  rw [e]
  show boardTag0 0x11 [] ≠ wrongBoardTag
  unfold wrongBoardTag
  split
  · rename_i h
    rw [h]
    decide
  · assumption

theorem test_plain_requests : (Obligations.ManagementRequestsAreAnswered → Runs (.regRead (plainRequest 1 (leBytes 4 0x100 ++ leBytes 1 2))) readyState ∧
      Runs (.attestWrite (plainRequest 2 (leBytes 4 8 ++ leBytes 4 7))) readyState ∧ Runs (.boardCounterRead (plainRequest 3 [])) readyState ∧
      Runs (.regRead [1, 4, 0, 0]) readyState) ∧
    gives (exec (.attestWrite (plainRequest 2 (leBytes 4 8 ++ leBytes 4 7))) readyState) (fun t => decide (t.boot.nonce = 7 <<< 64) && decide (t.hub.reply = some [2, 0, 0, 0])) = true ∧
    gives (exec (.boardCounterRead (plainRequest 3 [])) readyState) (fun t => decide (t.hub.reply = some ([3, 0, 8, 0] ++ leBytes 8 0))) = true ∧
    gives (exec (.regRead [1, 4, 0, 0]) readyState) (fun t => decide (t.hub.reply = some [1, 3, 0, 0])) = true :=
  ⟨fun h => ⟨(h.1 0x100 2 readyState (by decide +kernel) (by decide) (by decide) (by decide) (by decide) (by decide +kernel)).imp fun _ k => k.1,
      (h.2.1 8 7 readyState (by decide +kernel) (by decide) (by decide) (by decide)).imp fun _ k => k.1,
      ⟨_, h.2.2.1 readyState (by decide +kernel)⟩,
      ⟨_, h.2.2.2.1 1 (.regRead [1, 4, 0, 0]) 5 [1, 4, 0, 0] readyState (.inl ⟨rfl, rfl, rfl⟩) (by decide +kernel) rfl (.inl (by decide))⟩⟩, by decide +kernel⟩

/-- A module whose boot is still in progress, and one in step 2. -/
def noKeyState : State := { boardState 0 with boot := { stage := 4 } }
def dueEarly : State := { boardState 0 with boot := { stage := 2 } }

theorem test_signed_requests : Obligations.ManagementRequestsAreAnswered → Runs (.wardenSelect (signedRequest 0x10 (leBytes 1 1) 1 (boardTag0 0x10 (leBytes 1 1)))) (boardState 0) ∧
    Runs (.packageReset (signedRequest 0x11 [] 1 (boardTag0 0x11 []))) (boardState 0) ∧
    Runs (.boardKeyRotate (signedRequest 0x12 (List.replicate 32 0) 1 (boardTag0 0x12 (List.replicate 32 0)))) (boardState 0) ∧
    Runs (.packageReset (signedRequest 0x11 [] 1 0)) noKeyState ∧ Runs (.packageReset [1, 4, 0, 0]) dueEarly ∧ Runs (.packageReset (signedRequest 0x11 [] 1 wrongBoardTag)) (boardState 0) :=
  fun h => ⟨(h.2.2.2.2.1 1 1 (boardTag0 0x10 (leBytes 1 1)) (boardState 0) (board_signed 0x10 (leBytes 1 1))).imp fun _ k => k.1,
      (h.2.2.2.2.2.1 1 (boardTag0 0x11 []) (boardState 0) (board_signed 0x11 [])).imp fun _ k => k.1,
      (h.2.2.2.2.2.2.1 (List.replicate 32 0) 1 (boardTag0 0x12 (List.replicate 32 0)) (boardState 0) 0 rfl rfl (board_signed 0x12 (List.replicate 32 0))).imp fun _ k => k.1,
      ⟨_, h.2.2.2.2.2.2.2.1 1 0 noKeyState (by decide +kernel) rfl⟩, ⟨_, (h.2.2.2.2.2.2.2.2.1 [1, 4, 0, 0] dueEarly (by decide +kernel)).1⟩,
      (h.2.2.2.2.2.2.2.2.2.1 1 wrongBoardTag (boardState 0) 0 (by decide +kernel) (by decide +kernel) rfl (by unfold wrongBoardTag; split <;> decide)
        wrong_board_tag
        (by decide +kernel)).imp fun _ k => k.1⟩

def dueState : State := { readyState with hub := { resetAt := some 0, reply := some [0x11, 0, 0, 0] } }
def heldCore : State := { boardState 3 with cores := [(3, { present := true, blocks := [(1, { groups := [(2, {})] })] })] }

theorem test_jtag : (Obligations.ManagementRequestsAreAnswered → Runs .i3cReplyRead readyState ∧ Runs .i3cReplyRead dueState ∧ Runs (.jtagAccess .idcode) readyState ∧
      Runs (.jtagAccess (.halt 3)) (boardState 3) ∧ Runs (.jtagAccess (.haltHost 9)) (boardState 3) ∧ Runs (.jtagAccess (.halt 3)) readyState ∧
      Runs (.jtagAccess (.writeCore gA 1 2 7)) heldCore) ∧
    gives (exec .i3cReplyRead dueState) (fun t => decide (t.boot.stage = 2) && decide (t.i3cOut = [0x11, 0, 0, 0])) = true ∧
    gives (exec (.jtagAccess (.halt 3)) (boardState 3)) (fun t => decide (t.boot.halted = [3]) && decide (t.hub.jtag = some 0)) = true ∧
    gives (exec (.jtagAccess (.haltHost 9)) (boardState 3)) (fun t => decide (t.boot.haltedHosts = [9])) = true ∧
    gives (exec (.jtagAccess (.writeCore gA 1 2 7)) heldCore) (fun t => decide (((t.block 3 1).group 2).reg 1 2 = 7)) = true :=
  ⟨fun h => ⟨⟨_, (h.2.2.2.2.2.2.2.2.2.2.1 readyState (by decide +kernel)).1 rfl⟩,
      ((h.2.2.2.2.2.2.2.2.2.2.1 dueState (by decide +kernel)).2 (by decide)).imp fun _ k => k.1,
      (h.2.2.2.2.2.2.2.2.2.2.2.1 readyState (by decide +kernel)).imp fun _ k => k.1,
      ⟨_, (h.2.2.2.2.2.2.2.2.2.2.2.2.1 3 (boardState 3) (by decide +kernel) rfl).1⟩, ⟨_, (h.2.2.2.2.2.2.2.2.2.2.2.2.2.1 9 (boardState 3) (by decide +kernel) rfl).1⟩,
      ⟨_, (h.2.2.2.2.2.2.2.2.2.2.2.2.2.2.1 (.halt 3) readyState (by decide +kernel) rfl ⟨3, gA, 0, 0, 0, 0, 0, 0, false, 0, 0, by simp⟩).1⟩,
      (h.2.2.2.2.2.2.2.2.2.2.2.2.2.2.2.1 gA 1 2 7 heldCore (by decide +kernel) rfl (by decide +kernel)).imp fun _ k => k.1⟩, by decide +kernel⟩

def busyLine : State := { readyState with velvet := { velvet0 with raw := [(1, true)], transitions := [(1, List.replicate 8 0)] } }
def chatterState : State := { readyState with velvet := { velvet0 with chatter := 2 } }

/-- Straps that changed 1 ms ago less one count. -/
def strapState : State := { readyState with velvet := { velvet0 with strapAt := some 1 }, ticks := 100000 }

theorem test_sideband : (Obligations.ManagementRequestsAreAnswered → Runs (.slotIdChange 9) readyState ∧ Runs (.slotIdChange 9) strapState ∧ Runs (.sidebandChatter 1) busyLine ∧
      Runs (.chatterEnd 1) chatterState) ∧
    gives (exec (.slotIdChange 9) readyState) (fun t => decide (t.hub.strap = 9) && decide (t.hub.sideSeq = 1)) = true ∧
    gives (exec (.slotIdChange 9) strapState) (fun t => decide (t.hub.strap = 0)) = true ∧
    gives (exec (.sidebandChatter 1) busyLine) (fun t => t.velvet.chatter.getLsbD 1) = true ∧
    gives (exec (.chatterEnd 1) chatterState) (fun t => decide (t.velvet.chatter = 0)) = true :=
  ⟨fun h => ⟨(h.2.2.2.2.2.2.2.2.2.2.2.2.2.2.2.2.1 9 readyState (by decide +kernel) (by decide +kernel)).imp fun _ k => k.1,
      ⟨_, h.2.2.2.2.2.2.2.2.2.2.2.2.2.2.2.2.2.1 9 strapState 1 rfl (by decide)⟩,
      (h.2.2.2.2.2.2.2.2.2.2.2.2.2.2.2.2.2.2.1 1 busyLine rfl (by decide +kernel) (by decide +kernel) (by decide +kernel)).imp fun _ k => k.1,
      (h.2.2.2.2.2.2.2.2.2.2.2.2.2.2.2.2.2.2.2 1 chatterState (by decide +kernel) (by decide +kernel)).imp fun _ k => k.1⟩, by decide +kernel⟩

/-! ## The machine as a whole -/

def rec0 (cls : Nat) : Rec := { typ := 0x10, cls := cls, source := 0, unit := 0x0B000000, payload := 0 }
/-- A ring of die 0, and the package's, that take no record. -/
def fullErrs : ErrRing := { write := 1000, read := 0 }

def spillState : State := { readyState with tiles := [(0, { errs := fullErrs })] }
def fullState : State := { spillState with hub := { errs := fullErrs } }
/-- readyState with the window of die 0 open. -/
def openState : State := { readyState with hub := { windows := [{ unit := 0x0B000000, source := 0 }] } }

theorem test_records : (Obligations.RecordsEnterTheirRingAndOpenWindows → ((readyState.recordAt 0 (rec0 2)).1.errs 0).write = 1 ∧
      ((spillState.recordAt 0 (rec0 2)).1.errs 12).write = 1 ∧ ((fullState.recordAt 0 (rec0 2)).1.errs 0).overflow = 1 ∧
      (openState.record 0 (rec0 3)).hub.actions = [(0, 0x0B000000)] ∧ (readyState.record 0 (rec0 1)).hub.windows = []) ∧
    (readyState.record 0 (rec0 2)).hub.windows.map (·.unit) = [0x0B000000] ∧ ((spillState.recordAt 0 (rec0 2)).1.errs 12).write = 1 ∧
    ((fullState.recordAt 0 (rec0 2)).1.errs 0).overflow = 1 ∧ ((readyState.record 0 (rec0 2)).record 0 (rec0 3)).hub.actions = [(0, 0x0B000000)] := by
  refine ⟨fun h => ⟨?_, ?_, ?_, ?_, ?_⟩, by decide +kernel⟩
  · exact ((h readyState 0 (rec0 2) (by decide)).1 (by decide +kernel)).1.trans (by decide +kernel)
  · exact ((h spillState 0 (rec0 2) (by decide)).2.1 (by decide +kernel) (by decide) (by decide +kernel)).1.trans (by decide +kernel)
  · exact ((h fullState 0 (rec0 2) (by decide)).2.2.1 (by decide +kernel) (by decide +kernel) _ rfl).1.trans (by decide +kernel)
  · exact (((h openState 0 (rec0 3) (by decide)).2.2.2.1 (.inr rfl) (by decide) (by decide)).2 { unit := 0x0B000000, source := 0 } (by decide +kernel)).2
  · exact (h readyState 0 (rec0 1) (by decide)).2.2.2.2 (.inl ⟨by decide, by decide⟩)

/-- The last slots: the sixtieth record of CLASS 2 enters the ring, the next does not, and one of CLASS 3 does up to the last slot. -/
theorem test_records_edges : let e := fun n : Nat => ({ readyState with tiles := [(0, { errs := { write := BitVec.ofNat 64 n } })] } : State)
    (((e 59).recordAt 0 (rec0 2)).1.errs 0).write = 60 ∧ (((e 60).recordAt 0 (rec0 2)).1.errs 12).write = 1 ∧
    (((e 63).recordAt 0 (rec0 3)).1.errs 0).write = 64 ∧ (((e 64).recordAt 0 (rec0 3)).1.errs 12).write = 1 ∧
    (kget 0 (((e 60).recordAt 0 (rec0 2)).1.errs 12).recs 0).getLsbD 154 = true := by decide +kernel

theorem test_reset : MemoryOk State.reset := ⟨by decide +kernel, by decide +kernel⟩

/-- The state of a step's front command, and one whose memory lists a byte. -/
def queued : State := { readyState with pending := [.powerOn, .brownOut], mem := [⟨5, 1⟩] }

theorem test_step : (Obligations.StepsTakeTheFrontCommand → ∃ t, step queued = .next t ∧ t.pending = [.brownOut]) ∧
    (Obligations.StepsKeepMemoryCanonical → ∃ t, step queued = .next t ∧ MemoryOk t) ∧ MemoryOk queued := by
  refine ⟨fun h => ?_, fun h => ?_, ⟨by decide +kernel, by decide +kernel⟩⟩
  · exact ⟨_, rfl, h queued _ rfl⟩
  · exact ⟨_, rfl, h queued _ ⟨by decide +kernel, by decide +kernel⟩ rfl⟩

theorem test_idle : gives (step readyState) (fun t => t.pending.isEmpty) = true := by decide +kernel

/-! ## Words of the table -/

/-- No row of this block's table has bits, so no word is a command. -/
theorem test_words : decodeTableWord 0 0 = none ∧ decodeTableWord 32 5 = none ∧ (State.reset.withFetchWord 32 5).pending = [] := by decide +kernel
end Sys2Proof.Tests
end

/-! SUPPORT. Rules of the operations that an instruction of the compute core is made of: tables under a map, the groups and the
registers after an update of several threads, the state in which an instruction runs, and the block that a fault ends. -/

namespace Sys2Proof.Machine

/-! ## Tables -/

theorem kget_of_kfind {α : Type} {d v : α} {m : KMap α} {k : Nat} (h : kfind m k = some v) : kget d m k = v := by
  induction m with
  | nil => simp [kfind] at h
  | cons p m ih =>
    obtain ⟨j, w⟩ := p
    by_cases hk : k = j
    · simpa [kfind, kget, hk] using h
    · simp only [kfind, hk, if_false] at h
      simpa [kget, hk] using ih h

theorem kfind_kset_same {α : Type} (m : KMap α) (k : Nat) (v : α) : kfind (kset m k v) k = some v := by
  induction m with
  | nil => simp [kset, kfind]
  | cons p m ih =>
    obtain ⟨j, w⟩ := p
    simp only [kset]
    split
    · simp [kfind]
    · split
      · simp [kfind]
      · rename_i hne
        simpa [kfind, hne] using ih

theorem kfind_map {α : Type} (f : Nat → α → α) (m : KMap α) (k : Nat) :
    kfind (m.map fun p => (p.1, f p.1 p.2)) k = (kfind m k).map (f k) := by
  induction m with
  | nil => rfl
  | cons p m ih =>
    obtain ⟨j, w⟩ := p
    by_cases hk : k = j
    · subst hk
      simp [kfind]
    · simpa [kfind, hk] using ih

/-- A map that keeps the default is read as it is applied. -/
theorem kget_map_of_default {α : Type} {d : α} (f : Nat → α → α) (m : KMap α) (k : Nat) (h : f k d = d) :
    kget d (m.map fun p => (p.1, f p.1 p.2)) k = f k (kget d m k) := by
  induction m with
  | nil => simp [kget, h]
  | cons p m ih =>
    obtain ⟨j, w⟩ := p
    by_cases hk : k = j
    · subst hk
      simp [kget]
    · simpa [kget, hk] using ih

/-! ## Several threads of a group at once -/

section ThreadsInOrder

variable (F : Nat → Thread → Thread)

/-- An update of several threads changes the threads alone. -/
theorem Group.foldl_modThread_only (ls : List Nat) (g : Group) : ls.foldl (fun g l => g.modThread l (F l)) g =
    { g with threads := (ls.foldl (fun g l => g.modThread l (F l)) g).threads } := by
  induction ls generalizing g with
  | nil => rfl
  | cons l ls ih => exact ih _

/-- What the update of a thread keeps, the update of several keeps of each. -/
theorem Group.foldl_modThread_keeps {β : Type} (p : Thread → β) (h : ∀ l t, p (F l t) = p t) (ls : List Nat) (g : Group) (x : Nat) :
    p ((ls.foldl (fun g l => g.modThread l (F l)) g).thread x) = p (g.thread x) := by
  induction ls generalizing g with
  | nil => rfl
  | cons l ls ih =>
    rw [List.foldl_cons, ih]
    by_cases hx : x = l
    · rw [hx, Group.modThread_same, h]
    · rw [Group.modThread_ne _ _ _ _ hx]

end ThreadsInOrder

/-- Threads sent to targets of their own. -/
theorem Group.foldl_setPc (target : Nat → BitVec 64) (ls : List Nat) (g : Group) (x : Nat) :
    ((ls.foldl (fun g l => g.modThread l fun t => { t with pc := target l }) g).thread x).pc =
      if x ∈ ls then target x else (g.thread x).pc := by
  induction ls generalizing g with
  | nil => simp
  | cons l ls ih =>
    rw [List.foldl_cons, ih]
    by_cases hx : x = l
    · subst hx
      simp
    · simp [hx, Group.modThread_ne _ _ _ _ hx]

theorem Group.pred_congr {g k : Group} {l : Nat} (h : (g.thread l).preds = (k.thread l).preds) (p : Nat) : g.pred l p = k.pred l p := by
  unfold Group.pred
  rw [h]

@[simp] theorem Group.advance_pred (g : Group) (ls : List Nat) (l p : Nat) : (g.advance ls).pred l p = g.pred l p :=
  Group.pred_congr (Group.foldl_modThread_keeps (fun _ t => { t with pc := t.pc + 8 }) Thread.preds (fun _ _ => rfl) ls g l) p

/-! ## What an issue counts (R86, R88, R131) -/

@[simp] theorem Group.prune_thread (g : Group) (l : Nat) : g.prune.thread l = g.thread l := rfl
@[simp] theorem Group.prune_reg (g : Group) (l r : Nat) : g.prune.reg l r = g.reg l r := rfl
@[simp] theorem Group.prune_pred (g : Group) (l p : Nat) : g.prune.pred l p = g.pred l p := rfl
@[simp] theorem Group.prune_quarter (g : Group) : g.prune.quarter = g.quarter := rfl
@[simp] theorem Group.prune_slot (g : Group) : g.prune.slot = g.slot := rfl

/-- An issue counts in the threads, in ISSUED and in what YIELD holds, and nowhere else. -/
theorem Group.noteIssue_only (g : Group) (pc : BitVec 64) (ls : List Nat) : g.noteIssue pc ls =
    { g with threads := (g.noteIssue pc ls).threads, issued := (g.noteIssue pc ls).issued, held := (g.noteIssue pc ls).held } := by
  unfold Group.noteIssue
  dsimp only
  rw [Group.foldl_modThread_only]

@[simp] theorem Group.noteIssue_reg (g : Group) (pc : BitVec 64) (ls : List Nat) (l r : Nat) : (g.noteIssue pc ls).reg l r = g.reg l r := by
  rw [Group.noteIssue_only]; rfl
@[simp] theorem Group.noteIssue_quarter (g : Group) (pc : BitVec 64) (ls : List Nat) : (g.noteIssue pc ls).quarter = g.quarter := by
  rw [Group.noteIssue_only]
@[simp] theorem Group.noteIssue_slot (g : Group) (pc : BitVec 64) (ls : List Nat) : (g.noteIssue pc ls).slot = g.slot := by
  rw [Group.noteIssue_only]
@[simp] theorem Group.noteIssue_pc (g : Group) (pc : BitVec 64) (ls : List Nat) (l : Nat) :
    ((g.noteIssue pc ls).thread l).pc = (g.thread l).pc :=
  Group.foldl_modThread_keeps (fun _ t => { t with lastIssue := (g.issued + 1).toNat }) Thread.pc (fun _ _ => rfl) ls _ l
@[simp] theorem Group.noteIssue_pred (g : Group) (pc : BitVec 64) (ls : List Nat) (l p : Nat) :
    (g.noteIssue pc ls).pred l p = g.pred l p :=
  Group.pred_congr
    (Group.foldl_modThread_keeps (fun _ t => { t with lastIssue := (g.issued + 1).toNat }) Thread.preds (fun _ _ => rfl) ls _ l) p

/-! ## Runs of registers (R116) -/

theorem Group.regs'_congr {g k : Group} {l n : Nat} : ∀ {r : Nat}, (∀ j < n, g.reg l (r + j) = k.reg l (r + j)) → g.regs' l r n = k.regs' l r n := by
  induction n with
  | zero => intros; rfl
  | succ n ih =>
    intro r h
    have low : g.reg l r = k.reg l r := h 0 (by omega)
    have high : g.regs' l (r + 1) n = k.regs' l (r + 1) n := ih fun j hj => by
      rw [Nat.add_right_comm, Nat.add_assoc]
      exact h (j + 1) (by omega)
    rw [Group.regs', Group.regs', low, high]

theorem Group.pair_congr {g k : Group} {l : Nat} (h : ∀ r, g.reg l r = k.reg l r) (r : Nat) : g.pair l r = k.pair l r := by
  unfold Group.pair
  rw [Group.regs'_congr fun j _ => h (r + j)]

/-- Registers that hold the 32-bit digits of v hold v. -/
theorem Group.regs'_of_digits {g : Group} {l : Nat} (n : Nat) : ∀ (r v : Nat),
    (∀ k < n, g.reg l (r + k) = BitVec.ofNat 32 (v / 2 ^ (32 * k))) → g.regs' l r n = v % 2 ^ (32 * n) := by
  induction n with
  | zero =>
    intro r v _
    simp [Group.regs', Nat.mod_one]
  | succ n ih =>
    intro r v h
    have low : (g.reg l r).toNat = v % 2 ^ 32 := by
      have h0 := h 0 (by omega)
      rw [Nat.add_zero, Nat.mul_zero, Nat.pow_zero, Nat.div_one] at h0
      rw [h0, BitVec.toNat_ofNat]
    have high : g.regs' l (r + 1) n = v / 2 ^ 32 % 2 ^ (32 * n) := ih _ _ fun k hk => by
      rw [Nat.add_right_comm, Nat.add_assoc, h (k + 1) (by omega), Nat.div_div_eq_div_mul, ← Nat.pow_add, Nat.mul_add, Nat.add_comm 32]
    rw [Group.regs', low, high, Nat.mul_add, Nat.add_comm (32 * n), Nat.pow_add, Nat.mod_mul]

theorem regWrites_eq_map (n : Nat) : ∀ (d : BitVec 8) (v : Nat), d.toNat + n ≤ 256 →
    regWrites d n v = (List.range n).map fun k => (d.toNat + k, BitVec.ofNat 32 (v / 2 ^ (32 * k))) := by
  induction n with
  | zero => intro d v _; rfl
  | succ n ih =>
    intro d v hd
    rw [regWrites, List.range_succ_eq_map, List.map_cons, List.map_map]
    congr 1
    · simp
    · rcases Nat.eq_zero_or_pos n with rfl | hn
      · rfl
      have next : (d + 1).toNat = d.toNat + 1 := by
        rw [BitVec.toNat_add]
        exact Nat.mod_eq_of_lt (by simp; omega)
      rw [ih _ _ (by omega), next]
      refine List.map_congr_left fun k _ => ?_
      rw [Function.comp_apply, Nat.div_div_eq_div_mul, ← Nat.pow_add, Nat.mul_succ, Nat.add_comm 32]
      simp only [Prod.mk.injEq, and_true]
      omega

/-- A register takes what a list of writes, one to a register, names for it. -/
theorem Group.foldl_setReg_of_mem {l r : Nat} {v : BitVec 32} (rs : List (Nat × BitVec 32)) (hb : ∀ p ∈ rs, p.1 < 256)
    (hd : (rs.map Prod.fst).Nodup) (hm : (r, v) ∈ rs) (g : Group) : (rs.foldl (fun g p => g.setReg l p.1 p.2) g).reg l r = v := by
  induction rs generalizing g with
  | nil => simp at hm
  | cons q rs ih =>
    rw [List.map_cons, List.nodup_cons] at hd
    have hb' : ∀ p ∈ rs, p.1 < 256 := fun p hp => hb p (by simp [hp])
    rcases List.mem_cons.1 hm with hq | hm'
    · subst hq
      have other : ∀ p ∈ ({ regs := rs } : Writes).regs, p.1 < 256 ∧ p.1 ≠ r :=
        fun p hp => ⟨hb' p hp, fun e => hd.1 (List.mem_map.2 ⟨p, hp, e⟩)⟩
      exact (Group.write_reg_ne (g.setReg l r v) l l r { regs := rs } other (hb (r, v) (by simp))).trans (Group.reg_setReg_same g l r v)
    · exact ih hb' hd.2 hm' _

section RegisterWrites

variable {d : BitVec 8} {n : Nat} (hd : d.toNat + n ≤ 256)
include hd

theorem mem_regWrites {v : Nat} {p : Nat × BitVec 32} (hp : p ∈ regWrites d n v) : p.1 < 256 ∧ p.1 ∈ regList d n := by
  rw [regWrites_eq_map n d v hd, List.mem_map] at hp
  obtain ⟨k, hk, rfl⟩ := hp
  exact ⟨by have := List.mem_range.1 hk; simp only; omega, List.mem_map_of_mem hk⟩

/-- The registers of a value, after it has been written, hold it. -/
theorem Group.write_regWrites (g : Group) (l v : Nat) :
    (g.write l { regs := regWrites d n v }).regs' l d.toNat n = v % 2 ^ (32 * n) := by
  refine Group.regs'_of_digits n _ _ fun k hk => ?_
  refine Group.foldl_setReg_of_mem (regWrites d n v) (fun p hp => (mem_regWrites hd hp).1) ?_ ?_ g
  · rw [regWrites_eq_map n d v hd, List.map_map]
    exact List.pairwise_map.2 (List.Pairwise.imp (fun ne e => ne (Nat.add_left_cancel e)) (List.nodup_range (n := n)))
  · rw [regWrites_eq_map n d v hd]
    exact List.mem_map.2 ⟨k, List.mem_range.2 hk, rfl⟩

variable (v : Nat → Nat) (ls : List Nat) (g : Group)

/-- Values written by several threads leave the other threads, and the other registers. -/
theorem Group.foldl_regWrites_ne {x r : Nat} (hr : r < 256) (h : x ∉ ls ∨ r ∉ regList d n) :
    (ls.foldl (fun g l => g.write l { regs := regWrites d n (v l) }) g).reg x r = g.reg x r := by
  rcases h with hx | hr'
  · exact perThread_reg_ne (fun _ l => { regs := regWrites d n (v l) }) g ls x r (fun _ _ _ hp => (mem_regWrites hd hp).1) hr hx g
  · refine List.foldlRecOn (motive := fun k : Group => k.reg x r = g.reg x r) ls _ rfl fun k hk l _ => ?_
    have other : ∀ p ∈ regWrites d n (v l), p.1 < 256 ∧ p.1 ≠ r :=
      fun p hp => ⟨(mem_regWrites hd hp).1, fun e => hr' (e ▸ (mem_regWrites hd hp).2)⟩
    exact (Group.write_reg_ne k l x r { regs := regWrites d n (v l) } other hr).trans hk

/-- Each of several threads that write values holds its own. -/
theorem Group.foldl_regWrites_same {x : Nat} (hx : x ∈ ls) (hn : ls.Nodup) :
    (ls.foldl (fun g l => g.write l { regs := regWrites d n (v l) }) g).regs' x d.toNat n = v x % 2 ^ (32 * n) := by
  induction ls generalizing g with
  | nil => simp at hx
  | cons l ls ih =>
    rw [List.nodup_cons] at hn
    rw [List.foldl_cons]
    rcases List.mem_cons.1 hx with rfl | hx'
    · refine Eq.trans (Group.regs'_congr fun j hj => ?_) (Group.write_regWrites hd g x (v x))
      exact Group.foldl_regWrites_ne hd v ls _ (by omega) (.inl hn.1)
    · exact ih _ hx' hn.2

end RegisterWrites

/-- Writes of registers alone leave the threads. -/
theorem Group.write_regs_thread (g : Group) (l x : Nat) (rs : List (Nat × BitVec 32)) : (g.write l { regs := rs }).thread x = g.thread x :=
  List.foldlRecOn (motive := fun k : Group => k.thread x = g.thread x) rs _ rfl fun _ hk _ _ => hk

/-! ## The issue in the state -/

section Issued

variable {s : State} {a : GroupAt} {f : Fields} {i : Issue} (hi : s.issueOf a f = some i)
include hi

theorem State.issueOf_block : s.block a.core.val a.block.val = i.block := by
  obtain ⟨-, -, -, -, -, hb, -⟩ := State.issueOf_at hi
  exact kget_of_kfind hb

/-- The group at issue is the group, its holds brought up to date (R86). -/
theorem State.issueOf_group : i.group = (s.groupAt a).prune := by
  unfold State.groupAt
  rw [State.issueOf_block hi]
  unfold State.issueOf at hi
  dsimp only at hi
  split at hi
  · simp at hi
  · split at hi
    · simp at hi
    · split at hi
      · simp at hi
      · rename_i hg
        split at hi
        · simp at hi
        · simp only [Option.some.injEq] at hi
          subst hi
          exact congrArg Group.prune (kget_of_kfind hg).symm

/-- R85: the threads of the subset stand at its program counter. -/
theorem State.issueOf_pc {l : Nat} (hl : l ∈ i.lanes) : ((s.groupAt a).thread l).pc = i.at_.pc := by
  obtain ⟨-, -, -, hls, -, -, -⟩ := State.issueOf_at hi
  rw [hls, State.issueOf_group hi] at hl
  exact of_decide_eq_true (List.mem_filter.1 hl).2

theorem State.issueOf_active_subset {l : Nat} (hl : l ∈ i.active) : l ∈ i.lanes := by
  obtain ⟨-, -, -, -, ha, -, -⟩ := State.issueOf_at hi
  rw [ha] at hl
  exact (List.mem_filter.1 hl).1

/-- The active threads come in lane order. -/
theorem State.issueOf_active_sorted : i.active.Pairwise (· < ·) := by
  obtain ⟨-, -, -, hl, ha, -, -⟩ := State.issueOf_at hi
  rw [ha, hl]
  exact (((List.pairwise_lt_range.filter _).filter _).filter _).filter _

end Issued

/-! ## The state in which an instruction runs -/

section Runs

variable {s : State} {a : GroupAt} {f : Fields} {i : Issue}

theorem Ready.issueOf {legal : Nat → Bool} {uses : List Nat} (h : Ready s a f legal uses i) : s.issueOf a f = some i := h.1
theorem Ready.legal_alloc {legal : Nat → Bool} {uses : List Nat} (h : Ready s a f legal uses i) : legal i.block.alloc = true := h.2.2.1

/-- A ready instruction that never waits runs in the state with its issue counted (R80, R114). -/
theorem State.issue_ready {legal : Nat → Bool} {uses : List Nat} (h : Ready s a f legal uses i) (cls op : Nat)
    (run : Issue → State → State) (rd : Nat) : s.issue a cls op f legal uses run rd =
      .next (run { i with group := i.group.noteIssue i.at_.pc i.lanes } (s.issued i)) := by
  obtain ⟨hi, hr, hl, hu, hx, hs⟩ := h
  obtain ⟨hc, hb, hg, -, -, -, -⟩ := State.issueOf_at hi
  rw [← hc, ← hb, ← hg] at hx
  rw [State.issue, State.issueM_ready cls op legal uses _ rd hi hr hl hu hx hs, Group.noteIssue_quarter]
  rfl

variable (hi : s.issueOf a f = some i)
include hi

theorem State.issued_eq : s.issued i = (s.touchQuarter a.core.val i.group.quarter).modGroup a.core.val a.block.val a.group.val
    fun _ => i.group.noteIssue i.at_.pc i.lanes := by
  obtain ⟨hc, hb, hg, -, -, -, -⟩ := State.issueOf_at hi
  rw [State.issued, hc, hb, hg]

/-- The group's threads, registers and predicates are those from before its issue. -/
theorem State.issued_reg (l r : Nat) : (i.group.noteIssue i.at_.pc i.lanes).reg l r = (s.groupAt a).reg l r := by
  rw [Group.noteIssue_reg, State.issueOf_group hi, Group.prune_reg]
theorem State.issued_pred (l p : Nat) : (i.group.noteIssue i.at_.pc i.lanes).pred l p = (s.groupAt a).pred l p := by
  rw [Group.noteIssue_pred, State.issueOf_group hi, Group.prune_pred]
theorem State.issued_pc (l : Nat) : ((i.group.noteIssue i.at_.pc i.lanes).thread l).pc = ((s.groupAt a).thread l).pc := by
  rw [Group.noteIssue_pc, State.issueOf_group hi, Group.prune_thread]

/-- What an instruction makes of its group, counted at issue. -/
theorem State.groupAt_issued_modGroup (h : Group → Group) :
    ((s.issued i).modGroup i.at_.core i.at_.block i.at_.group h).groupAt a = h (i.group.noteIssue i.at_.pc i.lanes) := by
  obtain ⟨hc, hb, hg, -, -, -, -⟩ := State.issueOf_at hi
  rw [State.issued_eq hi, hc, hb, hg, State.groupAt, State.modGroup_same, State.modGroup_same]

/-- An instruction that changes its group alone changes nothing else. -/
theorem State.issued_modGroup_groupOnly (h : Group → Group) :
    GroupOnly s ((s.issued i).modGroup i.at_.core i.at_.block i.at_.group h) a := by
  obtain ⟨hc, hb, hg, -, -, -, -⟩ := State.issueOf_at hi
  rw [State.issued_eq hi, hc, hb, hg]
  have touched : ∀ b, (s.touchQuarter a.core.val i.group.quarter).block a.core.val b = s.block a.core.val b := fun b => by
    rw [State.block, State.touchQuarter, State.modCore_core_same]; rfl
  refine ⟨⟨rfl, fun d hd => ?_, ?_⟩, fun b hb => ?_, ?_, fun g hg => ?_⟩
  · rw [State.modGroup_core_ne _ _ _ _ _ _ hd, State.modGroup_core_ne _ _ _ _ _ _ hd, State.touchQuarter, State.modCore_core_ne _ _ _ _ hd]
  · simp only [State.modGroup, State.modBlock, State.touchQuarter, State.modCore_core_same, Core.modBlock]
  · rw [State.modGroup_block_ne _ _ _ _ _ _ hb, State.modGroup_block_ne _ _ _ _ _ _ hb, touched]
  · simp only [State.modGroup, State.modBlock_same, touched, Block.modGroup]
  · rw [State.modGroup_group_ne _ _ _ _ _ _ hg, State.modGroup_group_ne _ _ _ _ _ _ hg, touched]

end Runs

/-! ## The block that a fault ends (R96, R97) -/

@[simp] theorem Block.modGroup_phase (b : Block) (g : Nat) (h : Group → Group) : (b.modGroup g h).phase = b.phase := rfl

/-- The fault of another core's block leaves the core. -/
theorem State.failMember_core_ne (s : State) (team c b first cause x : Nat) (h : c ≠ x) :
    (s.failMember team c b first cause).core x = s.core x := by
  unfold State.failMember
  dsimp only
  split
  · rfl
  · rfl
  · split
    · rfl
    · rw [State.modBlock_core_ne _ _ _ _ _ h.symm]
      rfl

theorem failMembers_core (core team first cause : Nat) (l : List (Nat × Nat)) (s : State) :
    (l.foldl (fun s x => if x.1 = core then s else s.failMember team x.1 x.2 first cause) s).core core = s.core core := by
  induction l generalizing s with
  | nil => rfl
  | cons x l ih =>
    rw [List.foldl_cons, ih]
    split
    · rfl
    · rename_i hx
      exact State.failMember_core_ne _ _ _ _ _ _ _ hx

theorem State.failRun_core (s : State) (q : Nat) (n : BitVec 64) (launch status detail c : Nat) :
    (s.failRun q n launch status detail).core c = s.core c := rfl

/-- R340: a block after the end of the command of queue q and index n: stopped, where it is the command's. -/
def Block.stopFor (q : Nat) (n : BitVec 64) (now : Nat) (b : Block) : Block := if b.queue = q && b.index = n then b.stop now else b

theorem Block.stopFor_of_ending {b : Block} (h : b.phase ≠ .running) (q : Nat) (n : BitVec 64) (now : Nat) : b.stopFor q n now = b := by
  have stays : b.stop now = b := by
    unfold Block.stop
    split
    · contradiction
    · rfl
  rw [Block.stopFor, stays, ite_self]

theorem State.stopBlocks_core (s : State) (q : Nat) (n : BitVec 64) (c : Nat) : (s.stopBlocks q n).core c =
    { s.core c with blocks := (s.core c).blocks.map fun p => (p.1, p.2.stopFor q n (s.coreCycles c)) } :=
  kget_map_of_default (d := ({} : Core))
    (fun c k => { k with blocks := k.blocks.map fun p => (p.1, p.2.stopFor q n (s.coreCycles c)) }) s.cores c rfl

/-- A block that ends already goes on to end as it does, whatever its command's end brings about. -/
theorem State.stopBlocks_ending {s : State} {c b : Nat} {x : Block} (hx : kfind (s.core c).blocks b = some x) (he : x.phase ≠ .running)
    (q : Nat) (n : BitVec 64) : (s.stopBlocks q n).block c b = x := by
  refine kget_of_kfind ?_
  rw [State.stopBlocks_core]
  refine (kfind_map (fun _ y => Block.stopFor q n (s.coreCycles c) y) _ b).trans ?_
  rw [hx, Option.map_some, Block.stopFor_of_ending he]

/-- R97: of what the fault of a block brings about, nothing touches that block once it ends. -/
theorem State.spreadFault_ending {s : State} {c b : Nat} {x : Block} (hx : kfind (s.core c).blocks b = some x) (he : x.phase ≠ .running)
    (y : Block) (cause : Nat) : (s.spreadFault c y cause).block c b = x := by
  unfold State.spreadFault
  dsimp only
  refine State.stopBlocks_ending ?_ he _ _
  rw [State.failRun_core]
  split
  · rw [failMembers_core]
    exact hx
  · exact hx

theorem Block.fail_running {b : Block} (h : b.phase = .running) (cause payload now : Nat) : b.fail cause payload now =
    { b with phase := .terminating (BitVec.ofNat 8 cause) now, fault := some (BitVec.ofNat 320 payload) } := by
  unfold Block.fail
  rw [h]

/-- R96, R97: the block that faults begins to terminate with the cause, and its record is written. -/
theorem State.blockFault_block {s : State} {w : Where} {b : Block} (hb : kfind (s.core w.core).blocks w.block = some b)
    (hr : b.phase = .running) (cause detail : Nat) : (s.blockFault w cause detail).block w.core w.block =
      b.fail cause (blockFaultPayload w b cause detail) (s.coreCycles w.core) := by
  have ending : ∀ p n, (b.fail cause p n).phase ≠ .running := by simp [Block.fail_running hr]
  unfold State.blockFault
  rw [hb]
  simp only [hr, ne_eq, not_true_eq_false, decide_false, Bool.false_eq_true, if_false]
  refine State.spreadFault_ending ?_ (ending _ _) b cause
  rw [State.modBlock, State.modCore_core_same, Core.modBlock, kmod, kget_of_kfind hb]
  exact kfind_kset_same _ _ _

/-- A fault's record names of the block's group where it runs, and nothing that an issue counts (Table 15.4). -/
theorem blockFaultPayload_congr {w : Where} {b : Block} {m : KMap Group} (hq : (Block.group { b with groups := m } w.group).quarter = (b.group w.group).quarter)
    (hs : (Block.group { b with groups := m } w.group).slot = (b.group w.group).slot) (cause detail : Nat) :
    blockFaultPayload w { b with groups := m } cause detail = blockFaultPayload w b cause detail := by
  unfold blockFaultPayload
  dsimp only
  rw [hq, hs]

section FaultAtIssue

variable {s : State} {a : GroupAt} {f : Fields} {i : Issue} (hi : s.issueOf a f = some i)
include hi

theorem State.issued_block : kfind ((s.issued i).core i.at_.core).blocks i.at_.block =
    some (i.block.modGroup i.at_.group fun _ => i.group.noteIssue i.at_.pc i.lanes) := by
  obtain ⟨hc, hb, hg, -, -, hk, -⟩ := State.issueOf_at hi
  rw [State.issued_eq hi, hc, hb, hg]
  simp only [State.modGroup, State.modBlock, State.touchQuarter, State.modCore_core_same, Core.modBlock, kmod, kfind_kset_same,
    kget_of_kfind hk]

theorem State.issued_coreCycles : (s.issued i).coreCycles i.at_.core = s.coreCycles a.core.val := by
  obtain ⟨hc, -, -, -, -, -, -⟩ := State.issueOf_at hi
  rw [State.issued_eq hi, hc]
  simp only [State.coreCycles, State.arithCycles, State.modGroup, State.modBlock, State.touchQuarter, State.modCore_core_same,
    State.modCore_die', Core.modBlock]

theorem blockFaultPayload_issued (cause detail : Nat) :
    blockFaultPayload i.at_ (i.block.modGroup i.at_.group fun _ => i.group.noteIssue i.at_.pc i.lanes) cause detail =
      blockFaultPayload i.at_ i.block cause detail := by
  obtain ⟨-, -, hg, -, -, -, -⟩ := State.issueOf_at hi
  have before : i.group = (i.block.group i.at_.group).prune := by
    rw [State.issueOf_group hi, State.groupAt, State.issueOf_block hi, hg]
  refine blockFaultPayload_congr ?_ ?_ cause detail
  · exact (congrArg Group.quarter (Block.modGroup_same _ _ _)).trans (by rw [Group.noteIssue_quarter, before, Group.prune_quarter])
  · exact (congrArg Group.slot (Block.modGroup_same _ _ _)).trans (by rw [Group.noteIssue_slot, before, Group.prune_slot])

/-- R96: a fault of an instruction at issue, in the state with its issue counted. -/
theorem State.issued_blockFault (cause detail : Nat) : FaultsWith s ((s.issued i).blockFault i.at_ cause detail) a i cause detail := by
  obtain ⟨hc, hb, -, -, -, -, running⟩ := State.issueOf_at hi
  have ends := State.blockFault_block (State.issued_block hi) running cause detail
  rw [blockFaultPayload_issued hi, State.issued_coreCycles hi, Block.fail_running ((Block.modGroup_phase _ _ _).trans running)] at ends
  rw [FaultsWith, ← hc, ← hb, ends, hc]
  exact ⟨rfl, rfl⟩

end FaultAtIssue

/-! ## Control flow (R119, Table 4.5) -/

section Branch

variable (target : Nat → BitVec 64) (g : Group) (i : Issue)

/-- A branch changes the threads alone. -/
theorem branchTo_reg (l r : Nat) : (branchTo target g i).reg l r = g.reg l r := by
  unfold branchTo
  rw [Group.foldl_modThread_only]
  exact Group.advance_reg _ _ _ _

theorem branchTo_pred (l p : Nat) : (branchTo target g i).pred l p = g.pred l p :=
  (Group.pred_congr (Group.foldl_modThread_keeps (fun l t => { t with pc := target l }) Thread.preds (fun _ _ => rfl) i.active _ l) p).trans
    (Group.advance_pred _ _ _ _)

/-- R119: each active thread takes its target, the others of the subset fall through, and the rest of the group stays. -/
theorem branchTo_pc (hn : i.lanes.Nodup) (hs : ∀ l ∈ i.active, l ∈ i.lanes) (l : Nat) : ((branchTo target g i).thread l).pc =
    if l ∈ i.lanes then if l ∈ i.active then target l else (g.thread l).pc + 8 else (g.thread l).pc := by
  unfold branchTo
  rw [Group.foldl_setPc]
  by_cases ha : l ∈ i.active
  · simp [ha, hs l ha]
  · rw [if_neg ha]
    by_cases hl : l ∈ i.lanes
    · rw [Group.advance_same _ _ _ (by simp [hl, ha]) (hn.filter _), if_pos hl, if_neg ha]
    · rw [Group.advance_ne _ _ _ (by simp [hl]), if_neg hl]

end Branch

section LinkPair

variable (f : Fields) (i : Issue) (g : Group)

/-- The return address changes registers alone. -/
theorem linkPair_thread (l : Nat) : (linkPair f i g).thread l = g.thread l :=
  List.foldlRecOn (motive := fun k : Group => k.thread l = g.thread l) i.active _ rfl
    fun k hk x _ => (Group.write_regs_thread k x l _).trans hk

theorem linkPair_pred (l p : Nat) : (linkPair f i g).pred l p = g.pred l p :=
  Group.pred_congr (congrArg Thread.preds (linkPair_thread f i g l)) p

variable (hd : f.dst.toNat + 2 ≤ 256)
include hd

theorem linkPair_reg_ne {l r : Nat} (hr : r < 256) (h : l ∉ i.active ∨ r ∉ regList f.dst 2) : (linkPair f i g).reg l r = g.reg l r :=
  Group.foldl_regWrites_ne hd (fun _ => (i.at_.pc + 8).toNat) i.active g hr h

/-- The DST pair of each active thread holds the return address. -/
theorem linkPair_pair (hn : i.active.Nodup) {l : Nat} (hl : l ∈ i.active) : (linkPair f i g).pair l f.dst.toNat = i.at_.pc + 8 := by
  have written := Group.foldl_regWrites_same hd (fun _ => (i.at_.pc + 8).toNat) i.active g hl hn
  apply BitVec.eq_of_toNat_eq
  rw [Group.pair, linkPair, written, BitVec.toNat_ofNat, Nat.mod_mod, Nat.mod_eq_of_lt (BitVec.isLt _)]

end LinkPair

/-- A legal pair of registers lies in a thread's 256 (R77, R114). -/
theorem regOk_pair_lt {n : Nat} {x : BitVec 8} (h : regOk n x 2 = true) : x.toNat + 2 ≤ 256 := by
  have even : x.toNat % 2 = 0 := by
    rw [regOk, if_neg (by decide), Bool.and_eq_true, decide_eq_true_eq] at h
    exact h.1
  have := x.isLt
  omega

section Targets

variable {f : Fields} {i : Issue}

theorem badTarget_eq_find (f : Fields) (i : Issue) : badTarget f i =
    (i.active.map fun l => i.group.pair l f.src1.toNat).find? fun t => decide (t.toNat % 8 ≠ 0) := rfl

theorem badTarget_eq_none (h : ∀ l ∈ i.active, (i.group.pair l f.src1.toNat).toNat % 8 = 0) : badTarget f i = none := by
  rw [badTarget_eq_find, List.find?_eq_none]
  simpa using h

/-- R119: of several misaligned targets the lowest lane's is the one that faults. -/
theorem badTarget_eq_lowest (hs : i.active.Pairwise (· < ·)) {l : Nat} (hl : l ∈ i.active)
    (hlow : ∀ m ∈ i.active, m < l → (i.group.pair m f.src1.toNat).toNat % 8 = 0) (hbad : (i.group.pair l f.src1.toNat).toNat % 8 ≠ 0) :
    badTarget f i = some (i.group.pair l f.src1.toNat) := by
  obtain ⟨lower, higher, split⟩ := List.append_of_mem hl
  rw [badTarget_eq_find, List.find?_eq_some_iff_append]
  refine ⟨decide_eq_true hbad, lower.map _, higher.map _, by rw [split, List.map_append, List.map_cons], ?_⟩
  intro t ht
  obtain ⟨m, hm, rfl⟩ := List.mem_map.1 ht
  have before : m < l := by
    rw [split] at hs
    exact (List.pairwise_append.1 hs).2.2 m hm l (by simp)
  simp [hlow m (by simp [split, hm]) before]

end Targets

/-! ## What a branch does to the state -/

section Transfers

variable {s : State} {a : GroupAt} {f : Fields} {i : Issue}

/-- The state after an issued instruction whose active threads go to their targets, once prep has changed the group's registers. -/
def State.transferred (s : State) (i : Issue) (target : Nat → BitVec 64) (prep : Group → Group) : State :=
  (s.issued i).modGroup i.at_.core i.at_.block i.at_.group fun g => branchTo target (prep g) i

variable (hi : s.issueOf a f = some i) (target : Nat → BitVec 64) (prep : Group → Group)
include hi

theorem State.transferred_group : (s.transferred i target prep).groupAt a = branchTo target (prep (i.group.noteIssue i.at_.pc i.lanes)) i :=
  State.groupAt_issued_modGroup hi _

theorem State.transferred_groupOnly : GroupOnly s (s.transferred i target prep) a := State.issued_modGroup_groupOnly hi _

variable {prep} in
theorem State.transferred_pcsGo (hp : ∀ g l, (prep g).thread l = g.thread l) :
    PcsGo s (s.transferred i target prep) a i fun l => if l ∈ i.active then target l else i.at_.pc + 8 := by
  intro l
  obtain ⟨hn, -⟩ := State.issueOf_nodup hi
  rw [State.transferred_group hi, branchTo_pc _ _ _ hn (fun _ => State.issueOf_active_subset hi), hp, State.issued_pc hi]
  by_cases hl : l ∈ i.lanes
  · rw [if_pos hl, if_pos hl, State.issueOf_pc hi hl]
  · rw [if_neg hl, if_neg hl]

/-- A branch that writes nothing. -/
theorem State.transferred_id_onlyNamed : OnlyNamed s (s.transferred i target id) a i [] [] := by
  refine ⟨fun l r _ _ => ?_, fun l p _ => ?_⟩
  · rw [State.transferred_group hi, branchTo_reg, id, State.issued_reg hi]
  · rw [State.transferred_group hi, branchTo_pred, id, State.issued_pred hi]

variable (hd : f.dst.toNat + 2 ≤ 256)
include hd

/-- A call writes the DST pair alone. -/
theorem State.transferred_link_onlyNamed : OnlyNamed s (s.transferred i target (linkPair f i)) a i (regList f.dst 2) [] := by
  refine ⟨fun l r hr h => ?_, fun l p _ => ?_⟩
  · rw [State.transferred_group hi, branchTo_reg, linkPair_reg_ne _ _ _ hd hr h, State.issued_reg hi]
  · rw [State.transferred_group hi, branchTo_pred, linkPair_pred, State.issued_pred hi]

theorem State.transferred_link_pair {l : Nat} (hl : l ∈ i.active) :
    ((s.transferred i target (linkPair f i)).groupAt a).pair l f.dst.toNat = i.at_.pc + 8 := by
  obtain ⟨-, hn⟩ := State.issueOf_nodup hi
  rw [State.transferred_group hi, Group.pair_congr (branchTo_reg _ _ _ _), linkPair_pair _ _ _ hd hn hl]

end Transfers

/-! ## Jumps to registers -/

section Jumps

/-- The state after an issued jump to the SRC1 pairs: the fault of a misaligned one, or the active threads at theirs. -/
def State.jumped (s : State) (f : Fields) (i : Issue) (prep : Group → Group) : State :=
  (badTarget f i).elim (s.transferred i (fun l => i.group.pair l f.src1.toNat) prep) fun t => (s.issued i).blockFault i.at_ 0x07 t.toNat

variable {s : State} {a : GroupAt} {f : Fields} {i : Issue} {prep : Group → Group}

theorem State.jumped_aligned (h : ∀ l ∈ i.active, (i.group.pair l f.src1.toNat).toNat % 8 = 0) :
    s.jumped f i prep = s.transferred i (fun l => i.group.pair l f.src1.toNat) prep := by
  rw [State.jumped, badTarget_eq_none h, Option.elim_none]

theorem State.jumped_misaligned (hi : s.issueOf a f = some i) {l : Nat} (hl : l ∈ i.active)
    (hlow : ∀ m ∈ i.active, m < l → (i.group.pair m f.src1.toNat).toNat % 8 = 0) (hbad : (i.group.pair l f.src1.toNat).toNat % 8 ≠ 0) :
    FaultsWith s (s.jumped f i prep) a i 0x07 (i.group.pair l f.src1.toNat).toNat := by
  rw [State.jumped, badTarget_eq_lowest (State.issueOf_active_sorted hi) hl hlow hbad, Option.elim_some]
  exact State.issued_blockFault hi _ _

/-- The targets are the same before and after the issue is counted. -/
theorem Group.noteIssue_pair (g : Group) (pc : BitVec 64) (ls : List Nat) (l r : Nat) : (g.noteIssue pc ls).pair l r = g.pair l r :=
  Group.pair_congr (Group.noteIssue_reg _ _ _ _) r

theorem badTarget_noteIssue (f : Fields) (i : Issue) (pc : BitVec 64) (ls : List Nat) :
    badTarget f { i with group := i.group.noteIssue pc ls } = badTarget f i := by
  simp only [badTarget_eq_find, Group.noteIssue_pair]

end Jumps

/-! ## The four instructions, ready -/

section Ready

variable {s : State} {a : GroupAt} {f : Fields} {i : Issue}

theorem exec_bra_ready (h : Ready s a f (fun _ => f.dst = 0 && f.src1 = 0) [] i) :
    exec (.bra a f) s = .next (s.transferred i (fun _ => relTarget i.at_.pc f) id) := by
  show execBra a f s = _
  rw [execBra, State.issue_ready h]
  rfl

theorem exec_call_ready (h : Ready s a f (fun n => regOk n f.dst 2 && f.src1 = 0) (regList f.dst 2) i) :
    exec (.call a f) s = .next (s.transferred i (fun _ => relTarget i.at_.pc f) (linkPair f i)) := by
  show execCall a f s = _
  rw [execCall, State.issue_ready h]
  rfl

theorem exec_jmp_ready
    (h : Ready s a f (fun n => f.dst = 0 && regOk n f.src1 2 && f.src2 = 0 && f.src3 = 0 && f.mod = 0) (regList f.src1 2) i) :
    exec (.jmp a f) s = .next (s.jumped f i id) := by
  show execJmp a f s = _
  rw [execJmp, State.issue_ready h]
  simp only [badTarget_noteIssue, Group.noteIssue_pair, State.jumped]
  cases badTarget f i <;> rfl

theorem exec_callr_ready
    (h : Ready s a f (fun n => regOk n f.dst 2 && regOk n f.src1 2 && f.src2 = 0 && f.src3 = 0 && f.mod = 0)
      (regList f.dst 2 ++ regList f.src1 2) i) :
    exec (.callr a f) s = .next (s.jumped f i (linkPair f i)) := by
  show execCallr a f s = _
  rw [execCallr, State.issue_ready h]
  simp only [badTarget_noteIssue, Group.noteIssue_pair, State.jumped]
  cases badTarget f i <;> rfl

end Ready

end Sys2Proof.Machine

section

open Sys2Proof Sys2Proof.Machine

/-- Settles O8: a ready branch is its issue counted and `State.transferred`, a jump to registers `State.jumped`; what these change is
proved once for all four instructions. -/
theorem controlFlowTakesItsTargets : Obligations.ControlFlowTakesItsTargets := by
  unfold Obligations.ControlFlowTakesItsTargets
  refine ⟨fun a f s i h => ?bra, fun a f s i h => ?call, fun a f s i h => ?jmp, fun a f s i h => ?callr⟩
  case bra =>
    have hi := h.issueOf
    exact ⟨_, exec_bra_ready h, State.transferred_pcsGo hi _ fun _ _ => rfl, State.transferred_id_onlyNamed hi _,
      State.transferred_groupOnly hi _ _⟩
  case call =>
    have hi := h.issueOf
    have hd := regOk_pair_lt (Bool.and_eq_true_iff.1 h.legal_alloc).1
    exact ⟨_, exec_call_ready h, State.transferred_pcsGo hi _ (linkPair_thread f i), fun _ => State.transferred_link_pair hi _ hd,
      State.transferred_link_onlyNamed hi _ hd, State.transferred_groupOnly hi _ _⟩
  case jmp =>
    have hi := h.issueOf
    refine ⟨fun aligned => ?_, fun l hl hlow hbad => ⟨_, exec_jmp_ready h, State.jumped_misaligned hi hl hlow hbad⟩⟩
    rw [exec_jmp_ready h, State.jumped_aligned aligned]
    exact ⟨_, rfl, State.transferred_pcsGo hi _ fun _ _ => rfl, State.transferred_id_onlyNamed hi _, State.transferred_groupOnly hi _ _⟩
  case callr =>
    have hi := h.issueOf
    have legal := h.legal_alloc
    simp only [Bool.and_eq_true] at legal
    obtain ⟨⟨⟨⟨dst_ok, -⟩, -⟩, -⟩, -⟩ := legal
    have hd := regOk_pair_lt dst_ok
    refine ⟨fun aligned => ?_, fun l hl hlow hbad => ⟨_, exec_callr_ready h, State.jumped_misaligned hi hl hlow hbad⟩⟩
    rw [exec_callr_ready h, State.jumped_aligned aligned]
    exact ⟨_, rfl, State.transferred_pcsGo hi _ (linkPair_thread f i), fun _ => State.transferred_link_pair hi _ hd,
      State.transferred_link_onlyNamed hi _ hd, State.transferred_groupOnly hi _ _⟩

end

/-! SUPPORT. Instructions whose effect is what each active thread writes (R115, R116): the state after one, the rule by which one that
writes the registers of a value meets `WritesRegs`, and that rule for the instructions of INT on operands of ITYPE. -/

namespace Sys2Proof.Machine

/-! ## What writes of registers and predicates keep of the threads -/

theorem Group.setPred_pc (g : Group) (l p x : Nat) (v : Bool) : ((g.setPred l p v).thread x).pc = (g.thread x).pc := by
  unfold Group.setPred
  split
  · rfl
  · by_cases hx : x = l
    · rw [hx, Group.modThread_same]
    · rw [Group.modThread_ne _ _ _ _ hx]

theorem Group.write_pc (g : Group) (l x : Nat) (w : Writes) : ((g.write l w).thread x).pc = (g.thread x).pc :=
  (List.foldlRecOn (motive := fun k : Group => (k.thread x).pc = _) w.preds _ rfl
    fun _ hk p _ => (Group.setPred_pc _ l p.1 x p.2).trans hk).trans
    (congrArg Thread.pc (Group.write_regs_thread g l x w.regs))

theorem Group.foldl_write_pc (w : Nat → Writes) (ls : List Nat) (g : Group) (x : Nat) :
    ((ls.foldl (fun g l => g.write l (w l)) g).thread x).pc = (g.thread x).pc :=
  List.foldlRecOn (motive := fun k : Group => (k.thread x).pc = (g.thread x).pc) ls _ rfl
    fun k hk l _ => (Group.write_pc k l x (w l)).trans hk

/-- Writes of registers alone, by several threads, leave the threads. -/
theorem Group.foldl_write_regs_thread (rs : Nat → List (Nat × BitVec 32)) (ls : List Nat) (g : Group) (x : Nat) :
    (ls.foldl (fun g l => g.write l { regs := rs l }) g).thread x = g.thread x :=
  List.foldlRecOn (motive := fun k : Group => k.thread x = g.thread x) ls _ rfl
    fun k hk l _ => (Group.write_regs_thread k l x (rs l)).trans hk

/-! ## The state after each active thread has written -/

section Written

/-- The state after an issued instruction whose active threads write w. -/
def State.written (s : State) (i : Issue) (w : Nat → Writes) : State :=
  (s.issued i).modGroup i.at_.core i.at_.block i.at_.group fun _ =>
    (i.active.foldl (fun g l => g.write l (w l)) (i.group.noteIssue i.at_.pc i.lanes)).advance i.lanes

variable {s : State} {a : GroupAt} {f : Fields} {i : Issue}

theorem State.vector_ready {legal : Nat → Bool} {uses : List Nat} (h : Ready s a f legal uses i) (cls op : Nat)
    (fn : Group → Nat → Writes) (rd : Nat) : s.vector a cls op f legal uses fn rd =
      .next (s.written i (fn (i.group.noteIssue i.at_.pc i.lanes))) :=
  State.issue_ready h cls op (perThread fn) rd

variable (hi : s.issueOf a f = some i)
include hi

theorem State.written_groupOnly (w : Nat → Writes) : GroupOnly s (s.written i w) a := State.issued_modGroup_groupOnly hi _

theorem State.written_group (w : Nat → Writes) : (s.written i w).groupAt a =
    (i.active.foldl (fun g l => g.write l (w l)) (i.group.noteIssue i.at_.pc i.lanes)).advance i.lanes :=
  State.groupAt_issued_modGroup hi _

theorem State.written_pcsGo (w : Nat → Writes) : PcsGo s (s.written i w) a i fun _ => i.at_.pc + 8 := by
  intro l
  rw [State.written_group hi]
  by_cases hl : l ∈ i.lanes
  · rw [Group.advance_same _ _ _ hl (State.issueOf_nodup hi).1, Group.foldl_write_pc, State.issued_pc hi, State.issueOf_pc hi hl,
      if_pos hl]
  · rw [Group.advance_ne _ _ _ hl, Group.foldl_write_pc, State.issued_pc hi, if_neg hl]

variable {d : BitVec 8} {n : Nat} (hd : d.toNat + n ≤ 256) (v : Nat → Nat)
include hd

theorem State.written_regs_onlyNamed : OnlyNamed s (s.written i fun l => { regs := regWrites d n (v l) }) a i (regList d n) [] := by
  refine ⟨fun l r hr h => ?_, fun l p _ => ?_⟩
  · rw [State.written_group hi, Group.advance_reg, Group.foldl_regWrites_ne hd v _ _ hr h, State.issued_reg hi]
  · rw [State.written_group hi, Group.advance_pred, Group.pred_congr (congrArg Thread.preds (Group.foldl_write_regs_thread _ _ _ l)), State.issued_pred hi]

/-- Each active thread's registers hold its value, at their width. -/
theorem State.written_regs {l : Nat} (hl : l ∈ i.active) :
    ((s.written i fun l => { regs := regWrites d n (v l) }).groupAt a).regs' l d.toNat n = v l % 2 ^ (32 * n) := by
  rw [State.written_group hi, Group.regs'_congr fun _ _ => Group.advance_reg _ _ _ _]
  exact Group.foldl_regWrites_same hd v i.active _ hl (State.issueOf_nodup hi).2

end Written

/-- An instruction that is `State.vector` of the registers of a value, within a thread's 256, writes that value. -/
theorem writesRegs_of_vector {c : GroupAt → Fields → Instr} {legal : Fields → Nat → Bool} {uses : Fields → List Nat} {n rd : Fields → Nat}
    {v : State → Issue → Fields → Nat → Nat} {cls op : Nat} {fn : Fields → Group → Nat → Writes}
    (runs : ∀ a f s, exec (c a f) s = s.vector a cls op f (legal f) (uses f) (fn f) (rd f))
    (fits : ∀ f m, legal f m = true → f.dst.toNat + n f ≤ 256)
    (writes : ∀ s i f l, fn f (i.group.noteIssue i.at_.pc i.lanes) l = { regs := regWrites f.dst (n f) (v s i f l) }) :
    WritesRegs c legal uses n v := by
  intro a f s i h
  have hi := h.issueOf
  have hd := fits f _ h.legal_alloc
  refine ⟨s.written i fun l => { regs := regWrites f.dst (n f) (v s i f l) }, ?_, fun l hl => State.written_regs hi hd _ hl,
    State.written_regs_onlyNamed hi hd _, State.written_pcsGo hi _, State.written_groupOnly hi _⟩
  rw [runs, State.vector_ready h, funext fun l => writes s i f l]

/-! ## Operands of an integer code (R114, R116, R120) -/

/-- A legal register operand, aligned to its width, lies in a thread's 256 registers. -/
theorem regOk_fits {m w : Nat} {x : BitVec 8} (hw : w ∣ 256) (h : regOk m x w = true) : x.toNat + w ≤ 256 := by
  have positive : w ≠ 0 := by rintro rfl; simp at hw
  rw [regOk, if_neg positive, Bool.and_eq_true, decide_eq_true_eq] at h
  obtain ⟨q, hq⟩ := Nat.dvd_of_mod_eq_zero h.1
  obtain ⟨p, hp⟩ := hw
  have below : w * q < w * p := by rw [← hq, ← hp]; exact x.isLt
  rw [hq, hp, ← Nat.mul_succ]
  exact Nat.mul_le_mul_left w (Nat.lt_of_mul_lt_mul_left below)

theorem intRegs_dvd (k : Nat) : intRegs k ∣ 256 := by
  unfold intRegs
  split <;> decide

theorem intLegal_dst_fits {f : Fields} {md : IntMod} {n m : Nat} (h : intLegal f md n m = true) :
    f.dst.toNat + intRegs f.itype ≤ 256 := by
  simp only [intLegal, Bool.and_eq_true] at h
  obtain ⟨⟨⟨⟨-, dst_ok⟩, -⟩, -⟩, -⟩ := h
  exact regOk_fits (intRegs_dvd _) dst_ok

@[simp] theorem Group.noteIssue_intOp (g : Group) (pc : BitVec 64) (ls : List Nat) (l : Nat) (r : BitVec 8) (k : Nat) :
    (g.noteIssue pc ls).intOp l r k = g.intOp l r k := by
  unfold Group.intOp
  rw [Group.regs'_congr fun _ _ => Group.noteIssue_reg _ _ _ _ _]

/-! ## The shapes of INT (R145, Table 4.6) -/

/-- One source: fn of it, at ITYPE's width. -/
theorem int1_writesRegs {c : GroupAt → Fields → Instr} {op : Nat} {fn : Nat → Nat → Nat} (v : Fields → Nat → Nat)
    (runs : ∀ a f s, exec (c a f) s = int1 op fn a f s) (value : ∀ f x, fn f.itype x = v f x) :
    WritesRegs c (fun f => intLegal f .plain 1) (fun f => intUses f 1) (fun f => intRegs f.itype) fun _ i f l =>
      intFill f (v f (i.group.intOp l f.src1 f.itype)) := by
  refine writesRegs_of_vector runs (fun f m => intLegal_dst_fits) fun s i f l => ?_
  rw [Group.noteIssue_intOp, value]
  rfl

/-- Two sources: fn of their exact values, narrowed once. -/
theorem int2_writesRegs {c : GroupAt → Fields → Instr} {op : Nat} {md : IntMod} {fn : Nat → Int → Int → Int}
    (v : Fields → Int → Int → Int) (runs : ∀ a f s, exec (c a f) s = int2 op md fn a f s)
    (value : ∀ f x y, fn f.itype x y = v f x y) :
    WritesRegs c (fun f => intLegal f md 2) (fun f => intUses f 2) (fun f => intRegs f.itype) fun _ i f l =>
      intFill f (narrow f.itype (decide (md = .sat) && f.sat) (v f (intSrc i f l 1) (intSrc i f l 2))) := by
  refine writesRegs_of_vector runs (fun f m => intLegal_dst_fits) fun s i f l => ?_
  rw [Group.noteIssue_intOp, Group.noteIssue_intOp, value]
  rfl

/-- R145: IMAD adds SRC3 to the low half of the product, read with the code's sign. -/
theorem imad_writesRegs : WritesRegs .imad (fun f => intLegal f .sat 3) (fun f => intUses f 3) (fun f => intRegs f.itype) fun _ i f l =>
    intFill f (narrow f.itype f.sat
      (intVal f.itype (wrap (intSrc i f l 1 * intSrc i f l 2) (intWidth f.itype)) + intSrc i f l 3)) := by
  refine writesRegs_of_vector (fun _ _ _ => rfl) (fun f m => intLegal_dst_fits) fun s i f l => ?_
  simp only [Group.noteIssue_intOp]
  rfl

/-- IMIN's choice, and IMAX's, are the minimum and the maximum of the exact values. -/
theorem ite_eq_min (x y : Int) : (if y < x then y else x) = min x y := by
  split <;> omega

theorem ite_eq_max (x y : Int) : (if x < y then y else x) = max x y := by
  split <;> omega

/-- R145: IMULHI's high half of the exact product, its divisor an exact value. -/
theorem mulHigh_eq (k : Nat) (x y : Int) : mulHigh k x y = x * y / 2 ^ intWidth k :=
  congrArg (x * y / ·) (Int.natCast_pow 2 _)

end Sys2Proof.Machine

section

open Sys2Proof Sys2Proof.Machine

/-- Settles O2: each instruction is one of the shapes `int1`, `int2` and IMAD, which write their value's registers and nothing else; what
is left of each is that the model's operation on exact values is the statement's. -/
theorem integerArithmeticWritesItsResult : Obligations.IntegerArithmeticWritesItsResult := by
  unfold Obligations.IntegerArithmeticWritesItsResult
  intro two one
  exact ⟨int2_writesRegs (fun _ x y => x + y) (fun a f s => show execIadd a f s = _ from rfl) fun _ _ _ => rfl,
    int2_writesRegs (fun _ x y => x - y) (fun a f s => show execIsub a f s = _ from rfl) fun _ _ _ => rfl,
    int2_writesRegs (fun _ x y => x * y) (fun a f s => show execImul a f s = _ from rfl) fun _ _ _ => rfl,
    int2_writesRegs (fun f x y => x * y / 2 ^ intWidth f.itype) (fun a f s => show execImulhi a f s = _ from rfl)
      fun f => mulHigh_eq f.itype,
    int2_writesRegs (fun _ x y => min x y) (fun a f s => show execImin a f s = _ from rfl) fun _ => ite_eq_min,
    int2_writesRegs (fun _ x y => max x y) (fun a f s => show execImax a f s = _ from rfl) fun _ => ite_eq_max,
    imad_writesRegs,
    int1_writesRegs (fun f x => wrap (intVal f.itype x).natAbs (intWidth f.itype))
      (fun a f s => show execIabs a f s = _ from rfl) fun _ _ => rfl,
    int1_writesRegs (fun _ x => x) (fun a f s => show execMov a f s = _ from rfl) fun _ _ => rfl,
    int1_writesRegs (fun f x => countOnes (intWidth f.itype) x) (fun a f s => show execPopc a f s = _ from rfl) fun _ _ => rfl,
    int1_writesRegs (fun f x => leadingZeros (intWidth f.itype) x) (fun a f s => show execClz a f s = _ from rfl) fun _ _ => rfl,
    int1_writesRegs (fun f x => bitReverse (intWidth f.itype) x) (fun a f s => show execBrev a f s = _ from rfl) fun _ _ => rfl⟩

end

/-! SUPPORT. A refused renewal of the lease (R407), and what `kdel` leaves of a table that is not canonical. -/

namespace Sys2Proof.Machine

/-- A key listed twice outlives its deletion: `kdel` takes only the first entry, since a canonical table (`kwf`) has no second. -/
theorem kfind_kdel_of_twice {α : Type} (m : KMap α) (k : Nat) (v u : α) : kfind (kdel ((k, v) :: (k, u) :: m) k) k = some u := by
  simp only [kdel, kfind, if_true]

@[simp] theorem State.fenceWarden_held (s : State) (w : Nat) : (s.fenceWarden w).boot.held = kdel s.boot.held w := rfl

/-- R407: the renewal of an active warden that does not hold the lease is refused, and it fences itself. -/
theorem exec_leaseRenew_of_not_holder {s : State} {w : Fin 2} (e : BitVec 32) (active : kget 0 s.boot.wardens w.val = (3 : BitVec 3))
    (other : w.val ≠ s.velvet.holder) : exec (.leaseRenew w e) s = .next (s.fenceWarden w) := by
  show execLeaseRenew w e s = _
  rw [execLeaseRenew, if_neg (not_not_intro active)]
  simp [other]

end Sys2Proof.Machine

section

open Sys2Proof Sys2Proof.Machine

/-- Refutes O54, in its clause on a refused renewal (R407): the warden then holds no EPOCH, `kfind t.boot.held w = none`, which the
statement claims of every state and not only of those whose tables are canonical (`kwf`). Where `held` lists warden 0 twice, which `kwf`
excludes, the fencing of the warden deletes the first entry and leaves the second. -/
theorem not_wardensAndRecoveryFollowTheirEvents : ¬ Obligations.WardensAndRecoveryFollowTheirEvents := by
  unfold Obligations.WardensAndRecoveryFollowTheirEvents
  rintro ⟨leases, -⟩
  obtain ⟨-, refused, -⟩ := leases 0 0 { boot := { wardens := [(0, 3)], held := [(0, 0), (0, 0)] }, velvet := { holder := 1 } } rfl
  obtain ⟨t, renewed, -, -, forgotten, -⟩ := refused (by simp) (by simp)
  rw [exec_leaseRenew_of_not_holder 0 rfl (by simp)] at renewed
  cases renewed
  have kept : kfind (kdel [(0, 0), (0, 0)] 0) 0 = some (0 : BitVec 32) := kfind_kdel_of_twice [] 0 0 0
  rw [State.fenceWarden_held] at forgotten
  exact absurd (kept.symm.trans forgotten) (by simp)

end

/-! SUPPORT. Error records (R441 to R451): the bytes of one, the ring whose slot it takes, and what it does to the handling windows. -/

namespace Sys2Proof.Machine

theorem kfind_kset_ne {α : Type} (m : KMap α) {k k' : Nat} (v : α) (h : k' ≠ k) : kfind (kset m k v) k' = kfind m k' := by
  induction m with
  | nil => simp [kset, kfind, h]
  | cons p m ih =>
    obtain ⟨j, w⟩ := p
    simp only [kset]
    split
    · simp [kfind, h]
    · split
      · rename_i same
        subst same
        simp [kfind, h]
      · simp [kfind, ih]

/-! ## The bytes of a record (Table 15.1) -/

/-- A bit of a field of v. -/
theorem bit_add_eq_testBit_fld {n : Nat} (v : BitVec n) (lo : Nat) {len i : Nat} (hi : i < len) :
    bit v (lo + i) = (fld v lo len).testBit i := by
  rw [bit, fld, fldN, Nat.testBit_mod_two_pow, Nat.testBit_shiftRight, BitVec.testBit_toNat, decide_eq_true hi, Bool.true_and]

theorem Rec.bytes_toNat (c : Rec) (seq time : Nat) (spilled : Bool) : (c.bytes seq time spilled).toNat =
    seq % 2 ^ 64 + 2 ^ 64 * (time % 2 ^ 64 + 2 ^ 64 * (c.typ % 2 ^ 8 + 2 ^ 8 * (c.cls % 2 ^ 8 + 2 ^ 8 * (c.source % 2 ^ 8 + 2 ^ 8 *
      ((c.flags ||| if spilled then 4 else 0) % 2 ^ 8 + 2 ^ 8 * (c.unit % 2 ^ 32 + 2 ^ 32 * (c.payload % 2 ^ 320))))))) := by
  simp only [Rec.bytes, pack, BitVec.toNat_ofNat]
  omega

theorem Rec.bytes_seq (c : Rec) {seq : Nat} (time : Nat) (spilled : Bool) (h : seq < 2 ^ 64) : fld (c.bytes seq time spilled) 0 64 = seq := by
  rw [fld, Rec.bytes_toNat, fldN, Nat.shiftRight_zero]
  omega

theorem Rec.bytes_typ (c : Rec) (seq time : Nat) (spilled : Bool) : fld (c.bytes seq time spilled) 128 8 = c.typ % 256 := by
  rw [fld, Rec.bytes_toNat, fldN, Nat.shiftRight_eq_div_pow]
  omega

theorem Rec.bytes_flags (c : Rec) (seq time : Nat) (spilled : Bool) :
    fld (c.bytes seq time spilled) 152 8 = (c.flags ||| if spilled then 4 else 0) % 256 := by
  rw [fld, Rec.bytes_toNat, fldN, Nat.shiftRight_eq_div_pow]
  omega

/-- Table 15.1: SPILLED is bit 2 of the flags, clear in a record that comes with no flag but those below it. -/
theorem Rec.bytes_spilled (c : Rec) (seq time : Nat) (spilled : Bool) (h : c.flags < 4) : bit (c.bytes seq time spilled) 154 = spilled := by
  have clear : c.flags.testBit 2 = false := Nat.testBit_lt_two_pow h
  rw [bit_add_eq_testBit_fld _ 152 (len := 8) (i := 2) (by decide), Rec.bytes_flags, show 256 = 2 ^ 8 from rfl, Nat.testBit_mod_two_pow,
    Nat.testBit_or, clear]
  cases spilled <;> rfl

/-! ## The ring that takes a record (R446) -/

theorem ErrRing.readIdx_eq_min (e : ErrRing) : e.readIdx = min e.read.toNat e.write.toNat := by
  unfold ErrRing.readIdx
  split <;> omega

/-- The records that a ring still holds: WRITE - READ (R445). -/
def ErrRing.used (e : ErrRing) : Nat := e.write.toNat - min e.read.toNat e.write.toNat

/-- R446: ring x has room for a record of class cls. -/
def State.HasRoom (s : State) (x cls : Nat) : Prop :=
  cls ≤ 2 ∧ (s.errs x).used < ringSize x - 4 ∨ 3 ≤ cls ∧ (s.errs x).used < ringSize x

theorem State.ringAccepts_iff (s : State) (x cls : Nat) : s.ringAccepts x cls = true ↔ s.HasRoom x cls := by
  simp only [State.ringAccepts, State.HasRoom, ErrRing.readIdx_eq_min, ErrRing.used]
  split <;> rw [decide_eq_true_eq] <;> omega

/-- The ring that takes a record of class cls which arose in ring r. -/
def State.recordPlace (s : State) (r cls : Nat) : Option Nat :=
  if s.ringAccepts r cls then some r else if r ≠ 12 && s.ringAccepts 12 cls then some 12 else none

/-- The TIME of a record of ring r. -/
def State.recordTime (s : State) (r : Nat) : Nat := if r = 12 then s.hub.time.toNat else (s.die r).time.toNat

/-- What the loss of a record does to the ring where it arose. -/
def ErrRing.lose (e : ErrRing) : ErrRing :=
  { e with overflow := e.overflow + 1, seq := e.seq + 1, grave := decide (e.seq ≠ e.acked) && e.grave }

theorem State.recordPlace_own {s : State} {r cls : Nat} (h : s.HasRoom r cls) : s.recordPlace r cls = some r := by
  rw [State.recordPlace, if_pos ((s.ringAccepts_iff r cls).2 h)]

theorem State.recordPlace_package {s : State} {r cls : Nat} (closed : ¬ s.HasRoom r cls) (die : r ≠ 12) (h : s.HasRoom 12 cls) :
    s.recordPlace r cls = some 12 := by
  rw [State.recordPlace, if_neg (mt (s.ringAccepts_iff r cls).1 closed), if_pos (by simp [die, (s.ringAccepts_iff 12 cls).2 h])]

theorem State.recordPlace_none {s : State} {r cls : Nat} (closed : ¬ s.HasRoom r cls) (full : ¬ s.HasRoom 12 cls) :
    s.recordPlace r cls = none := by
  rw [State.recordPlace, if_neg (mt (s.ringAccepts_iff r cls).1 closed), if_neg (by simp [mt (s.ringAccepts_iff 12 cls).1 full])]

/-! ## What a record leaves of the rings and of the hub -/

@[simp] theorem State.outbox_errs (s : State) (typ source status detail x : Nat) :
    (s.outbox typ source status detail).errs x = s.errs x := by
  rw [State.outbox_only]
  rfl

@[simp] theorem State.outbox_hub (s : State) (typ source status detail : Nat) : (s.outbox typ source status detail).hub = s.hub := by
  rw [State.outbox_only]

@[simp] theorem State.alertErrors_errs (s : State) (x : Nat) : s.alertErrors.errs x = s.errs x := rfl

/-- A record that ring p takes: the rings are those of the record put there. -/
theorem State.recordAt_errs_of_recordPlace {s : State} {r p : Nat} {c : Rec} (h : s.recordPlace r c.cls = some p) (x : Nat) :
    (s.recordAt r c).1.errs x = (s.putRecord p c (s.recordTime r) (decide (p ≠ r))).errs x := by
  rw [State.recordPlace] at h
  simp only [State.recordAt, h, State.alertErrors_errs]
  split
  · rw [State.outbox_errs, State.recordTime]
  · rw [State.recordTime]

theorem State.recordAt_of_lost {s : State} {r : Nat} {c : Rec} (h : s.recordPlace r c.cls = none) :
    (s.recordAt r c).1 = s.modErrs r ErrRing.lose := by
  rw [State.recordPlace] at h
  simp only [State.recordAt, h]
  rfl

theorem State.modErrs_hub (s : State) (r : Nat) (f : ErrRing → ErrRing) :
    (s.modErrs r f).hub = { s.hub with errs := (s.modErrs r f).hub.errs } :=
  congrArg State.hub (s.modErrs_only r f)

/-- Of the hub, a record changes the package's ring and ALERT_N alone. -/
theorem State.recordAt_hub (s : State) (r : Nat) (c : Rec) :
    (s.recordAt r c).1.hub = { s.hub with errs := (s.recordAt r c).1.hub.errs, alert := (s.recordAt r c).1.hub.alert } := by
  cases h : s.recordPlace r c.cls with
  | none =>
    rw [State.recordAt_of_lost h, State.modErrs_hub]
  | some p =>
    rw [State.recordPlace] at h
    simp only [State.recordAt, h, State.putRecord]
    rw [State.alertErrors_only]
    split
    · rw [State.outbox_hub, State.modErrs_hub]
    · rw [State.modErrs_hub]

@[simp] theorem State.recordAt_windows (s : State) (r : Nat) (c : Rec) : (s.recordAt r c).1.hub.windows = s.hub.windows := by
  rw [State.recordAt_hub]

@[simp] theorem State.recordAt_actions (s : State) (r : Nat) (c : Rec) : (s.recordAt r c).1.hub.actions = s.hub.actions := by
  rw [State.recordAt_hub]

@[simp] theorem State.recordAt_ticks (s : State) (r : Nat) (c : Rec) : (s.recordAt r c).1.ticks = s.ticks := by
  rw [State.recordAt_only]

/-! ## The slot that a record takes (R442, R445) -/

/-- t holds the record c in the next slot of s's ring x, SPILLED as told, and has every other slot and ring as s has it. -/
def State.Enters (s t : State) (x : Nat) (c : Rec) (spilled : Bool) : Prop :=
  (t.errs x).write = (s.errs x).write + 1 ∧
  (∃ v, kfind (t.errs x).recs ((s.errs x).write.toNat % ringSize x) = some v ∧ fld v 0 64 = (s.errs x).write.toNat ∧
    fld v 128 8 = c.typ % 256 ∧ (c.flags < 4 → bit v 154 = spilled)) ∧
  (∀ i, i ≠ (s.errs x).write.toNat % ringSize x → kfind (t.errs x).recs i = kfind (s.errs x).recs i) ∧
  (t.errs x).seq = (if 2 ≤ c.cls then (s.errs x).seq + 1 else (s.errs x).seq) ∧ (t.errs x).overflow = (s.errs x).overflow ∧
  ∀ y, y < 13 → y ≠ x → t.errs y = s.errs y

theorem State.enters_of_errs_eq {s t : State} {x time : Nat} {c : Rec} {spilled : Bool}
    (h : ∀ y, t.errs y = (s.putRecord x c time spilled).errs y) : s.Enters t x c spilled := by
  have ring := (h x).trans (s.modErrs_same x _)
  refine ⟨by rw [ring], ?_, fun i hi => ?_, by rw [ring], by rw [ring], fun y _ hy => (h y).trans (s.modErrs_ne x y _ hy)⟩
  · rw [ring]
    exact ⟨_, kfind_kset_same _ _ _, Rec.bytes_seq _ _ _ (s.errs x).write.isLt, Rec.bytes_typ _ _ _ _, Rec.bytes_spilled _ _ _ _⟩
  · rw [ring]
    exact kfind_kset_ne _ _ hi

/-- A record enters the ring that takes it, SPILLED where that is not its own. -/
theorem State.recordAt_enters {s : State} {r p : Nat} {c : Rec} (h : s.recordPlace r c.cls = some p) :
    s.Enters (s.recordAt r c).1 p c (decide (p ≠ r)) :=
  State.enters_of_errs_eq (State.recordAt_errs_of_recordPlace h)

/-! ## The handling windows (R450, R451) -/

/-- The records that open a window, or call for the fence action of the unit whose window is open: a BLOCK_FAULT does not. -/
def Rec.Handled (c : Rec) : Prop := (c.cls = 2 ∨ c.cls = 3) ∧ c.typ ≠ 0x01

/-- The window that the record c opens in s. -/
def State.windowFor (s : State) (r : Nat) (c : Rec) : Handling :=
  { unit := BitVec.ofNat 32 c.unit, source := c.source, typ := c.typ, row := c.row, opened := s.ticks
    ring := ((s.recordAt r c).2.getD (r, 0)).1, seq := BitVec.ofNat 64 ((s.recordAt r c).2.getD (r, 0)).2 }

section

variable {s : State} {r : Nat} {c : Rec}

theorem State.record_of_unhandled (h : ¬ c.Handled) : s.record r c = (s.recordAt r c).1 := by
  rw [State.record, if_neg (by simpa [Rec.Handled] using h)]

theorem State.record_of_new (h : c.Handled) (closed : s.windowOf c.unit c.source = none) :
    s.record r c = (s.recordAt r c).1.modHub fun k => { k with windows := k.windows ++ [s.windowFor r c] } := by
  rw [State.record, if_pos (by simpa [Rec.Handled] using h), closed]
  simp only [State.recordAt_ticks, State.windowFor]

theorem State.record_of_open {w : Handling} (h : c.Handled) (opened : s.windowOf c.unit c.source = some w) :
    s.record r c = (s.recordAt r { c with flags := c.flags ||| 1 }).1.modHub fun k =>
      { k with actions := k.actions ++ [(c.source, c.unit)]
               nestedRows := k.nestedRows ++ c.row.toList.map fun x => (c.source, c.unit, x) } := by
  rw [State.record, if_pos (by simpa [Rec.Handled] using h), opened]

end

end Sys2Proof.Machine

section

open Sys2Proof Sys2Proof.Machine

/-- Settles O58: a record's own ring, the package's or none takes it (`State.recordPlace`), and its ring is then as `State.Enters` says; the
windows change only after it is written, by what `State.record` does to a unit with a window and to one without. -/
theorem recordsEnterTheirRingAndOpenWindows : Obligations.RecordsEnterTheirRingAndOpenWindows := by
  unfold Obligations.RecordsEnterTheirRingAndOpenWindows
  intro s r c _ slots used room enters
  refine ⟨fun own => ?_, fun closed die package => ?_, fun closed full t ht => ?_, fun cls typ unit => ⟨fun new => ?_, fun w opened => ?_⟩,
    fun other => ?_⟩
  · have entered := State.recordAt_enters (State.recordPlace_own own)
    rwa [decide_eq_false (not_not_intro rfl)] at entered
  · have entered := State.recordAt_enters (State.recordPlace_package closed die package)
    rwa [decide_eq_true (Ne.symm die)] at entered
  · rw [ht, State.recordAt_of_lost (State.recordPlace_none closed full), State.modErrs_same]
    exact ⟨rfl, rfl, rfl, rfl, fun y _ hy => State.modErrs_ne s r y _ hy⟩
  · refine ⟨s.windowFor r c, ?_, Nat.mod_eq_of_lt unit, rfl, rfl, ?_⟩
    · rw [State.record_of_new ⟨cls, typ⟩ new]
      exact congrArg (· ++ _) (State.recordAt_windows s r c)
    · rw [State.record_of_new ⟨cls, typ⟩ new]
      exact State.recordAt_actions s r c
  · rw [State.record_of_open ⟨cls, typ⟩ opened]
    exact ⟨State.recordAt_windows s r _, congrArg (· ++ _) (State.recordAt_actions s r _)⟩
  · have unhandled : ¬ c.Handled := by
      rintro ⟨cls, typ⟩
      omega
    rw [State.record_of_unhandled unhandled, State.recordAt_windows]

end

/-! SUPPORT. Boot: what boot sets up is kept: module flash, the contexts, the configuration, and which queues live, over registers, events, records and accesses to memory. -/

namespace Sys2Proof.Machine

/-- What boot sets up and what only commands change afterwards: module flash, the contexts, the configuration, and which queues live. -/
structure SetUp where
  flash : Flash
  contexts : KMap Context
  config : ConfigImage
  live : Nat → Bool

def State.setUp (s : State) : SetUp := ⟨s.flash, s.contexts, s.boot.config, fun q => (s.queue q).live⟩

section

variable (s : State)

@[simp] theorem State.setUp_ite (c : Prop) [Decidable c] (a b : State) : (if c then a else b).setUp = if c then a.setUp else b.setUp :=
  apply_ite State.setUp c a b

@[simp] theorem State.setUp_fst_ite {α : Type} (c : Prop) [Decidable c] (a b : State × α) :
    (if c then a else b).1.setUp = if c then a.1.setUp else b.1.setUp :=
  apply_ite (fun x : State × α => x.1.setUp) c a b

@[simp] theorem State.foldl_setUp {α : Type} {f : State → α → State} (l : List α) (h : ∀ s x, (f s x).setUp = s.setUp) :
    (l.foldl f s).setUp = s.setUp := by
  induction l generalizing s with
  | nil => rfl
  | cons x l ih => rw [List.foldl_cons, ih, h]

/-! ## Updates of one unit -/

@[simp] theorem State.modCore_setUp (c : Nat) (f : Core → Core) : (s.modCore c f).setUp = s.setUp := (rfl)
@[simp] theorem State.modBlock_setUp (c b : Nat) (f : Block → Block) : (s.modBlock c b f).setUp = s.setUp := (rfl)
@[simp] theorem State.modTile_setUp (t : Nat) (f : Tile → Tile) : (s.modTile t f).setUp = s.setUp := (rfl)
@[simp] theorem State.modSlice_setUp (t j : Nat) (f : Slice → Slice) : (s.modSlice t j f).setUp = s.setUp := (rfl)
@[simp] theorem State.modDie_setUp (d : Nat) (f : Die → Die) : (s.modDie d f).setUp = s.setUp := (rfl)
@[simp] theorem State.modLink_setUp (l : Nat) (f : Link → Link) : (s.modLink l f).setUp = s.setUp := (rfl)
@[simp] theorem State.modCache_setUp (n : Nat) (f : Cache → Cache) : (s.modCache n f).setUp = s.setUp := (rfl)
@[simp] theorem State.modPower_setUp (f : Power → Power) : (s.modPower f).setUp = s.setUp := (rfl)
@[simp] theorem State.modPwr_setUp (d : Nat) (f : PwrDie → PwrDie) : (s.modPwr d f).setUp = s.setUp := (rfl)
@[simp] theorem State.modHost_setUp (f : HostFn → HostFn) : (s.modHost f).setUp = s.setUp := (rfl)
@[simp] theorem State.modRing_setUp (r : Nat) (f : HostRing → HostRing) : (s.modRing r f).setUp = s.setUp := (rfl)
@[simp] theorem State.modHub_setUp (f : Hub → Hub) : (s.modHub f).setUp = s.setUp := (rfl)
@[simp] theorem State.draw_setUp : s.draw.2.setUp = s.setUp := (rfl)
@[simp] theorem State.sendFloor_setUp (op : FloorOp) (m : FloorMsg) : (s.sendFloor op m).setUp = s.setUp := (rfl)
@[simp] theorem State.settleOf_setUp (m : FloorMsg) : (s.settleOf m).setUp = s.setUp := (rfl)
@[simp] theorem State.modColl_setUp (q : Nat) (f : Coll → Coll) : (s.modColl q f).setUp = s.setUp := (rfl)

/-- A run of a queue is no part of whether the queue lives. -/
@[simp] theorem State.modRun_setUp (q : Nat) (f : Run → Run) : (s.modRun q f).setUp = s.setUp := by
  have live (x : Nat) : ((s.modRun q f).queue x).live = (s.queue x).live := by
    by_cases h : x = q
    · subst h
      simp [State.modRun]
    · rw [State.modRun, State.modQueue_queue_ne s q x _ h]
  simp only [State.setUp, live]
  rfl

@[simp] theorem State.modCrc_setUp (w : Window) (f : CrcRegs → CrcRegs) : (s.modCrc w f).setUp = s.setUp := by
  cases w <;> rfl

@[simp] theorem State.modBoot_setUp (f : Boot → Boot) (h : (f s.boot).config = s.boot.config) : (s.modBoot f).setUp = s.setUp := by
  simp only [State.setUp, State.modBoot, h]
  rfl

/-! ## Records and messages -/

@[simp] theorem State.modErrs_setUp (r : Nat) (f : ErrRing → ErrRing) : (s.modErrs r f).setUp = s.setUp := by
  rw [State.modErrs_only]
  rfl

@[simp] theorem State.event_setUp (source code detail : Nat) : (s.event source code detail).setUp = s.setUp := by
  rw [State.event_only]
  rfl

@[simp] theorem State.record_setUp (r : Nat) (c : Rec) : (s.record r c).setUp = s.setUp := by
  rw [State.record_only]
  rfl

@[simp] theorem State.recordAnyUnit_setUp (r : Nat) (c : Rec) : (s.recordAnyUnit r c).setUp = s.setUp :=
  State.record_setUp _ _ _

@[simp] theorem State.corrected_setUp (r unit addr structure_ source : Nat) (again : Bool) :
    (s.corrected r unit addr structure_ source again).setUp = s.setUp := by
  simp [State.corrected]

@[simp] theorem State.uncorrected_setUp (d unit addr structure_ : Nat) : (s.uncorrected d unit addr structure_).setUp = s.setUp := by
  simp [State.uncorrected]

/-! ## DRAM -/

@[simp] theorem State.rawWrite_setUp (k : Nat) (d : LineData) (mask : BitVec 128) : (s.rawWrite k d mask).setUp = s.setUp := (rfl)
@[simp] theorem State.poisonSector_setUp (t tma : Nat) : (s.poisonSector t tma).setUp = s.setUp := (rfl)

@[simp] theorem State.countHot_setUp (t tma : Nat) (r : Req) (write : Bool) : (s.countHot t tma r write).setUp = s.setUp := by
  unfold State.countHot
  dsimp only
  split
  · rfl
  · split <;> simp

@[simp] theorem State.addCandidate_setUp (t dev bank row : Nat) (lost : Bool) : (s.addCandidate t dev bank row lost).setUp = s.setUp := by
  simp [State.addCandidate]

@[simp] theorem State.dramCorrected_setUp (t dev tma : Nat) : (s.dramCorrected t dev tma).setUp = s.setUp := by
  simp [State.dramCorrected]

@[simp] theorem State.dramUncorrectable_setUp (t dev tma : Nat) : (s.dramUncorrectable t dev tma).setUp = s.setUp := by
  simp [State.dramUncorrectable]

@[simp] theorem State.mirrorDiverge_setUp (t dev tma a b winner : Nat) : (s.mirrorDiverge t dev tma a b winner).setUp = s.setUp := by
  simp [State.mirrorDiverge]

@[simp] theorem State.compareCopies_setUp (t dev tma t' tma' : Nat) : (s.compareCopies t dev tma t' tma').setUp = s.setUp := by
  simp [State.compareCopies]

@[simp] theorem State.eccReport_setUp (t dev tma : Nat) (e : Ecc) : (s.eccReport t dev tma e).setUp = s.setUp := by
  cases e <;> simp [State.eccReport]

@[simp] theorem State.copySector_setUp (t tma t' tma' : Nat) : (s.copySector t tma t' tma').setUp = s.setUp := by
  simp [State.copySector]

@[simp] theorem State.readSector_setUp (t tma : Nat) : (s.readSector t tma).setUp = s.setUp := by
  unfold State.readSector
  dsimp only
  split
  · simp
  · split <;> simp

@[simp] theorem State.readSectors_setUp (t tma : Nat) (secs : BitVec 4) : (s.readSectors t tma secs).setUp = s.setUp := by
  simp [State.readSectors]

@[simp] theorem State.dramRead_setUp (t tma : Nat) (r : Req) (secs : BitVec 4) : (s.dramRead t tma r secs).1.setUp = s.setUp := by
  simp [State.dramRead]

@[simp] theorem State.tagWrite_setUp (t tma : Nat) (copy : Option (Nat × Nat)) (mask : BitVec 128) :
    (s.tagWrite t tma copy mask).setUp = s.setUp := by
  cases copy <;> simp [State.tagWrite]

@[simp] theorem State.dramWrite_setUp (t tma : Nat) (d : LineData) (mask : BitVec 128) (r : Req) :
    (s.dramWrite t tma d mask r).setUp = s.setUp := by
  simp only [State.dramWrite, State.setUp_ite, State.tagWrite_setUp, ite_self]
  split <;> simp

/-! ## Cache ways -/

@[simp] theorem State.watch_setUp (t tma : Nat) : (s.watch t tma).1.setUp = s.setUp := by
  unfold State.watch
  dsimp only
  split
  · rfl
  · split <;> simp

@[simp] theorem State.pushVictim_setUp (t j line : Nat) (d : LineData) : (s.pushVictim t j line d).setUp = s.setUp := (rfl)
@[simp] theorem State.overLine_setUp (t j set w : Nat) (words : Nat → Bool) : (s.overLine t j set w words).setUp = s.setUp := (rfl)

@[simp] theorem State.settleLine_setUp (t j set w : Nat) (words : Nat → Bool) : (s.settleLine t j set w words).setUp = s.setUp := by
  refine (State.foldl_setUp _ _ fun s u => ?_).trans rfl
  simp only [State.setUp_ite, State.corrected_setUp, State.uncorrected_setUp, State.poisonSector_setUp, State.modSlice_setUp, ite_self]

@[simp] theorem State.meetLine_setUp (t j set w : Nat) (mask : BitVec 128) : (s.meetLine t j set w mask).setUp = s.setUp := by
  simp [State.meetLine]

@[simp] theorem State.takeWay_setUp (t j set w : Nat) : (s.takeWay t j set w).1.setUp = s.setUp := by
  unfold State.takeWay
  split <;> simp

@[simp] theorem State.evictWay_setUp (t j set w : Nat) : (s.evictWay t j set w).setUp = s.setUp := by
  have kept := s.takeWay_setUp t j set w
  rcases taken : s.takeWay t j set w with ⟨u, _ | ⟨line, d⟩⟩ <;> rw [taken] at kept <;> simp only [State.evictWay, taken]
  · exact kept
  · exact (State.pushVictim_setUp _ _ _ _ _).trans kept

@[simp] theorem State.drainWay_setUp (t j set w : Nat) : (s.drainWay t j set w).setUp = s.setUp := by
  have kept := s.takeWay_setUp t j set w
  rcases taken : s.takeWay t j set w with ⟨u, _ | ⟨line, d⟩⟩ <;> rw [taken] at kept <;> simp only [State.drainWay, taken]
  · exact kept
  · exact (State.dramWrite_setUp _ _ _ _ _ _).trans kept

@[simp] theorem State.fillWay_setUp (t j set tag : Nat) (ways : BitVec 16) (d : LineData) (dirty : Bool) :
    (s.fillWay t j set tag ways d dirty).setUp = s.setUp := by
  simp [State.fillWay]

@[simp] theorem State.homeRead_setUp (t tma : Nat) (r : Req) (whole bypass : Bool) (secs : BitVec 4) :
    (s.homeRead t tma r whole bypass secs).1.setUp = s.setUp := by
  unfold State.homeRead
  dsimp only
  split
  · simp
  · split
    · simp
    · split <;> simp

@[simp] theorem State.toDram_setUp (t j tma : Nat) (d : LineData) (mask : BitVec 128) (r : Req) :
    (s.toDram t j tma d mask r).setUp = s.setUp := by
  simp [State.toDram]

@[simp] theorem State.homeWrite_setUp (t tma : Nat) (d : LineData) (mask : BitVec 128) (r : Req) (sector watched : Bool) :
    (s.homeWrite t tma d mask r sector watched).setUp = s.setUp := by
  have seen : (if watched then s.watch t tma else (s, false)).1.setUp = s.setUp := by simp
  unfold State.homeWrite
  dsimp only
  generalize (if watched then s.watch t tma else (s, false)) = u at seen
  split
  · simp only [State.modSlice_setUp, State.rawWrite_setUp, State.meetLine_setUp]
  · split
    · simp only [State.setUp_ite, State.toDram_setUp, State.modSlice_setUp, State.overLine_setUp, State.meetLine_setUp, seen, ite_self]
    · split <;> simp [seen]

/-! ## The directory -/

@[simp] theorem State.snoop1_setUp (n line : Nat) (k : Snoop) : (s.snoop1 n line k).1.setUp = s.setUp := by
  simp [State.snoop1]

@[simp] theorem State.invalidate_setUp (line : Nat) (l : List Nat) : (s.invalidate line l).setUp = s.setUp := by
  simp [State.invalidate]

@[simp] theorem State.dirSetEntry_setUp (t l : Nat) (e : Option DirEntry) : (s.dirSetEntry t l e).setUp = s.setUp := by
  unfold State.dirSetEntry
  split <;> simp

@[simp] theorem State.fenceEntry_setUp (t l : Nat) : (s.fenceEntry t l).setUp = s.setUp := by
  unfold State.fenceEntry
  split
  · rfl
  · dsimp only
    split <;> simp

@[simp] theorem State.scanned_setUp (t l : Nat) : (s.scanned t l).setUp = s.setUp := by
  simp [State.scanned]

@[simp] theorem State.lookupEntry_setUp (t l : Nat) : (s.lookupEntry t l).setUp = s.setUp := by
  unfold State.lookupEntry
  dsimp only
  split <;> simp

@[simp] theorem State.recallLine_setUp (t l : Nat) : (s.recallLine t l).setUp = s.setUp := by
  unfold State.recallLine
  dsimp only
  split
  · simp
  next _ e _ =>
    rw [State.modTile_setUp]
    cases e.holder with
    | none => simp
    | some core =>
      dsimp only
      split <;> simp

@[simp] theorem State.dirAlloc_setUp (t l : Nat) : (s.dirAlloc t l).1.setUp = s.setUp := by
  unfold State.dirAlloc
  dsimp only
  split <;> simp

@[simp] theorem State.dirStore_setUp (t l : Nat) (e : Option DirEntry) : (s.dirStore t l e).setUp = s.setUp := by
  unfold State.dirStore
  split <;> simp

@[simp] theorem State.finishWrite_setUp (t tma : Nat) (d : LineData) (mask : BitVec 128) (r : Req) (sector : Bool) (od : Option LineData) :
    (s.finishWrite t tma d mask r sector od).setUp = s.setUp := by
  cases od <;> simp [State.finishWrite]

@[simp] theorem State.finishAtom_setUp (t tma : Nat) (r : Req) (o op at_ x y : Nat) (od : Option LineData) :
    (s.finishAtom t tma r o op at_ x y od).1.setUp = s.setUp := by
  cases od <;> simp [State.finishAtom]

@[simp] theorem State.homeWb_setUp (t tma n : Nat) (d : LineData) (r : Req) : (s.homeWb t tma n d r).setUp = s.setUp := by
  unfold State.homeWb
  dsimp only
  split <;> simp

/-! ## Requests at their home -/

@[simp] theorem State.refuse_setUp (m : FloorMsg) (e : MemErr) : (s.refuse m e).setUp = s.setUp := (rfl)
@[simp] theorem State.hold_setUp (t : Nat) (f : Flight) (since reason : Nat) : (s.hold t f since reason).setUp = s.setUp := (rfl)
@[simp] theorem State.modTxn_setUp (t l : Nat) (f : Txn → Txn) : (s.modTxn t l f).setUp = s.setUp := (rfl)
@[simp] theorem State.endTxn_setUp (t l : Nat) : (s.endTxn t l).setUp = s.setUp := (rfl)
@[simp] theorem State.park_setUp (t tma : Nat) (f : Flight) : (s.park t tma f).setUp = s.setUp := (rfl)
@[simp] theorem State.sendComp_setUp (m : FloorMsg) (op : FloorOp) : (s.sendComp m op).setUp = s.setUp := (rfl)

@[simp] theorem State.giveData_setUp (t l : Nat) (f : Flight) (d : LineData) : (s.giveData t l f d).setUp = s.setUp := by
  simp [State.giveData]

@[simp] theorem State.homeData_setUp (t tma : Nat) (f : Flight) : (s.homeData t tma f).setUp = s.setUp := by
  simp [State.homeData]

@[simp] theorem State.needData_setUp (f : Flight) (need : Bool) : (s.needData f need).setUp = s.setUp := by
  unfold State.needData
  split <;> simp

@[simp] theorem State.finishTxn_setUp (t : Nat) (x : Txn) : (s.finishTxn t x).setUp = s.setUp := by
  unfold State.finishTxn
  dsimp only
  split
  case h_1 => split <;> simp
  all_goals simp

/-- A transaction that is granted or performed at once, or whose snoops are put on the floor. -/
theorem State.finishTxn_or_floor_setUp (t : Nat) (x : Txn) (c : Prop) [Decidable c] (l : List Flight) :
    (if c then s.finishTxn t x else { s with floor := l }).setUp = s.setUp := by
  split
  · simp
  · rfl

@[simp] theorem State.beginTxn_setUp (t tma : Nat) (f : Flight) : (s.beginTxn t tma f).setUp = s.setUp := by
  unfold State.beginTxn
  dsimp only
  refine (State.finishTxn_or_floor_setUp _ _ _ _ _).trans ?_
  simp

@[simp] theorem State.beginRecall_setUp (t tma v : Nat) (f : Flight) : (s.beginRecall t tma v f).setUp = s.setUp := by
  unfold State.beginRecall
  dsimp only
  split
  · simp
  · exact s.scanned_setUp t v

@[simp] theorem State.acceptWb_setUp (t since : Nat) (m : FloorMsg) : (s.acceptWb t since m).setUp = s.setUp := by
  unfold State.acceptWb
  dsimp only
  split
  · rfl
  · split <;> simp

@[simp] theorem State.arrive_setUp (t since : Nat) (f : Flight) : (s.arrive t since f).setUp = s.setUp := by
  unfold State.arrive
  dsimp only
  split
  · simp
  · split
    case h_6 =>
      split
      · rfl
      split
      · rfl
      split
      · split <;> rfl
      split
      · split <;> simp
      · simp
    all_goals rfl

@[simp] theorem State.serveParked_setUp (t : Nat) (f : Flight) : (s.serveParked t f).setUp = s.setUp := by
  unfold State.serveParked
  split
  · simp
  · split <;> simp

@[simp] theorem State.unpark_setUp (t : Nat) : (s.unpark t).setUp = s.setUp := by
  simp [State.unpark]

@[simp] theorem State.retryHeld_setUp (t : Nat) : (s.retryHeld t).setUp = s.setUp := by
  simp [State.retryHeld]

/-! ## Last-level memory, translation and power -/

@[simp] theorem State.drainSlices_setUp (t : Nat) : (s.drainSlices t).setUp = s.setUp := by
  simp [State.drainSlices]

@[simp] theorem State.setLlmEnable_setUp (t : Nat) (v : Bool) : (s.setLlmEnable t v).setUp = s.setUp := by
  simp [State.setLlmEnable]

@[simp] theorem State.setStreamCtl_setUp (t v : Nat) : (s.setStreamCtl t v).setUp = s.setUp := (rfl)

@[simp] theorem State.nextConversion_setUp (t j : Nat) : (s.nextConversion t j).setUp = s.setUp := by
  unfold State.nextConversion
  dsimp only
  split
  · rfl
  · split <;> simp

@[simp] theorem State.setScratchWays_setUp (t j : Nat) (v : BitVec 16) : (s.setScratchWays t j v).setUp = s.setUp := by
  simp [State.setScratchWays]

@[simp] theorem State.beginInvalidation_setUp (c : BitVec 64) : (s.beginInvalidation c).setUp = s.setUp := by
  exact State.foldl_setUp _ _ fun _ _ => rfl

@[simp] theorem State.startInvalidation_setUp (v : Nat) : (s.startInvalidation v).setUp = s.setUp := by
  simp [State.startInvalidation]

@[simp] theorem State.resumeMemory_setUp : s.resumeMemory.setUp = s.setUp := by
  simp [State.resumeMemory]

@[simp] theorem State.setStep_setUp (d : Nat) : (s.setStep d).setUp = s.setUp := by
  simp [State.setStep]

@[simp] theorem State.setSteps_setUp : s.setSteps.setUp = s.setUp := by
  simp [State.setSteps]

theorem State.setUp_of_dies {s u : State} (m : KMap Die) (h : u.setUp = s.setUp) : ({ u with dies := m } : State).setUp = s.setUp := h

@[simp] theorem State.enterStandby_setUp : s.enterStandby.setUp = s.setUp := (rfl)

@[simp] theorem State.leaveStandby_setUp : s.leaveStandby.setUp = s.setUp := by
  unfold State.leaveStandby
  split
  · rfl
  · rw [State.setSteps_setUp]
    refine State.setUp_of_dies _ ?_
    simp

/-! ## Block faults -/

@[simp] theorem State.failMember_setUp (team c b first cause : Nat) : (s.failMember team c b first cause).setUp = s.setUp := by
  unfold State.failMember
  dsimp only
  split
  · rfl
  · rfl
  · split <;> rfl

@[simp] theorem State.failRun_setUp (q : Nat) (i : BitVec 64) (launch status detail : Nat) :
    (s.failRun q i launch status detail).setUp = s.setUp :=
  State.modRun_setUp _ _ _

@[simp] theorem State.stopBlocks_setUp (q : Nat) (i : BitVec 64) : (s.stopBlocks q i).setUp = s.setUp := (rfl)

@[simp] theorem State.spreadFault_setUp (core : Nat) (b : Block) (cause : Nat) : (s.spreadFault core b cause).setUp = s.setUp := by
  simp only [State.spreadFault, State.stopBlocks_setUp, State.failRun_setUp]
  split
  · refine (State.foldl_setUp _ _ fun u x => ?_).trans rfl
    simp
  · rfl

@[simp] theorem State.blockFault_setUp (w : Where) (cause detail : Nat) : (s.blockFault w cause detail).setUp = s.setUp := by
  unfold State.blockFault
  split
  · rfl
  · simp

/-! ## Links -/

/-- A remote transaction that ends without a result. -/
theorem State.endRemote_setUp (t tag reason v : Nat) {status : Nat} (bad : Bool) (failed : status ≠ 0) :
    (s.endRemote t tag status reason v bad).setUp = s.setUp := by
  unfold State.endRemote
  split
  · rfl
  · simp [failed]

@[simp] theorem State.endRemotes_setUp (t : Nat) (pick : Remote → Bool) : (s.endRemotes t 4 pick).setUp = s.setUp :=
  State.foldl_setUp _ _ fun s x => s.endRemote_setUp t x.1 0 0 false (by decide)

@[simp] theorem State.sendFrame_setUp (t : Nat) (f : Frame) : (s.sendFrame t f).setUp = s.setUp := by
  unfold State.sendFrame
  split
  · rfl
  · split <;> rfl

@[simp] theorem State.collFrame_setUp (c : Coll) (i typ y phase level off : Nat) (poison : Nat) (payload : List Byte) :
    (s.collFrame c i typ y phase level off poison payload).setUp = s.setUp :=
  State.sendFrame_setUp _ _ _

@[simp] theorem State.sendAborts_setUp (c : Coll) (i : Nat) : (s.sendAborts c i).setUp = s.setUp := by
  refine State.foldl_setUp _ _ fun s kind => State.foldl_setUp _ _ fun s phase => State.foldl_setUp _ _ fun s level => ?_
  rw [State.setUp_ite, State.collFrame_setUp, ite_self]

@[simp] theorem State.endColl_setUp (q die code : Nat) : (s.endColl q die code).setUp = s.setUp := by
  unfold State.endColl
  split
  · rfl
  · simp

@[simp] theorem State.collLinkLost_setUp (l code : Nat) : (s.collLinkLost l code).setUp = s.setUp := by
  refine State.foldl_setUp _ _ fun s c => ?_
  unfold State.collLoses
  split
  · split <;> simp
  · rfl

@[simp] theorem State.discardLink_setUp (l : Nat) (lost : Bool) : (s.discardLink l lost).setUp = s.setUp := by
  unfold State.discardLink
  dsimp only
  split
  · rfl
  · rw [State.collLinkLost_setUp]
    exact (State.foldl_setUp _ _ fun s t => s.endRemotes_setUp t _).trans rfl

@[simp] theorem State.trainNext_setUp (t : Nat) : (s.trainNext t).setUp = s.setUp := by
  unfold State.trainNext
  split
  · rfl
  · split <;> rfl

@[simp] theorem State.startTraining_setUp (l attempts : Nat) : (s.startTraining l attempts).setUp = s.setUp := by
  simp [State.startTraining]

@[simp] theorem State.darken_setUp (l : Nat) (st : LinkState) : (s.darken l st).setUp = s.setUp := by
  simp [State.darken]

@[simp] theorem State.enterRetrain_setUp (l : Nat) (resume : Bool) : (s.enterRetrain l resume).setUp = s.setUp := by
  simp [State.enterRetrain]

@[simp] theorem State.setEnable_setUp (l : Nat) (v : Bool) : (s.setEnable l v).setUp = s.setUp := by
  simp [State.setEnable]

@[simp] theorem State.writeRetrain_setUp (l : Nat) : (s.writeRetrain l).setUp = s.setUp := by
  simp [State.writeRetrain]

@[simp] theorem State.setLaneEn_setUp (l : Nat) (v : BitVec 2) : (s.setLaneEn l v).setUp = s.setUp := by
  simp [State.setLaneEn]

@[simp] theorem State.laneReenable_setUp (l : Nat) : (s.laneReenable l).setUp = s.setUp := by
  simp [State.laneReenable]

/-! ## Registers -/

@[simp] theorem State.rangeReject_setUp (w : Window) (off v : Nat) : (s.rangeReject w off v).setUp = s.setUp := by
  simp [State.rangeReject, State.regReject]

@[simp] theorem State.setRingCtl_setUp (r v : Nat) : (s.setRingCtl r v).setUp = s.setUp := by
  simp [State.setRingCtl]

@[simp] theorem State.setOverlap_setUp (t n off v : Nat) : (s.setOverlap t n off v).setUp = s.setUp := by
  simp [State.setOverlap]

@[simp] theorem State.startAttest_setUp : s.startAttest.setUp = s.setUp := by
  simp [State.startAttest]

@[simp] theorem State.applyReg_setUp (w : Window) (r : Reg) (v wo : Nat) : (s.applyReg w r v wo).setUp = s.setUp := by
  unfold State.applyReg
  dsimp only
  split <;> simp

@[simp] theorem State.checkOverlap_setUp (w : Window) (r : Reg) (off v : Nat) : (s.checkOverlap w r off v).setUp = s.setUp := by
  cases r <;> simp [State.checkOverlap]

@[simp] theorem State.alertErrors_setUp : s.alertErrors.setUp = s.setUp := by
  rw [State.alertErrors_only]
  rfl

@[simp] theorem State.settleAlert_setUp : s.settleAlert.setUp = s.setUp := by
  simp [State.settleAlert]

@[simp] theorem State.ackReg_setUp (w : Window) (r : Reg) (v : BitVec 16) : (s.ackReg w r v).setUp = s.setUp := by
  unfold State.ackReg
  dsimp only
  rw [State.settleAlert_setUp]
  split <;> simp

@[simp] theorem State.writeReg_setUp (w : Window) (r : Reg) (off v mask : Nat) : (s.writeReg w r off v mask).setUp = s.setUp := by
  unfold State.writeReg
  dsimp only
  split <;> simp [State.noteC]

@[simp] theorem State.write4_setUp (w : Window) (off v : Nat) : (s.write4 w off v).setUp = s.setUp := by
  unfold State.write4
  split <;> simp [State.regReject]

/-! ## Step 7 (R402, R411, R414) -/

@[simp] theorem State.bootCommit_setUp (w : Window) : (s.bootCommit w).setUp = s.setUp := by
  simp [State.bootCommit]

@[simp] theorem State.putSet_setUp (t n : Nat) (f : ISet → ISet) : (s.putSet t n f).setUp = s.setUp := (rfl)

@[simp] theorem State.writeSet_setUp (e : SetEntry) (t : Nat) : (s.writeSet e t).setUp = s.setUp := by
  unfold State.writeSet
  dsimp only
  split <;> simp [State.noteC]

@[simp] theorem State.writeSets_setUp (es : List SetEntry) : (s.writeSets es).setUp = s.setUp :=
  State.foldl_setUp _ _ fun _ e => State.foldl_setUp _ _ fun s t => s.writeSet_setUp e t

@[simp] theorem State.configureTile_setUp (t : Nat) : (s.configureTile t).setUp = s.setUp := by
  simp [State.configureTile, State.noteC]

theorem State.setUp_of_partitions {s u : State} (m : KMap Partition) (h : u.setUp = s.setUp) :
    ({ u with partitions := m } : State).setUp = s.setUp := h

/-- Step 7 configures what installing the keys finds as boot left it, and the registers and commits that follow leave the keys. -/
theorem State.step7_eq_toReady : ∃ u v : State, u.setUp = s.setUp ∧ v.setUp = u.installKeys.setUp ∧ s.step7 = v.toReady := by
  unfold State.step7
  extract_lets c ds up s1 s2 parts form s3 s4 s5 s6 s7
  refine ⟨s3, s7, State.setUp_of_partitions _ ?_, ?_, rfl⟩
  · simp [s2, s1]
  · simp [s7, s6, s5, s4]

end
end Sys2Proof.Machine

/-! SUPPORT. Boot: step 7 of boot, which ends READY. -/

namespace Sys2Proof.Machine

section

variable {s t : State}

theorem State.flash_of_setUp (h : t.setUp = s.setUp) : t.flash = s.flash := congrArg SetUp.flash h

theorem State.config_of_setUp (h : t.setUp = s.setUp) : t.boot.config = s.boot.config := congrArg SetUp.config h

theorem State.context_of_setUp (h : t.setUp = s.setUp) (c : Nat) : t.context c = s.context c :=
  congrArg (fun x : SetUp => kget ({} : Context) x.contexts c) h

theorem State.live_of_setUp (h : t.setUp = s.setUp) (q : Nat) : (t.queue q).live = (s.queue q).live :=
  congrArg (fun x => x.live q) h

end

section

variable (s : State)

@[simp] theorem State.enableLinks_setUp (tiles : List Nat) : (s.enableLinks tiles).setUp = s.setUp := by
  simp [State.enableLinks]

@[simp] theorem State.startTraining_boot (l attempts : Nat) : (s.startTraining l attempts).boot = s.boot := by
  simp [State.startTraining, apply_ite State.boot]

/-- A link that ENABLE lets train changes nothing of boot. -/
@[simp] theorem State.setEnable_true_boot (l : Nat) : (s.setEnable l true).boot = s.boot := by
  simp [State.setEnable, apply_ite State.boot]

@[simp] theorem State.enableLinks_boot (tiles : List Nat) : (s.enableLinks tiles).boot = s.boot := by
  unfold State.enableLinks
  generalize tiles.flatMap _ = l
  induction l generalizing s with
  | nil => rfl
  | cons x l ih =>
    rw [List.foldl_cons, ih]
    split <;> simp

@[simp] theorem State.createContext0_flash : s.createContext0.flash = s.flash := rfl
@[simp] theorem State.createContext0_queue_live : (s.createContext0.queue 0).live = true :=
  congrArg Queue.live (kget_kset_same _ _ _ _)
@[simp] theorem State.createContext0_context_live : (s.createContext0.context 0).live = true :=
  congrArg Context.live (kget_kset_same _ _ _ _)

/-- R411, R414: context 0 with its key, and its queue 0. -/
theorem State.installKeys_live : s.installKeys.flash = s.flash ∧ (s.installKeys.queue 0).live = true ∧
    (s.installKeys.context 0).live = true ∧
    (s.installKeys.context 0).key = some (unwrapRecord s.boot.config.serial 0 s.flash.ctx0Key) := by
  simp [State.installKeys]

@[simp] theorem State.event_boot (source code detail : Nat) : (s.event source code detail).boot = s.boot := by
  rw [State.event_only]

@[simp] theorem State.event_hub (source code detail : Nat) : (s.event source code detail).hub = s.hub := by
  rw [State.event_only]

/-- A message leaves a ring that is enabled so. -/
@[simp] theorem State.event_enable (source code detail : Nat) : ((s.event source code detail).ring 32).enable = (s.ring 32).enable := by
  unfold State.event State.outbox
  dsimp only
  split
  · rfl
  · split <;> simp

theorem setBit_alert_false (a : BitVec 6) : (setBit a 4 false).getLsbD 4 = false := by
  revert a
  decide

@[simp] theorem Flash.writeBoot_bootCount (f : Flash) (g : Flash → Flash) : (f.writeBoot g).bootCount = (g f).bootCount := rfl

/-- The state in which boot is ready, before the event of a divergence. -/
theorem State.toReady_shows : s.toReady.ready = true ∧ s.toReady.flash.bootCount = s.flash.bootCount + 1 ∧
    s.toReady.boot.count = s.flash.bootCount + 1 ∧ s.toReady.boot.watchdog = none ∧ s.toReady.hub.alert.getLsbD 4 = false ∧
    (s.toReady.ring 32).enable = true ∧ (∀ q, (s.toReady.queue q).live = (s.queue q).live) ∧ ∀ c, s.toReady.context c = s.context c := by
  unfold State.toReady
  extract_lets b f fresh age slots up s1 s2 s3 s4
  have booted : s4.boot = s2.boot := by simp [s4, s3]
  have kept : (if b.diverge then s4.event 12 770 b.cfgCopy else s4).setUp = s2.setUp := by simp [s4, s3]
  generalize ht : (if b.diverge = true then s4.event 12 770 b.cfgCopy else s4) = t at kept
  have boot : t.boot = s2.boot := by
    rw [← ht]
    split <;> simp [booted]
  have flash : t.flash.bootCount = s.flash.bootCount + 1 := congrArg Flash.bootCount (State.flash_of_setUp kept)
  have context (c : Nat) : t.context c = s.context c := State.context_of_setUp kept c
  have live (q : Nat) : (t.queue q).live = (s.queue q).live := State.live_of_setUp kept q
  have alert : t.hub.alert.getLsbD 4 = false := by
    have cleared : s4.hub.alert.getLsbD 4 = false := setBit_alert_false _
    rw [← ht]
    split
    · rwa [State.event_hub]
    · exact cleared
  have ring : (t.ring 32).enable = true := by
    rw [← ht]
    split <;> simp [s4]
  exact ⟨decide_eq_true (congrArg Boot.stage boot), flash, congrArg Boot.count boot, congrArg Boot.watchdog boot, alert, ring, live, context⟩

/-- Step 7 (R402, R411, R414): the module is READY, with context 0, its key and its queue. -/
theorem State.step7_shows : s.step7.ready = true ∧ s.step7.flash.bootCount = s.flash.bootCount + 1 ∧
    s.step7.boot.count = s.flash.bootCount + 1 ∧ s.step7.boot.watchdog = none ∧ s.step7.hub.alert.getLsbD 4 = false ∧
    (s.step7.ring 32).enable = true ∧ (s.step7.context 0).live = true ∧
    (s.step7.context 0).key = some (unwrapRecord s.boot.config.serial 0 s.flash.ctx0Key) ∧ (s.step7.queue 0).live = true := by
  obtain ⟨u, v, hu, hv, step⟩ := s.step7_eq_toReady
  obtain ⟨flash, queue, context, key⟩ := u.installKeys_live
  have counted : v.flash.bootCount = s.flash.bootCount := by rw [State.flash_of_setUp hv, flash, State.flash_of_setUp hu]
  obtain ⟨ready, bootCount, count, watchdog, alert, ring, lives, contexts⟩ := v.toReady_shows
  rw [step, contexts, lives, State.context_of_setUp hv, State.live_of_setUp hv, ← State.config_of_setUp hu, ← State.flash_of_setUp hu, ← flash]
  rw [State.flash_of_setUp hv] at bootCount count
  exact ⟨ready, bootCount, count, watchdog, alert, ring, context, flash ▸ key, queue⟩

end
end Sys2Proof.Machine

/-! SUPPORT. Boot: input power, and the scope 5 that follows it. -/

namespace Sys2Proof.Machine

section

variable (s : State) (stage : Nat) (watchdog : Option Nat)

/-- R389, R390: after scope 5 every field but those that it keeps is as after reset; the debug nonce is drawn. -/
theorem State.scope5_eq : ∃ nonce, s.scope5 stage watchdog =
    { pending := s.pending, ticks := s.ticks, floor4 := s.floor4, draws := s.draws + 4, i3cOut := s.i3cOut, velvet := s.velvet, flash := s.flash
      hub := { strap := s.hub.strap, alert := s.hub.alert &&& 0x30, jtag := s.hub.jtag }
      boot := { stage := stage, watchdog := watchdog, debugNonce := nonce } } := by
  unfold State.scope5
  dsimp only
  rw [State.drawMany_only]
  exact ⟨_, rfl⟩

/-- R402: a package reset, after an entry in module flash. -/
theorem packageReset_of_modFlash (f : Flash → Flash) : PackageReset s (s.modFlash f).packageReset := by
  obtain ⟨nonce, reset⟩ := (s.modFlash f).scope5_eq 2 (some s.ticks)
  rw [State.packageReset, State.modFlash_ticks, reset]
  exact ⟨rfl, rfl, rfl, rfl, rfl, rfl, rfl, rfl, rfl, rfl, rfl⟩

/-- R390, R472: the causes of ALERT_N that scope 5 keeps. -/
theorem getLsbD_alert_kept (a : BitVec 6) : (a &&& 0x30).getLsbD 4 = a.getLsbD 4 := by
  revert a
  decide

theorem getLsbD_setBit_alert_brownOut (a : BitVec 6) : (setBit a 4 true).getLsbD 4 = true := by
  revert a
  decide

theorem getLsbD_setBit_alert_rail (a : BitVec 6) : (setBit a 5 true).getLsbD 5 = true := by
  revert a
  decide

/-- R478: before READY a brown-out asserts ALERT_N. -/
theorem alert_shown_of_brownOut (a : BitVec 6) (h : a.getLsbD 4 = true) : a &&& 0x30 ≠ 0 := by
  revert a
  decide

end

section

variable {s : State}

/-- POWER_ON (R389). -/
theorem exec_powerOn (off : s.velvet.powered = false) :
    exec .powerOn s = .next { s with velvet := { powered := true, perstSince := some s.ticks, inputSince := s.ticks } } := by
  show execPowerOn s = _
  simp [execPowerOn, off]

/-- INPUT_POWER_VALID (R471, R472). -/
theorem exec_inputPowerValid (on : s.velvet.powered = true) (invalid : s.velvet.valid = false) (held : s.velvet.inputSince + 1000000 ≤ s.ticks)
    (cool : s.velvet.thermTrip = false) (rail : s.velvet.hubFails < 3) :
    exec .inputPowerValid s =
      .next ((s.modVelvet fun v => { v with valid := true }).scope5 (if s.velvet.brownOut then 2 else 1) (some s.ticks)) := by
  show execInputPowerValid s = _
  have late : s.elapsed s.velvet.inputSince (10 * msTicks) = true := decide_eq_true held
  have few : ¬ 3 ≤ s.velvet.hubFails := by omega
  simp [execInputPowerValid, on, invalid, late, cool, few, State.modVelvet]

theorem exec_inputPowerValid_early (early : s.ticks < s.velvet.inputSince + 1000000) : exec .inputPowerValid s = .next s := by
  show execInputPowerValid s = _
  have late : s.elapsed s.velvet.inputSince (10 * msTicks) = false := decide_eq_false (by show ¬ (_ + 1000000 ≤ _); omega)
  simp [execInputPowerValid, late]

/-- BROWN_OUT (R472). -/
theorem exec_brownOut (valid : s.velvet.valid = true) : ∃ t, exec .brownOut s = .next t ∧
    t.velvet = { s.velvet with valid := false, brownOut := true, inputSince := s.ticks } ∧
    t.boot.stage = 0 ∧ t.hubUp = false ∧ t.hub.alert.getLsbD 4 = true ∧ (s.velvet.powered = true → t.alertOut = true) ∧
    t.thermTripOut = s.thermTripOut ∧ t.flash = s.flash ∧ t.cores = [] ∧ t.mem = [] ∧ t.pending = s.pending := by
  obtain ⟨nonce, dark⟩ := s.scope5_eq 0 none
  have run : exec .brownOut s = .next ((s.dark.modVelvet fun v => { v with valid := false, brownOut := true, inputSince := s.dark.ticks }).modHub
      fun h => { h with alert := setBit h.alert 4 true }) := by
    show execBrownOut s = _
    simp only [execBrownOut, valid]
    rfl
  rw [State.dark, dark] at run
  have alert := getLsbD_setBit_alert_brownOut (s.hub.alert &&& 0x30)
  exact ⟨_, run, rfl, rfl, rfl, alert, fun on => Bool.and_eq_true_iff.2 ⟨on, decide_eq_true (alert_shown_of_brownOut _ alert)⟩, rfl, rfl, rfl, rfl, rfl⟩

/-- INPUT_POWER_ABSENT (R23). -/
theorem exec_inputPowerAbsent (s : State) : ∃ t, exec .inputPowerAbsent s = .next t ∧ t.velvet = {} ∧ t.flash = s.flash ∧ t.boot.stage = 0 ∧
    t.mem = [] ∧ t.cores = [] := by
  obtain ⟨nonce, dark⟩ := s.scope5_eq 0 none
  have run : exec .inputPowerAbsent s = .next ({ s.dark with velvet := {} }.modHub fun h => { h with alert := 0, jtag := none }) := rfl
  rw [State.dark, dark] at run
  exact ⟨_, run, rfl, rfl, rfl, rfl, rfl⟩

/-- The state after one more failed try of the hub's supply has been counted. -/
def State.hubFailed (s : State) : State := s.modVelvet fun v => { v with hubFails := v.hubFails + 1 }

/-- HUB_POWER_FAIL (R485). -/
theorem exec_hubPowerFail (stage : s.boot.stage = 2) (valid : s.velvet.valid = true) : ∃ t, exec .hubPowerFail s = .next t ∧
    t.velvet.hubFails = s.velvet.hubFails + 1 ∧ (s.velvet.hubFails < 2 → t = { s with velvet := t.velvet }) ∧
    (2 ≤ s.velvet.hubFails → t.boot.stage = 0 ∧ t.hub.alert.getLsbD 5 = true) := by
  have run : exec .hubPowerFail s = if s.velvet.hubFails + 1 < 3 then .next s.hubFailed
      else .next (s.hubFailed.dark.modHub fun h => { h with alert := setBit h.alert 5 true }) := by
    show execHubPowerFail s = _
    simp only [execHubPowerFail, stage, valid]
    rfl
  by_cases few : s.velvet.hubFails + 1 < 3
  · rw [if_pos few] at run
    exact ⟨s.hubFailed, run, rfl, fun _ => rfl, fun many => by omega⟩
  · rw [if_neg few] at run
    obtain ⟨nonce, dark⟩ := s.hubFailed.scope5_eq 0 none
    rw [State.dark, dark] at run
    exact ⟨_, run, rfl, fun h => absurd h (by omega), fun _ => ⟨rfl, getLsbD_setBit_alert_rail _⟩⟩

/-- BOOT_WATCHDOG (R402). -/
theorem exec_bootWatchdog {since : Nat} (running : s.boot.watchdog = some since) (late : since + 500000000 ≤ s.ticks)
    (valid : s.velvet.valid = true) (untripped : s.power.tripped = false) (cool : s.velvet.thermTrip = false) :
    exec .bootWatchdog s = .next (s.modFlash fun f => f.logged (2, s.boot.stage)).packageReset := by
  show execBootWatchdog s = _
  have elapsed : s.elapsed since (5 * secTicks) = true := decide_eq_true late
  simp [execBootWatchdog, running, valid, untripped, cool, elapsed]

end
end Sys2Proof.Machine

/-! SUPPORT. Boot: the stage that completes, and what step 3 selects. -/

namespace Sys2Proof.Machine

/-- Input power is valid, and neither an error of boot nor a trip holds it up (R382, R403). -/
structure BootRuns (s : State) : Prop where
  valid : s.velvet.valid = true
  sound : s.boot.error = 0
  untripped : s.power.tripped = false
  cool : s.velvet.thermTrip = false

/-! ## The stage that completes (R402) -/

/-- What the completion of the present stage does. -/
def State.completeStage (s : State) (r : BootReport) : State := match s.boot.stage with
  | 1 => s.modBoot fun b => { b with stage := 2 }
  | 2 => s.step2
  | 3 => if s.boot.hold then s.toStep4 else s.step3 r
  | 4 => s.step4 r
  | 5 => s.step5 r
  | 6 => s.step6
  | 7 => s.step7
  | _ => s

section

variable {s : State} (r : BootReport)

theorem exec_bootStage_of_trip (trip : s.velvet.thermTrip = true) : exec (.bootStage r) s = .next s := by
  show execBootStage r s = _
  simp [execBootStage, trip]

/-- The stage that runs completes. -/
theorem exec_bootStage_of_runs (runs : BootRuns s) : exec (.bootStage r) s = .next (s.completeStage r) := by
  show execBootStage r s = _
  simp only [execBootStage, runs.valid, runs.sound, runs.untripped, runs.cool]
  rfl

end

/-! ## Step 3 (R398, R399, R418) -/

/-- Step 3 once its records are read: the boot count is shown, and a brown-out is logged and cleared (R472). -/
def State.recordsRead (s : State) (f : Flash) : State :=
  let s := { s with flash := f }.restoreCounters
  let s := s.modBoot fun b => { b with count := s.flash.bootCount }
  if s.velvet.brownOut then (s.modFlash fun f => f.logged (3, 0)).modVelvet fun v => { v with brownOut := false } else s

/-- The rest of step 3: the firmware slot and the configuration copy are selected (R398, R399). -/
def State.selectImages (s : State) : State :=
  match s.flash.selectFw with
  | none => s.bootError 1
  | some (k, f) =>
    let s := { s with flash := s.flash.attempted f }.modBoot fun b => { b with fwSlot := k, abandoned := s.flash.abandons }
    match s.flash.selectCfg s.velvet.imageCount.toNat with
    | none => s.bootError 2
    | some c =>
      let i := s.flash.copy c
      let diverge := s.flash.cfgValid 0 && s.flash.cfgValid 1 && decide ((s.flash.copy 0).h ≠ (s.flash.copy 1).h)
      let s := s.modBoot fun b => { b with cfgCopy := c, diverge := diverge, config := i.config }
      ((s.raiseImageCount i.count).measureBoot).toStep4

section

variable {s : State} {r : BootReport}

theorem State.step3_of_flash (bad : r.flashOk = false) : s.step3 r = s.bootError 5 := by
  simp [State.step3, bad]

theorem State.step3_of_root (flash : r.flashOk = true) (bad : r.rootOk = false) : s.step3 r = s.bootError 4 := by
  simp [State.step3, flash, bad]

theorem State.step3_of_records (flash : r.flashOk = true) (root : r.rootOk = true) (bad : s.flash.readRecords r.badTags = none) :
    s.step3 r = s.bootError 5 := by
  simp [State.step3, flash, root, bad]

theorem State.step3_eq_selectImages {f : Flash} (flash : r.flashOk = true) (root : r.rootOk = true)
    (read : s.flash.readRecords r.badTags = some f) : s.step3 r = (s.recordsRead f).selectImages := by
  simp only [State.step3, flash, root, read]
  rfl

theorem State.recordsRead_of_restored (f : Flash) (restored : s.velvet.restored = true) (steady : s.velvet.brownOut = false) :
    s.recordsRead f = { s with flash := f, boot := { s.boot with count := f.bootCount } } := by
  simp [State.recordsRead, State.restoreCounters, restored, steady, State.modBoot]

end

/-! ## The images (R398, R399, R401) -/

section

variable (f g : Flash)

/-- An attempt counted in the boot record leaves the configuration copies. -/
theorem Flash.attempted_cfg : (f.attempted g).cfg = g.cfg ∧ (f.attempted g).minSvnCfg = g.minSvnCfg := by
  unfold Flash.attempted
  split <;> exact ⟨rfl, rfl⟩

theorem Flash.attempted_copy (c : Nat) : (f.attempted g).copy c = g.copy c := by
  rw [Flash.copy, (f.attempted_cfg g).1, Flash.copy]

theorem Flash.attempted_cfgValid (c : Nat) : (f.attempted g).cfgValid c = g.cfgValid c := by
  rw [Flash.cfgValid, (f.attempted_cfg g).1, (f.attempted_cfg g).2, Flash.cfgValid]

theorem Flash.attempted_selectCfg (n : Nat) : (f.attempted g).selectCfg n = g.selectCfg n := by
  simp only [Flash.selectCfg, Flash.attempted_copy, Flash.attempted_cfgValid]

theorem Flash.attempted_log : (f.attempted g).log = g.log := by
  unfold Flash.attempted
  split <;> rfl

theorem Flash.selectFw_log {f g : Flash} {k : Nat} (h : f.selectFw = some (k, g)) : g.log = f.log := by
  unfold Flash.selectFw at h
  dsimp only at h
  split at h
  · cases h
    rfl
  · split at h
    · cases h
      rfl
    · obtain ⟨j, -, chosen⟩ := Option.map_eq_some_iff.1 h
      cases chosen
      rfl

theorem Flash.spoil_log (kind copy : Nat) : (f.spoil kind copy).log = f.log := by
  unfold Flash.spoil
  split <;> rfl

theorem Flash.readBoot_log {f g : Flash} (h : f.readBoot = some g) : g.log = f.log := by
  obtain ⟨x, -, rfl⟩ := Option.map_eq_some_iff.1 h
  rfl

theorem Flash.readKey_log {f g : Flash} {kind : Nat} (h : f.readKey kind = some g) : g.log = f.log := by
  obtain ⟨x, -, rfl⟩ := Option.map_eq_some_iff.1 h
  unfold Flash.useKey
  split <;> rfl

theorem Flash.readRepairs_log {f g : Flash} (h : f.readRepairs = some g) : g.log = f.log := by
  obtain ⟨x, -, rfl⟩ := Option.map_eq_some_iff.1 h
  rfl

theorem Flash.foldl_spoil_log (bad : List (Fin 4 × Fin 2)) : (bad.foldl (fun f x => f.spoil x.1 x.2) f).log = f.log := by
  induction bad generalizing f with
  | nil => rfl
  | cons x bad ih => rw [List.foldl_cons, ih, Flash.spoil_log]

/-- The records that boot reads leave the event log. -/
theorem Flash.readRecords_log {f g : Flash} {bad : List (Fin 4 × Fin 2)} (h : f.readRecords bad = some g) : g.log = f.log := by
  obtain ⟨c, read, repairs⟩ := Option.bind_eq_some_iff.1 h
  obtain ⟨b, read, board⟩ := Option.bind_eq_some_iff.1 read
  obtain ⟨a, boot, context⟩ := Option.bind_eq_some_iff.1 read
  rw [Flash.readRepairs_log repairs, Flash.readKey_log board, Flash.readKey_log context, Flash.readBoot_log boot, Flash.foldl_spoil_log]

end

section

variable (s : State)

@[simp] theorem State.raiseImageCount_boot (n : BitVec 32) : (s.raiseImageCount n).boot = s.boot := by
  simp [State.raiseImageCount, apply_ite State.boot]

@[simp] theorem State.raiseImageCount_ticks (n : BitVec 32) : (s.raiseImageCount n).ticks = s.ticks := by
  simp [State.raiseImageCount, apply_ite State.ticks]

/-- The rise of the image counter leaves the brown-out flag, the coolant's time and the event log. -/
theorem State.raiseImageCount_keeps (n : BitVec 32) : (s.raiseImageCount n).velvet.brownOut = s.velvet.brownOut ∧
    (s.raiseImageCount n).velvet.coolOkSince = s.velvet.coolOkSince ∧ (s.raiseImageCount n).flash.log = s.flash.log := by
  unfold State.raiseImageCount
  extract_lets u
  have counted : u.velvet.brownOut = s.velvet.brownOut ∧ u.velvet.coolOkSince = s.velvet.coolOkSince ∧ u.flash.log = s.flash.log := by
    unfold u
    split <;> exact ⟨rfl, rfl, rfl⟩
  split <;> exact counted

/-- t differs from s in its measurements alone. -/
def Measured (s t : State) : Prop := ∃ m, t = s.modBoot fun b => { b with meas := m }

theorem Measured.trans {s t u : State} (h : Measured s t) (k : Measured t u) : Measured s u := by
  obtain ⟨m, rfl⟩ := h
  obtain ⟨n, rfl⟩ := k
  exact ⟨n, rfl⟩

theorem State.extend_measured (n : Nat) (v : BitVec 256) : Measured s (s.extend n v) := ⟨_, rfl⟩

/-- R413: the five measurements of step 3. -/
theorem State.measureBoot_measured : Measured s s.measureBoot :=
  ((((State.extend_measured _ _ _).trans (State.extend_measured _ _ _)).trans (State.extend_measured _ _ _)).trans
    (State.extend_measured _ _ _)).trans (State.extend_measured _ _ _)

/-- The end of step 3 (R401, R413): what the image counter and the measurements leave. -/
theorem State.imagesMeasured_keeps (n : BitVec 32) :
    let u := (s.raiseImageCount n).measureBoot
    u.velvet.brownOut = s.velvet.brownOut ∧ u.coolHeld = s.coolHeld ∧ u.flash.log = s.flash.log ∧ u.boot.stage = s.boot.stage ∧
      u.boot.fwSlot = s.boot.fwSlot ∧ u.boot.cfgCopy = s.boot.cfgCopy ∧ u.boot.config = s.boot.config ∧ u.boot.count = s.boot.count := by
  obtain ⟨brownOut, coolOk, log⟩ := s.raiseImageCount_keeps n
  obtain ⟨m, measured⟩ := (s.raiseImageCount n).measureBoot_measured
  rw [measured]
  refine ⟨brownOut, ?_, log, ?_⟩
  · simp [State.coolHeld, State.elapsed, coolOk]
  · simp [State.modBoot]

theorem State.toStep4_of_cool (cool : s.coolHeld = true) : s.toStep4 =
    s.modBoot fun b => { b with stage := 4, hold := false, watchdog := if b.hold then some s.ticks else b.watchdog } := by
  rw [State.toStep4, if_pos cool]

theorem State.toStep4_of_warm (warm : s.coolHeld = false) : s.toStep4 = s.modBoot fun b => { b with hold := true, watchdog := none } := by
  rw [State.toStep4, if_neg (by simp [warm])]

theorem State.toStep4_keeps : s.toStep4.boot.fwSlot = s.boot.fwSlot ∧ s.toStep4.boot.cfgCopy = s.boot.cfgCopy ∧
    s.toStep4.boot.config = s.boot.config ∧ s.toStep4.boot.count = s.boot.count ∧ s.toStep4.velvet = s.velvet ∧ s.toStep4.flash = s.flash := by
  unfold State.toStep4
  split <;> exact ⟨rfl, rfl, rfl, rfl, rfl, rfl⟩

end

section

variable {s : State} {k : Nat} {f : Flash}

theorem State.selectImages_of_noFirmware (fw : s.flash.selectFw = none) : s.selectImages = s.bootError 1 := by
  rw [State.selectImages, fw]

theorem State.selectImages_of_noConfig (fw : s.flash.selectFw = some (k, f)) (cfg : f.selectCfg s.velvet.imageCount.toNat = none) :
    ∃ u : State, u.velvet = s.velvet ∧ u.flash.log = f.log ∧ s.selectImages = u.bootError 2 := by
  have none : (s.flash.attempted f).selectCfg s.velvet.imageCount.toNat = none := (Flash.attempted_selectCfg _ _ _).trans cfg
  refine ⟨{ s with flash := s.flash.attempted f }.modBoot fun b => { b with fwSlot := k, abandoned := s.flash.abandons }, rfl,
    Flash.attempted_log _ _, ?_⟩
  simp only [State.selectImages, fw, State.modBoot_flash, State.modBoot_velvet, none]

/-- The images selected, step 3 ends. -/
theorem State.selectImages_of_config {c : Nat} (fw : s.flash.selectFw = some (k, f)) (cfg : f.selectCfg s.velvet.imageCount.toNat = some c) :
    ∃ u : State, s.selectImages = u.toStep4 ∧ u.velvet.brownOut = s.velvet.brownOut ∧ u.flash.log = f.log ∧ u.coolHeld = s.coolHeld ∧
      u.boot.stage = s.boot.stage ∧ u.boot.fwSlot = k ∧ u.boot.cfgCopy = c ∧ u.boot.config = (f.copy c).config ∧ u.boot.count = s.boot.count := by
  have selected : (s.flash.attempted f).selectCfg s.velvet.imageCount.toNat = some c := (Flash.attempted_selectCfg _ _ _).trans cfg
  have config : ((s.flash.attempted f).copy c).config = (f.copy c).config := congrArg FlashImage.config (Flash.attempted_copy _ _ _)
  simp only [State.selectImages, fw, State.modBoot_flash, State.modBoot_velvet, selected]
  refine ⟨_, rfl, ?_⟩
  obtain ⟨brownOut, cool, log, stage, fwSlot, cfgCopy, same, count⟩ := State.imagesMeasured_keeps _ ((s.flash.attempted f).copy c).count
  exact ⟨brownOut, log.trans (Flash.attempted_log _ _), cool, stage, fwSlot, cfgCopy, same.trans config, count⟩

end

end Sys2Proof.Machine

/-! SUPPORT. Boot: what step 3 logs, and step 4's words and admitted dies. -/

namespace Sys2Proof.Machine

section

variable (s : State)

/-- The selection of the images leaves the brown-out flag and the event log. -/
theorem State.selectImages_keeps : s.selectImages.velvet.brownOut = s.velvet.brownOut ∧ s.selectImages.flash.log = s.flash.log := by
  cases fw : s.flash.selectFw with
  | none =>
    rw [State.selectImages_of_noFirmware fw]
    exact ⟨rfl, rfl⟩
  | some x =>
    obtain ⟨k, f⟩ := x
    have log := Flash.selectFw_log fw
    cases cfg : f.selectCfg s.velvet.imageCount.toNat with
    | none =>
      obtain ⟨u, velvet, kept, stopped⟩ := State.selectImages_of_noConfig fw cfg
      rw [stopped]
      exact ⟨congrArg Velvet.brownOut velvet, kept.trans log⟩
    | some c =>
      obtain ⟨u, selected, brownOut, kept, -⟩ := State.selectImages_of_config fw cfg
      obtain ⟨-, -, -, -, velvet, flash⟩ := u.toStep4_keeps
      rw [selected, velvet, flash]
      exact ⟨brownOut, kept.trans log⟩

/-- R472: a brown-out is logged and its flag cleared. -/
theorem State.recordsRead_of_brownOut (f : Flash) (low : s.velvet.brownOut = true) :
    (s.recordsRead f).velvet.brownOut = false ∧ (s.recordsRead f).flash.log = (f.logged (3, 0)).log := by
  have kept : ({ s with flash := f } : State).restoreCounters.velvet.brownOut = true ∧
      ({ s with flash := f } : State).restoreCounters.flash = f := by
    unfold State.restoreCounters
    split <;> exact ⟨low, rfl⟩
  unfold State.recordsRead
  generalize ({ s with flash := f } : State).restoreCounters = u at kept ⊢
  obtain ⟨flag, flash⟩ := kept
  simp only [State.modBoot_velvet, flag, if_true]
  exact ⟨rfl, congrArg (fun f : Flash => (f.logged (3, 0)).log) flash⟩

/-- Step 3 with images that it can select: they are shown, and step 4 begins or boot holds for COOL_OK (R418). -/
theorem State.step3_of_config {s : State} {r : BootReport} {f0 f : Flash} {k c : Nat} (stage : s.boot.stage = 3) (flash : r.flashOk = true)
    (root : r.rootOk = true) (restored : s.velvet.restored = true) (steady : s.velvet.brownOut = false)
    (read : s.flash.readRecords r.badTags = some f0) (fw : f0.selectFw = some (k, f)) (cfg : f.selectCfg s.velvet.imageCount.toNat = some c) :
    (s.step3 r).boot.fwSlot = k ∧ (s.step3 r).boot.cfgCopy = c ∧ (s.step3 r).boot.config = (f.copy c).config ∧
      (s.step3 r).boot.count = f0.bootCount ∧ (s.coolHeld = true → (s.step3 r).boot.stage = 4) ∧
      (s.coolHeld = false → (s.step3 r).boot.stage = 3 ∧ (s.step3 r).boot.hold = true ∧ (s.step3 r).boot.watchdog = none) := by
  rw [State.step3_eq_selectImages flash root read, State.recordsRead_of_restored f0 restored steady]
  obtain ⟨u, selected, -, -, cool, before, fwSlot, cfgCopy, config, count⟩ :=
    State.selectImages_of_config (s := { s with flash := f0, boot := { s.boot with count := f0.bootCount } }) fw cfg
  obtain ⟨keptSlot, keptCopy, keptConfig, keptCount, -, -⟩ := u.toStep4_keeps
  rw [selected]
  refine ⟨keptSlot.trans fwSlot, keptCopy.trans cfgCopy, keptConfig.trans config, keptCount.trans count, fun held => ?_, fun warm => ?_⟩
  · rw [State.toStep4_of_cool u (cool.trans held)]
    rfl
  · rw [State.toStep4_of_warm u (cool.trans warm)]
    exact ⟨before.trans stage, rfl, rfl⟩

theorem Flash.logged_log {f g : Flash} (h : f.log = g.log) (e : Nat × Nat) : (f.logged e).log = (g.logged e).log := by
  simp only [Flash.logged, h]

end

/-! ## Lists of bits -/

theorem mem_setBits {n : Nat} (v : BitVec n) (i : Nat) : i ∈ setBits v ↔ i < n ∧ v.getLsbD i = true := by
  simp [setBits]

/-- A mask has the bits that it names, and those with which it began. -/
theorem getLsbD_foldl_or {n : Nat} (l : List Nat) (m : BitVec n) {i : Nat} (hi : i < n) :
    (l.foldl (fun m j => m ||| BitVec.ofNat n (2 ^ j)) m).getLsbD i = true ↔ m.getLsbD i = true ∨ i ∈ l := by
  induction l generalizing m with
  | nil => simp
  | cons j l ih =>
    have bit : (BitVec.ofNat n (2 ^ j)).getLsbD i = true ↔ i = j := by
      rw [BitVec.getLsbD_ofNat, Nat.testBit_two_pow, decide_eq_true hi, Bool.true_and, decide_eq_true_eq]
      exact eq_comm
    rw [List.foldl_cons, ih, BitVec.getLsbD_or, Bool.or_eq_true, bit, List.mem_cons, or_assoc]

theorem getLsbD_maskOf {n : Nat} (l : List Nat) {i : Nat} (hi : i < n) : (maskOf n l).getLsbD i = true ↔ i ∈ l := by
  rw [maskOf, getLsbD_foldl_or l 0 hi]
  simp

/-! ## Step 4 (R404, R405) -/

/-- The capability word that a die reported. -/
def reportedWord (r : BootReport) (d : Nat) : Option (BitVec 32) := (r.dieCaps.find? fun x => x.1 = d).map (·.2)

/-- The dies that a configuration admits beside the hub. -/
def admittedDies (r : BootReport) (c : ConfigImage) : List Nat := (List.range 12).filter fun d => match reportedWord r d with
  | some w => c.admits r.hubCaps w
  | none => false

theorem mem_admittedDies (r : BootReport) (c : ConfigImage) {d : Nat} (hd : d < 12) :
    d ∈ admittedDies r c ↔ ∃ x, r.dieCaps.find? (fun y => y.1 = d) = some x ∧ c.admits r.hubCaps x.2 = true := by
  rw [admittedDies, List.mem_filter, List.mem_range, reportedWord]
  cases r.dieCaps.find? (fun y => y.1 = d) with
  | none => simp
  | some x => simp [hd]

/-- A die's word noted, where it reported one. -/
def State.noteWord (s : State) (r : BootReport) (d : Nat) : State := match reportedWord r d with
  | some w => s.noteCaps d w
  | none => s

/-- The words of the dies and of the hub noted. -/
def State.wordsNoted (s : State) (r : BootReport) : State :=
  (((List.range 12).foldl (fun s d => s.noteWord r d) s).modBoot fun b => { b with hubWord := r.hubCaps, caps := r.hubCaps &&& 0x3FFFF }).modVelvet
    fun v => { v with hubRev := some (BitVec.ofNat 4 (fld r.hubCaps 0 4)) }

/-- Step 4 notes the words, and then refuses the hub, finds no die, or admits those that agree. -/
theorem State.step4_eq (s : State) (r : BootReport) : s.step4 r =
    if !s.boot.config.verOk r.hubCaps || !s.boot.config.flagsOk r.hubCaps then (s.wordsNoted r).bootError 3
    else if (admittedDies r s.boot.config).isEmpty then (s.wordsNoted r).bootError 6
    else (s.wordsNoted r).modBoot fun b => { b with
      stage := 5, caps := packageCaps r.hubCaps ((admittedDies r s.boot.config).map fun d => (reportedWord r d).getD 0)
      admitted := maskOf 12 (admittedDies r s.boot.config) } := rfl

section

variable (s : State) {r : BootReport} {d : Nat}

theorem State.foldl_noteWord_dieCaps {w : BitVec 32} (word : reportedWord r d = some w) (l : List Nat)
    (h : d ∈ l ∨ kget 0 s.boot.dieCaps d = w &&& 0x3FFFF) :
    kget 0 (l.foldl (fun s d => s.noteWord r d) s).boot.dieCaps d = w &&& 0x3FFFF := by
  induction l generalizing s with
  | nil => exact h.resolve_left List.not_mem_nil
  | cons e l ih =>
    refine ih (s.noteWord r e) ?_
    by_cases same : d = e
    · subst same
      simp [State.noteWord, word, State.noteCaps, State.modBoot, kget_kset_same]
    · refine h.imp (fun mem => (List.mem_cons.1 mem).resolve_left same) fun noted => ?_
      unfold State.noteWord
      split
      · exact (kget_kset_ne _ _ _ _ _ same).trans noted
      · exact noted

/-- R404: HUB_DIE_CAPS_d reads the word that die d reported. -/
theorem State.wordsNoted_dieCaps {x : Nat × BitVec 32} (hd : d < 12) (found : r.dieCaps.find? (fun y => y.1 = d) = some x) :
    kget 0 (s.wordsNoted r).boot.dieCaps d = x.2 &&& 0x3FFFF := by
  have word : reportedWord r d = some x.2 := by rw [reportedWord, found, Option.map_some]
  exact s.foldl_noteWord_dieCaps word (List.range 12) (.inl (List.mem_range.2 hd))

theorem State.step4_notes (r : BootReport) : (s.step4 r).boot.hubWord = r.hubCaps ∧
    (s.step4 r).velvet.hubRev = some (BitVec.ofNat 4 (fld r.hubCaps 0 4)) ∧ (s.step4 r).boot.dieCaps = (s.wordsNoted r).boot.dieCaps := by
  rw [State.step4_eq]
  split
  · exact ⟨rfl, rfl, rfl⟩
  · split <;> exact ⟨rfl, rfl, rfl⟩

theorem State.step4_of_unfit (unfit : s.boot.config.verOk r.hubCaps = false ∨ s.boot.config.flagsOk r.hubCaps = false) :
    s.step4 r = (s.wordsNoted r).bootError 3 := by
  rw [State.step4_eq, if_pos]
  rcases unfit with h | h <;> simp [h]

/-- The dies that agree with the hub and the configuration are admitted, where there is one. -/
theorem State.step4_of_admitted (version : s.boot.config.verOk r.hubCaps = true) (flags : s.boot.config.flagsOk r.hubCaps = true)
    (some : d ∈ admittedDies r s.boot.config) : (s.step4 r).boot.stage = 5 ∧ (s.step4 r).boot.admitted = maskOf 12 (admittedDies r s.boot.config) := by
  rw [State.step4_eq, if_neg (by simp [version, flags]), if_neg (by simpa using List.ne_nil_of_mem some)]
  exact ⟨rfl, rfl⟩

end

end Sys2Proof.Machine

/-! SUPPORT. Boot: steps 5 and 6: what runs, and what memory keeps. -/

namespace Sys2Proof.Machine

/-! ## Step 5 (R402, R405): what runs -/

/-- What of the dies and tiles step 5 shows: which tiles are up, which dies' PLLs run, and which dies are admitted. -/
structure Running where
  up : Nat → Bool
  pll : Nat → Bool
  admitted : BitVec 12

def State.running (s : State) : Running := ⟨fun d => (s.tile d).up, fun d => (s.die d).pll, s.boot.admitted⟩

section

variable (s : State)

@[simp] theorem State.running_ite (c : Prop) [Decidable c] (a b : State) : (if c then a else b).running = if c then a.running else b.running :=
  apply_ite State.running c a b

@[simp] theorem State.foldl_running {α : Type} {f : State → α → State} (l : List α) (h : ∀ s x, (f s x).running = s.running) :
    (l.foldl f s).running = s.running := by
  induction l generalizing s with
  | nil => rfl
  | cons x l ih => rw [List.foldl_cons, ih, h]

@[simp] theorem State.modCore_running (c : Nat) (f : Core → Core) : (s.modCore c f).running = s.running := (rfl)
@[simp] theorem State.modPwr_running (d : Nat) (f : PwrDie → PwrDie) : (s.modPwr d f).running = s.running := (rfl)
@[simp] theorem State.modHub_running (f : Hub → Hub) : (s.modHub f).running = s.running := (rfl)
@[simp] theorem State.modRing_running (r : Nat) (f : HostRing → HostRing) : (s.modRing r f).running = s.running := (rfl)
@[simp] theorem State.modFlash_running (f : Flash → Flash) : (s.modFlash f).running = s.running := (rfl)
@[simp] theorem State.draw_running : s.draw.2.running = s.running := (rfl)
@[simp] theorem State.modBoot_running (f : Boot → Boot) (h : (f s.boot).admitted = s.boot.admitted) : (s.modBoot f).running = s.running := by
  simp only [State.running, State.modBoot, h]
  rfl

@[simp] theorem State.extend_running (n : Nat) (v : BitVec 256) : (s.extend n v).running = s.running :=
  s.modBoot_running _ rfl

/-- An update of a tile that leaves it up, or not. -/
@[simp] theorem State.modTile_running (t : Nat) (f : Tile → Tile) (h : (f (s.tile t)).up = (s.tile t).up) : (s.modTile t f).running = s.running := by
  have up (d : Nat) : ((s.modTile t f).tile d).up = (s.tile d).up := by
    by_cases same : d = t
    · subst same
      rw [State.modTile_tile_same, h]
    · rw [State.modTile_tile_ne s t d f same]
  simp only [State.running, up]
  rfl

@[simp] theorem State.modDie_running (d : Nat) (f : Die → Die) (h : (f (s.die d)).pll = (s.die d).pll) : (s.modDie d f).running = s.running := by
  have pll (e : Nat) : ((s.modDie d f).die e).pll = (s.die e).pll := by
    by_cases same : e = d
    · subst same
      rw [State.modDie_die_same, h]
    · rw [State.modDie_die_ne s d e f same]
  simp only [State.running, pll]
  rfl

@[simp] theorem State.modErrs_running (r : Nat) (f : ErrRing → ErrRing) : (s.modErrs r f).running = s.running := by
  simp [State.modErrs]

@[simp] theorem State.outbox_running (typ source status detail : Nat) : (s.outbox typ source status detail).running = s.running := by
  simp [State.outbox]

@[simp] theorem State.recordAt_running (r : Nat) (c : Rec) : (s.recordAt r c).1.running = s.running := by
  unfold State.recordAt State.alertErrors State.putRecord
  dsimp only
  split <;> simp

@[simp] theorem State.record_running (r : Nat) (c : Rec) : (s.record r c).running = s.running := by
  unfold State.record
  dsimp only
  split
  · split <;> simp
  · simp

@[simp] theorem State.repairEntry_running (kind value : Nat) : (s.repairEntry kind value).running = s.running := by
  simp [State.repairEntry]

@[simp] theorem State.setStep_running (d : Nat) : (s.setStep d).running = s.running := by
  simp [State.setStep]

@[simp] theorem State.replacePosition_running (d p : Nat) : (s.replacePosition d p).running = s.running := by
  unfold State.replacePosition
  split
  · rfl
  · exact (State.modDie_running _ _ _ rfl).trans (State.modCore_running _ _ _)

@[simp] theorem State.mapCores_running (d : Nat) : (s.mapCores d).running = s.running := by
  refine (State.foldl_running _ _ fun s e => ?_).trans ?_
  · rw [State.running_ite, State.replacePosition_running, ite_self]
  · refine (State.modDie_running _ _ _ rfl).trans ?_
    exact State.foldl_running _ _ fun s k => State.modCore_running _ _ _

@[simp] theorem State.repairUcie_running (t : Nat) : (s.repairUcie t).running = s.running := by
  simp [State.repairUcie]

@[simp] theorem State.degradeUcie_running (t : Nat) (bad slow : List Nat) : (s.degradeUcie t bad slow).running = s.running := by
  have slowed (s : State) (l : Nat) : (s.modTile t fun k =>
      if l = 2 then { k with ucie32 := false } else { k with ucieSlow := setBit k.ucieSlow l true }).running = s.running :=
    s.modTile_running _ _ (by split <;> rfl)
  simp [State.degradeUcie, slowed]

/-- Die d and its tile run. -/
def State.Runs (s : State) (d : Nat) : Prop := s.running.up d = true ∧ s.running.pll d = true

/-- The clocks and the tile of a die started: it runs, and a die that ran runs on. -/
theorem State.started_runs (d e : Nat) (f : Die → Die) (g : Tile → Tile) (pll : ∀ k, (f k).pll = true) (up : ∀ k, (g k).up = true)
    (h : d = e ∨ s.Runs e) : ((s.modDie d f).modTile d g).Runs e := by
  by_cases same : e = d
  · subst same
    constructor
    · exact (congrArg Tile.up (State.modTile_tile_same _ _ _)).trans (up _)
    · exact (congrArg Die.pll (State.modDie_die_same s e f)).trans (pll _)
  · obtain ⟨tileUp, diePll⟩ := h.resolve_left (Ne.symm same)
    constructor
    · exact (congrArg Tile.up (State.modTile_tile_ne _ _ _ _ same)).trans tileUp
    · exact (congrArg Die.pll (State.modDie_die_ne s d e f same)).trans diePll

/-- R402, R25: a die that comes up runs, and one that ran runs on. -/
theorem State.bringUp_runs (d e : Nat) (w : BitVec 32) (h : d = e ∨ s.Runs e) : (s.bringUp d w).Runs e := by
  unfold State.bringUp State.Runs
  simp only [State.setStep_running, State.repairUcie_running, State.mapCores_running]
  exact s.started_runs d e _ _ (fun _ => rfl) (fun _ => rfl) h

theorem State.bringUp_admitted (d : Nat) (w : BitVec 32) : (s.bringUp d w).boot.admitted = s.boot.admitted := by
  have h : (s.bringUp d w).running.admitted = s.boot.admitted := by
    unfold State.bringUp
    simp only [State.setStep_running, State.repairUcie_running, State.mapCores_running]
    rfl
  exact h

/-- Of dies that come up in turn, each runs in the end. -/
theorem State.foldl_bringUp (word : Nat → BitVec 32) (l : List Nat) {e : Nat} (h : e ∈ l ∨ s.Runs e) :
    (l.foldl (fun s d => s.bringUp d (word d)) s).Runs e ∧ (l.foldl (fun s d => s.bringUp d (word d)) s).boot.admitted = s.boot.admitted := by
  induction l generalizing s with
  | nil => exact ⟨h.resolve_left List.not_mem_nil, rfl⟩
  | cons d l ih =>
    have next : e ∈ l ∨ (s.bringUp d (word d)).Runs e := by
      by_cases mem : e ∈ l
      · exact .inl mem
      · exact .inr (s.bringUp_runs d e _ (h.imp_left fun m => ((List.mem_cons.1 m).resolve_right mem).symm))
    obtain ⟨runs, admitted⟩ := ih (s.bringUp d (word d)) next
    exact ⟨runs, admitted.trans (s.bringUp_admitted d _)⟩

/-- Step 5: the dies that were admitted and did not fail run. -/
theorem State.step5_runs (r : BootReport) {d : Nat} (hd : d < 12) (admitted : s.boot.admitted.getLsbD d = true)
    (sound : ∀ x ∈ r.failed, x.val ≠ d) : (s.step5 r).boot.stage = 6 ∧ ((s.step5 r).tile d).up = true ∧ ((s.step5 r).die d).pll = true ∧
      (s.step5 r).boot.admitted.getLsbD d = true := by
  unfold State.step5
  extract_lets ds word caps s1 s2 mods slow s3
  have mem : d ∈ ds := by
    refine List.mem_filter.2 ⟨(mem_setBits _ _).2 ⟨hd, admitted⟩, ?_⟩
    simpa using sound
  rw [if_neg (by simpa using List.ne_nil_of_mem mem)]
  obtain ⟨⟨up, pll⟩, kept⟩ := s1.foldl_bringUp word ds (.inl mem)
  have running : ((s3.extend 4 (digest (sha3 s3.capsBytes))).modBoot fun b => { b with stage := 6 }).running = s2.running := by
    simp [s3]
  have stage : ((s3.extend 4 (digest (sha3 s3.capsBytes))).modBoot fun b => { b with stage := 6 }).boot.stage = 6 := rfl
  generalize ((s3.extend 4 (digest (sha3 s3.capsBytes))).modBoot fun b => { b with stage := 6 }) = t at running stage ⊢
  refine ⟨stage, (congrArg (fun x => x.up d) running).trans up, (congrArg (fun x => x.pll d) running).trans pll, ?_⟩
  have last : t.boot.admitted = maskOf 12 ds := (congrArg Running.admitted running).trans kept
  rw [last]
  exact (getLsbD_maskOf ds hd).2 mem

end

/-! ## Step 6 (R402, R414) -/

/-- The repairs of a tile's DRAM leave memory. -/
theorem State.repairDram_keeps (s : State) (t : Nat) : (s.repairDram t).mem = s.mem ∧ (s.repairDram t).poison = s.poison := by
  unfold State.repairDram
  generalize s.repairList = l
  induction l generalizing s with
  | nil => exact ⟨rfl, rfl⟩
  | cons e l ih =>
    obtain ⟨mem, poison⟩ := ih _
    rw [List.foldl_cons, mem, poison]
    split <;> exact ⟨rfl, rfl⟩

/-- Step 6 (R402, R414): DRAM and the scratch ways are zero, all but the management reserve. -/
theorem State.step6_zeroes (s : State) : s.step6.boot.stage = 7 ∧ s.step6.mem = reserveCells s.mem ∧ s.step6.poison = reserveSectors s.poison := by
  have kept (l : List Nat) (s : State) : (l.foldl (fun s t => s.repairDram t) s).mem = s.mem ∧
      (l.foldl (fun s t => s.repairDram t) s).poison = s.poison := by
    induction l generalizing s with
    | nil => exact ⟨rfl, rfl⟩
    | cons t l ih =>
      obtain ⟨mem, poison⟩ := ih (s.repairDram t)
      exact ⟨mem.trans (s.repairDram_keeps t).1, poison.trans (s.repairDram_keeps t).2⟩
  exact ⟨rfl, (kept _ _).1, (kept _ _).2⟩

end Sys2Proof.Machine

section

open Sys2Proof Sys2Proof.Machine

/-- Settles O53: input power by what scope 5 leaves; each stage of boot by the lemma of its step; and READY by what the registers, the records
and the accesses to memory of step 7 keep (`State.setUp`). -/
theorem bootProceedsStageByStage : Obligations.BootProceedsStageByStage := by
  unfold Obligations.BootProceedsStageByStage
  refine ⟨fun s off => exec_powerOn off, fun s on invalid held cool rail => ?_, fun s _ _ early => exec_inputPowerValid_early early,
    fun s valid => exec_brownOut valid, exec_inputPowerAbsent, fun s stage valid => exec_hubPowerFail stage valid,
    fun r s _ trip => exec_bootStage_of_trip r trip, fun r s valid sound untripped cool => ?_,
    fun s since running late valid untripped cool => ?_, fun r s valid sound untripped cool stage busy flash root read low => ?_⟩
  · exact ⟨_, exec_inputPowerValid on invalid held cool rail, rfl, rfl, getLsbD_alert_kept _, rfl, rfl, rfl, rfl, rfl⟩
  · have run := exec_bootStage_of_runs r (s := s) ⟨valid, sound, untripped, cool⟩
    refine ⟨fun stage => ?_, fun stage => ?_, fun stage busy => ?_, fun stage busy flash root restored steady => ?_, fun stage hold held => ?_,
      fun stage => ?_, fun stage unfit => ?_, fun stage version flags die => ?_, fun stage die => ?_, fun stage => ?_, fun stage => ?_⟩
    all_goals simp only [State.completeStage, stage] at run
    · exact run
    · exact ⟨_, run, rfl, rfl, rfl, rfl, rfl, rfl, rfl, rfl, rfl⟩
    · simp only [busy] at run
      exact ⟨fun flash => ⟨_, run.trans (congrArg _ (State.step3_of_flash flash)), rfl⟩,
        fun flash root => ⟨_, run.trans (congrArg _ (State.step3_of_root flash root)), rfl⟩⟩
    · simp only [busy] at run
      refine ⟨fun bad => ⟨_, run.trans (congrArg _ (State.step3_of_records flash root bad)), rfl⟩, fun f0 read => ⟨fun none => ?_, fun k f fw =>
        ⟨fun none => ?_, fun c cfg => ⟨_, run, State.step3_of_config stage flash root restored steady read fw cfg⟩⟩⟩⟩
      all_goals
        have images := State.step3_eq_selectImages flash root read
        rw [State.recordsRead_of_restored f0 restored steady] at images
      · exact ⟨_, run.trans (congrArg _ (images.trans (State.selectImages_of_noFirmware none))), rfl⟩
      · obtain ⟨u, -, -, stopped⟩ := State.selectImages_of_noConfig (s := { s with flash := f0, boot := { s.boot with count := f0.bootCount } }) fw none
        exact ⟨_, run.trans (congrArg _ (images.trans stopped)), rfl⟩
    · simp only [hold] at run
      refine ⟨_, run.trans (congrArg _ (State.toStep4_of_cool s held)), rfl, ?_⟩
      simp [State.modBoot, hold]
    · obtain ⟨hub, rev, words⟩ := s.step4_notes r
      refine ⟨_, run, hub, rev, fun d x hd found => ?_⟩
      have noted := s.wordsNoted_dieCaps hd found
      rw [← words] at noted
      exact congrArg BitVec.toNat noted
    · exact ⟨_, run.trans (congrArg _ (s.step4_of_unfit unfit)), rfl⟩
    · obtain ⟨d, hd, word⟩ := die
      obtain ⟨next, admitted⟩ := s.step4_of_admitted version flags ((mem_admittedDies r s.boot.config hd).2 word)
      refine ⟨_, run, next, fun e he => ?_⟩
      rw [admitted, getLsbD_maskOf _ he]
      exact mem_admittedDies r s.boot.config he
    · obtain ⟨d, hd, admitted, sound⟩ := die
      exact ⟨_, run, (s.step5_runs r hd admitted sound).1, fun e he admitted sound => (s.step5_runs r he admitted sound).2⟩
    · exact ⟨_, run, s.step6_zeroes⟩
    · exact ⟨_, run, s.step7_shows⟩
  · exact ⟨_, exec_bootWatchdog running late valid untripped cool, packageReset_of_modFlash _ _, rfl⟩
  · obtain ⟨f, read⟩ := Option.isSome_iff_exists.1 read
    have run := exec_bootStage_of_runs r (s := s) ⟨valid, sound, untripped, cool⟩
    simp only [State.completeStage, stage, busy] at run
    obtain ⟨brownOut, log⟩ := (s.recordsRead f).selectImages_keeps
    obtain ⟨cleared, logged⟩ := s.recordsRead_of_brownOut f low
    refine ⟨_, run.trans (congrArg _ (State.step3_eq_selectImages flash root read)), brownOut.trans cleared, (log.trans logged).trans ?_⟩
    exact Flash.logged_log (Flash.readRecords_log read) _

end
